-- ==== Sys2Proof/Word.lean ====
section
/-! DEFINITION. The words of the device: bytes, 32-bit register words (R5) and 64-bit counts (R24, R30). -/
namespace Sys2Proof

/-- A byte of a record, a frame or an image. -/
abbrev Byte := BitVec 8

/-- A register word (R5). -/
abbrev Word := BitVec 32

/-- A 64-bit count: the free counter T (R24), BELLCNT (R30), conservation counts before narrowing. -/
abbrev Tick := BitVec 64

end Sys2Proof
end

