-- ==== Sys2Proof/Syntax.lean ====
section
/-! DEFINITION. The commands and events of the device: one constructor per row of spec/opcode_table.json, with what the world outside gives it. -/
namespace Sys2Proof

/-- The requesters of R62 and R68, each with its own latched words and windows. -/
inductive Requester where
  | pcie0 | pcie1 | cores | mspi
  deriving DecidableEq, Repr

/-- The modes of Table 2.5. -/
inductive Mode where
  | off | bringup | minimal | standby | active | factory
  deriving DecidableEq, Repr

/-- The fault classes of R455: C logged, D deferred, U urgent. -/
inductive FaultClass where
  | c | d | u
  deriving DecidableEq, Repr

/-- The boundaries a staged value can wait for (R33, R34). -/
inductive Boundary where
  | bell
  | gclCycle (port : Nat)
  | audioBlock (out : Nat)
  | gridPeriod (grid : Nat)
  deriving DecidableEq, Repr

/-- The fuse array as a trim load reads it (R435): the fuses the spec names, and the whole array as bytes for its digest (R388). -/
structure FuseImage where
  factoryEn     : Bool
  wardenPcie    : Bool
  /-- START_LIMIT (R444); 0 is a blank fuse -/
  startLimit    : Nat
  /-- PINRST, 8 words as RST_PINRSTn shows them (R449) -/
  pinrst        : List Word
  /-- CHARTER_SIGNER (R81) -/
  charterSigner : Bool
  /-- number of blown fuses of CHARTER_SVN_FLOOR (R81) -/
  svnFloor      : Nat
  custKeyHash   : List Byte
  /-- HOLDCAP in µF and HRATIO in 1/16 (R381) -/
  holdcap       : Nat
  hratio        : Nat
  /-- the trim of the backup oscillator (Table 19.2) -/
  bkpTrim       : Nat
  /-- the array with the identity root's bits read as zero (Table 16.5) -/
  bytes         : List Byte
  /-- subsystem vendor (bits 15:0) and subsystem ID (bits 31:16) of PCIe (R345) -/
  subsys        : Word
  deriving DecidableEq, Repr

/-- A link entry of a pitch record (Table 4.7). -/
structure Link where
  type  : Nat
  arg   : Nat
  value : Word
  deriving DecidableEq, Repr

/-- What the device reads in host memory for a descriptor a doorbell gives it: the 32 bytes of the descriptor (Tables 15.6 and 15.8, little-endian) and, of a transmit descriptor, the bytes of its buffer. -/
structure Post where
  desc : List Byte
  data : List Byte
  deriving DecidableEq, Repr

/-- A calibration of an interpolator (R222): every bin holds `fill` hits but those listed. -/
structure CalResult where
  intp : Nat
  fill : Nat
  bins : List (Nat × Nat)
  deriving DecidableEq, Repr

/-- What self-test finds (Table 19.4). -/
structure SelfTestIn where
  sramOk     : Bool
  lockstepOk : Bool
  auditorOk  : Bool
  /-- the voltage step of the discharge test, mV through HRATIO (R383), and VHSNS in mV -/
  deltaMv    : Nat
  vhsns      : Nat
  tdc        : List CalResult
  /-- TWFLOOR reads low now (R400) -/
  floorLow   : Bool
  /-- the identity fuses read back as programmed (R368) -/
  idReadOk   : Bool
  /-- the tap delays of the time bus, ps (R26): the timestamp units of ports 0 to 5, capture inputs 0 to 15, the TDC -/
  taps       : List Nat
  deriving DecidableEq, Repr

/-- The samples of a band between two Bells (R229, R264): how often each of the 16 codes came on I and on Q, and the power left after the notches, summed as the squares of the sample values. -/
structure BandIn where
  codesI : List Nat
  codesQ : List Nat
  post   : Nat
  deriving DecidableEq, Repr

/-- A channel in TRACK at a Bell: C/N0 in 0.1 dB-Hz, its satellite's elevation in degrees, Doppler in 2⁻⁸ Hz, and its seven correlators VE, E, P, L, VL, PD, N (R236). -/
structure ChanIn where
  ch   : Nat
  cn0  : Nat
  elev : Nat
  dop  : Int
  corr : List Int
  deriving DecidableEq, Repr

/-- What the device measures at a Bell. -/
structure BellIn where
  /-- phase of the probe output of each stall against TS-O at the Bell TCLK, 2⁻¹⁶ ns (R186) -/
  probes     : List (Nat × Int)
  /-- what the on-chip sensor reads, 1/256 K (R476), and the voltage converted at TSENSE, 1/256 of 10 mV (R478) -/
  tChip      : Int
  vSense     : Int
  /-- frequency of GCLK against OSC, mHz, and the longest time without an edge since the last Bell, ns (R230) -/
  gclkHz     : Nat
  gclkGap    : Nat
  /-- the samples of each band (R264) -/
  bands      : List BandIn
  /-- what the channels in TRACK measure (R236, R237, R264) -/
  chans      : List ChanIn
  /-- candidates of the channel allocation: system, signal, satellite, frequency channel, elevation (R237) -/
  cands      : List (Nat × Nat × Nat × Int × Nat)
  /-- ports whose loopback pattern came back changed (R292) -/
  loopBad    : List Nat
  deriving DecidableEq, Repr

/-- A monitor's measurement of one interval (R147): the mean y of the interval against the oscillator, 2⁻⁴⁸. -/
structure RefMeas where
  ref : Nat
  y   : Int
  deriving DecidableEq, Repr

/-- An edge at a TDC input: the levels before and after it, mV, and the interpolator's code for its place after the coarse step that is now (R212, R213). -/
structure TdcIn where
  before : Int
  after  : Int
  code   : Nat
  deriving DecidableEq, Repr

/-- A satellite's clock correction: it is late on its system's time by a0 ps and a1 per second, 2⁻⁴⁸, from the TAI second toc (R234). -/
structure ClockPoly where
  a0  : Int
  a1  : Int
  toc : Nat
  deriving DecidableEq, Repr, Inhabited

/-- What the bits of a message say, as its interface document lays down (R233 to R235, R245, R255): an ephemeris complete with the unit (for LNAV subframes 1 to 3 as received) and the satellite's clock correction; an almanac; TAI − UTC and its change, whose new value may be unknown; the week field; the parameters of the system's ionospheric model; the system's broadcast offset from GPS-derived TAI, ps; and how far a new ephemeris places its satellite from its almanac position, km (FS5). -/
structure NavContent where
  ephemeris : Option (List Byte)
  clk       : Option ClockPoly
  almanac   : Option (List Byte)
  utc       : Option (Int × Option (Nat × Option Int))
  week      : Option Nat
  iono      : Option (List Int)
  offset    : Option Int
  fs5Km     : Nat
  deriving DecidableEq, Repr, Inhabited

/-- A navigation unit of a channel, its forward error correction removed (R242 to R244). -/
structure NavUnit where
  tFirst   : Tick
  ch       : Nat
  bits     : List Bool
  slip     : Bool
  inverted : Bool
  /-- the LNAV subframe the word belongs to -/
  subframe : Nat
  content  : NavContent
  deriving DecidableEq, Repr

/-- A signal's measurement at an epoch (R231, R250): the time of transmission by the satellite's clock, ps of its system's time, of what the sample pins receive at the 1 ms tag before the epoch and at the one after it; the fractional frequency of the signal against TS-O, less what the satellite's motion predicts, 2⁻⁴⁸; C/N0 in 0.1 dB-Hz. -/
structure BandMeas where
  sig  : Nat
  txA  : Int
  txB  : Int
  rate : Int
  cn0  : Nat
  deriving DecidableEq, Repr, Inhabited

/-- A satellite's measurements at an epoch: L1 band, L5 band where both are there; the light time of its range from `EpochIn.pos` by its ephemeris, ps; direction cosines towards it in 2⁻²⁰; elevation and azimuth in degrees. -/
structure SatMeas where
  sys   : Nat
  sv    : Nat
  m1    : BandMeas
  m5    : Option BandMeas
  range : Int
  dx    : Int
  dy    : Int
  dz    : Int
  elev  : Nat
  azim  : Nat
  deriving DecidableEq, Repr

/-- What an epoch brings (R231, R250): the point the ranges and directions refer to, ECEF mm; the satellites; the samples latched since the stream began, and the time since the last rising edge of GCLK, ps. -/
structure EpochIn where
  pos     : Int × Int × Int
  sats    : List SatMeas
  samples : Nat
  phase   : Nat
  deriving DecidableEq, Repr

/-- Who searches: the priority slot of a band whose turn it is, or an aided channel (R238, R240). -/
inductive Searcher where
  | bank (band : Nat)
  | chan (ch : Nat)
  deriving DecidableEq, Repr

/-- A cell of the search (R240): frequency channel of GLONASS; code phase in ns and Doppler in Hz, for an aided channel counted from the prediction; the power of each 1 ms coherent integration. -/
structure Cell where
  fch  : Int
  code : Int
  dop  : Int
  sums : List Nat
  deriving DecidableEq, Repr

/-- What a dwell measured: the predicted Doppler of an aided channel, Hz; the mean power of 1 ms of noise from the N correlators; its cells. -/
structure DwellIn where
  pred  : Int
  floor : Nat
  cells : List Cell
  deriving DecidableEq, Repr

/-- A frame as a port receives it: its bytes with the FCS, the errors of Table 12.2 the PCS found (bit 3 alignment, bit 4 code), the sub-TCLK part of its stamp in 2⁻¹⁶ ns (R295), and the codewords the FEC has corrected and failed to correct since the frame before (Table 12.8). -/
structure RxFrame where
  bytes : List Byte
  errs  : Nat
  sub   : Nat
  fecCorr   : Nat
  fecUncorr : Nat
  deriving DecidableEq, Repr

/-- A line of an averaged spectrum (R262): its IF in Hz and its height over the median floor in 0.1 dB. -/
structure SpecLine where
  freq : Int
  db   : Int
  deriving DecidableEq, Repr

/-- What an AES3 input brings with the start of an X or Z preamble (R412, R414): whether it is a Z preamble, the preamble and biphase errors of the frame that ends with it, and the time slots 4 to 31 of that frame's subframes, slot 4 in bit 0. -/
structure AesFrame where
  z      : Bool
  coding : Nat
  a      : BitVec 28
  b      : BitVec 28
  deriving DecidableEq, Repr

/-- The instructions of the JTAG port (R484). -/
inductive JtagInstr where
  | bypass | idcode | samplePreload | extest | highz | clamp
  deriving DecidableEq, Repr

/-- The steps of the device: one constructor for each row of the operation table, in its order. Every `req` is the requester of the access, every `val` the word written. -/
inductive Instr where
  | coreRailsValid
  | coreRailsFail
  | porstNLow
  | porstNRise (testmode : Bool)
  | rstNLow
  | rstNRelease
  | perstN
  | functionLevelReset (fn : Nat)
  | brownoutHoldBegin (vcore : Nat)
  | brownoutHoldEnd (vcore : Nat)
  | brownoutReset (vcore : Nat)
  | brownoutResetRelease (vcore : Nat)
  | trimLoadComplete (crcOk : Bool) (image : FuseImage)
  | clockDomainGood (d : Nat) (hz : Nat)
  | clockDomainTimeout (d : Nat)
  | clockLoss (d : Nat)
  | charterFlashReadComplete (slot : Nat) (image : List Byte)
  | flashIoFail
  | fabricBuildComplete
  | selfTestComplete (res : SelfTestIn)
  | holdupEnergyTimeout
  | bringupWatchdogExpiry
  | startSuccessCount
  | claimWaitExpiry
  | twfloorLowInClaim
  | watchdogExpiry
  | rstWdogWrite (req : Requester) (val : Word)
  | rstCmdBlockReset (req : Requester) (val : Word)
  | rstCmdChipReset (req : Requester) (val : Word)
  | rstCmdCoresReset (req : Requester) (val : Word)
  | blockQuiesced
  | quiesceTimeout
  | blockResetRelease
  | bell (inp : BellIn)
  | suppressedWrap
  | preBell
  | stageArming (b : Boundary)
  | checkpointComplete
  | ledgerExtractIssue (signedInTime : Bool)
  | ledgerRingDelivery
  | tallyRingDelivery
  | registerWrite (req : Requester) (off : Nat) (bytes : Nat) (val : Word)
  | readClearRead (req : Requester) (off : Nat) (bytes : Nat)
  | latchingRead (req : Requester) (off : Nat) (bytes : Nat)
  | aliasRead (req : Requester) (off : Nat) (bytes : Nat)
  | aliasWrite (req : Requester) (off : Nat) (bytes : Nat) (val : Word)
  | indDataRead (req : Requester) (slot : Nat)
  | indDataWrite (req : Requester) (slot : Nat) (val : Word)
  | indTimeout (req : Requester) (slot : Nat)
  | genVerOfferWrite (req : Requester) (val : Word)
  | tscLrdSelWrite (req : Requester) (val : Word)
  | scSetNsWrite (req : Requester) (scale : Nat) (val : Word)
  | scStepHiWrite (req : Requester) (scale : Nat) (val : Word)
  | loadStream (req : Requester)
  | loadFlash (req : Requester) (slot : Nat)
  | arm (req : Requester)
  | flashWrite (req : Requester) (slot : Nat)
  | abort (req : Requester)
  | chtLoadDataWrite (req : Requester) (val : Word)
  | verifyComplete
  | shadowBuildComplete
  | flashWriteComplete (equal : Bool)
  | holdoverPointBoundary (scale : Nat)
  | refPresent (ref : Nat)
  | refQualify (ref : Nat)
  | refLoss (ref : Nat) (cause : Nat)
  | holdoffExpiry (stall : Nat)
  | refEvaluation (meas : List RefMeas)
  | selDclrWrite (req : Requester) (stall : Nat) (val : Word)
  | refLockoutWrite (req : Requester) (val : Word)
  /-- `phase`: what the detector measures, ps (R169) -/
  | stallUpdate (stall : Nat) (phase : Int)
  | apllLockAssert (n : Nat)
  | apllLockLoss (n : Nat)
  | apllRefLoss (n : Nat)
  | phaseStepperStep (n : Nat) (half : Bool)
  | pulseInstant (n : Nat)
  | pulseWidthEnd (trig : Bool) (n : Nat)
  | pulseInputEdge (ref : Nat) (falling : Bool) (sub : Nat)
  | missingInputPulse (ref : Nat)
  | gridBoundary (g : Nat)
  | gridEdge (g : Nat) (sub : Nat)
  | gridFlywheel (g : Nat)
  | triggerInstant (n : Nat)
  | trnCntHiWrite (req : Requester) (n : Nat) (val : Word)
  | captureEdge (n : Nat) (falling : Bool) (sub : Nat)
  | trnCap0Read (req : Requester) (n : Nat)
  | tdcStartEdge (e : TdcIn)
  | tdcStopEdge (input : Nat) (e : TdcIn)
  | tdcWindowExpiry
  | tdcTimestampEdge (input : Nat) (e : TdcIn)
  | tdcGateClose
  | tdcMinute (rdy : Bool)
  | tdcCalibrationComplete (res : CalResult)
  | tdcRes0Read (req : Requester)
  | gclkRecovery
  | searchDwellComplete (who : Searcher) (inp : DwellIn)
  | searchTimeout (ch : Nat)
  | channelTrack (ch : Nat)
  | navUnitDecoded (u : NavUnit)
  | gnssStoreWrite (item : Nat)
  | aidRecord (content : NavContent)
  | solutionEpoch (inp : EpochIn)
  | gnPosZHiWrite (req : Requester) (val : Word)
  | spectrumUpdate (band : Nat) (lines : List SpecLine)
  | leapChange
  | gnJncfgLearn (req : Requester) (band : Nat) (val : Word)
  | frameReceived (port : Nat) (f : RxFrame)
  | prpForget (port : Nat) (src : Nat) (seq : Nat)
  | pauseTimerExpiry (port : Nat) (prio : Option Nat)
  | transmitOpportunity (port : Nat)
  | launchQueueEntry (port : Nat)
  | launchStart (port : Nat)
  | gateEntryChange (port : Nat)
  | gclCycleStart (port : Nat)
  | macGclCommitWrite (req : Requester) (port : Nat) (val : Word)
  | flowControlThreshold (port : Nat) (cls : Nat)
  | fcRepeatTimer (port : Nat) (cls : Nat)
  | linkTrained (port : Nat) (speed : Nat)
  | linkLoss (port : Nat)
  | portTransientFault (port : Nat) (cause : Nat)
  | portRetryBackoffEnd (port : Nat)
  | syncReceived (slot : Nat)
  | followUpReceived (slot : Nat)
  | delayRespReceived (slot : Nat)
  /-- `rank`, `portState`: what the charter's firmware makes of it, the master's BMCA position in the entry and the entry's portState (R308, R315) -/
  | announceReceived (slot : Nat) (rank : Nat) (portState : Nat)
  | delayReqReceived (port : Nat)
  | pdelayReqReceived (port : Nat)
  | unicastRequestReceived (port : Nat)
  | unicastCancelReceived (port : Nat)
  | managementMessageReceived (port : Nat)
  | scheduledMessageInstant (entry : Nat) (grant : Option Nat) (mtype : Nat)
  | trackingDelayReq (slot : Nat)
  | grantRenewalTimer (slot : Nat) (mtype : Nat)
  | trackingTimeout (slot : Nat) (cause : Nat)
  | ptCalcmdStore (req : Requester) (val : Word)
  | calibrationStoreComplete (equal : Bool)
  | ntpRequestTaken (port : Nat)
  | ntsExchangeBegin
  | ntpv4Answer
  | tolCmdAdvance (req : Requester) (val : Word)
  | epochKeyDerived
  | mintRecord
  | flushEdge
  | cacheFilled
  | doorbellWrite (fn : Nat) (rx : Bool) (ring : Nat) (val : Word) (posts : List Post)
  | descriptorCompletion (rx : Bool) (ring : Nat)
  | interruptTimer (rx : Bool) (ring : Nat)
  | ringEnable (req : Requester) (rx : Bool) (ring : Nat)
  | dmaError (rx : Bool) (ring : Nat) (addr : Nat)
  | mspiRead (addr : Nat) (words : Nat) (early : Bool)
  | mspiWrite (addr : Nat) (words : List Word) (early : Bool)
  | mspiStatus (cmd : Nat)
  | hallRequest (master : Nat) (id : Nat) (target : Nat) (slot : Nat) (write : Bool) (beats : Nat)
  | hallCompletion (master : Nat) (id : Nat)
  | keyCommit (req : Requester)
  | keyInvalidate (req : Requester) (node : Nat)
  | invalidateWalkComplete
  | keyLoad (req : Requester) (engine : Nat) (node : Nat)
  | keyUnload (req : Requester) (engine : Nat)
  | keySeal (req : Requester)
  | sealComplete
  | keyFwmac (req : Requester)
  | fwmacComplete
  | keyZeroise (req : Requester)
  | tamperEvent (source : Nat)
  | keyTcfgWrite (req : Requester) (val : Word)
  | holdupSample (vhsns : Nat)
  | dischargeTest (deltaMv : Nat)
  | keyHtestRun (req : Requester) (val : Word)
  | twinLinkTrained
  | helloSend
  | helloReceived (msg : List Byte)
  | timingSend (sub : Nat) (alive : Bool)
  | timingReceived (msg : List Byte) (sub : Nat)
  | twinLockLoss
  | heartbeatMiss
  | heartbeatLoss
  | abdicateReceived (msg : List Byte)
  | twfloorRelease
  | twnCmdAbdicate (req : Requester) (val : Word)
  | twnCmdSwap (req : Requester) (val : Word)
  | handoverReceived (msg : List Byte)
  | handoverAnsReceived (msg : List Byte)
  | bellMessageReceived (msg : List Byte)
  | muteTimeout
  | snapBeginReceived (msg : List Byte)
  | snapDataReceived (msg : List Byte)
  | snapEndReceived (msg : List Byte)
  | snapAckReceived (msg : List Byte)
  /-- `frame`: what an AES3 input brings with the edge -/
  | audioEdge (clk : Nat) (frame : Option AesFrame)
  | audioClockLoss (clk : Nat)
  | audioBlockBoundary (out : Nat)
  | audioReturnSwitch
  | rampEnd (out : Nat)
  | loopThroughSlip (out : Nat)
  | faultReport (source : Nat) (chan : Nat) (detail : Nat)
  | graceExpiry (source : Nat) (chan : Nat)
  | fltAckWrite (req : Requester) (val : Word)
  | retryBackoffEnd (source : Nat) (chan : Nat)
  | reactionStepComplete
  | fltInjWrite (req : Requester) (val : Word)
  | fltEnt0Read (req : Requester)
  | fltSrcSelWrite (req : Requester) (val : Word)
  | ptGrdSelWrite (req : Requester) (val : Word)
  | keyNrdSelWrite (req : Requester) (val : Word)
  | twinLinkLoss
  | channelLockLoss (ch : Nat)
  | oscrdyFall
  | vbatLoss
  | unicastGrantReceived (slot : Nat)
  | pdelayRespReceived (port : Nat)
  | jtagInstructionUpdate (instr : JtagInstr)
  deriving DecidableEq, Repr

end Sys2Proof
end

