-- ==== Sys2Proof/Decode.lean ====
section
/-! DEFINITION. The word decoder of the block's command table. -/
namespace Sys2Proof

/-- The command that a word spells by the table's bits: no row of spec/opcode_table.json gives any bits, so no word spells a command. -/
def decodeTableWord (_nbits _w : Nat) : Option Instr := none

end Sys2Proof
end

