-- ==== Sys2Proof/Config.lean ====
section
/-! DEFINITION. What the spec leaves to other standards or to the part: the cryptographic functions, keys, identifiers, and the source of free values. All opaque: nothing can be proved of a value they take. -/
namespace Sys2Proof.Config
open Sys2Proof

/-- The n-th free value of the machine, as a natural number of any size: random bits (R370, R372), values the spec leaves open, and the free part of a rounding the spec does not state. `Dev.freeIdx` counts those drawn (log 2). -/
opaque free : Nat → Nat

/-- SHA-384 (FIPS 180-4), as the charter (R80), the Seal (R388) and NTS use it. -/
opaque sha384 : List Byte → BitVec 384

/-- SHA-256 (FIPS 180-4) (R394). -/
opaque sha256 : List Byte → BitVec 256

/-- ECDSA P-384 verification over a digest: key bytes, digest, signature (R80). -/
opaque ecdsaVerify : List Byte → List Byte → List Byte → Bool

/-- ECDSA P-384 signature, r then s: private scalar, digest, per-message secret (R140, R388). -/
opaque ecdsaSign : Nat → List Byte → Nat → BitVec 768

/-- The public key that belongs to a private scalar, X then Y (R369). -/
opaque ecdsaPublic : Nat → BitVec 768

/-- HMAC-SHA-256: key, message (R305, R391). -/
opaque hmac256 : List Byte → List Byte → BitVec 256

/-- HMAC-SHA-384: key, message (R369, R395). -/
opaque hmac384 : List Byte → List Byte → BitVec 384

/-- AES-SIV-CMAC-256 (RFC 5297) sealing: key, associated data, nonce, plain text. The answer is read as SIV tag and cipher text (R331). -/
opaque sivSeal : List Byte → List (List Byte) → List Byte → Nat

/-- AES-SIV-CMAC-256 opening: key, associated data, tag and cipher text; whether the tag is right, and the plain text (R331). -/
opaque sivOpen : List Byte → List (List Byte) → List Byte → Bool × Nat

/-- AES-256-GCM: key, nonce, associated data, plain text; the answer is read as cipher text and a 16-byte tag (R398). -/
opaque gcmSeal : List Byte → List Byte → List Byte → List Byte → Nat

/-- AES-256-GCM opening of cipher text and tag: whether the tag is right, and the plain text (R398). -/
opaque gcmOpen : List Byte → List Byte → List Byte → List Byte → Bool × Nat

/-- The sealed material of a node under its wrapping key, 32 bytes, and its 64-bit tag (R372). -/
opaque nodeSeal : List Byte → List Byte → Nat

/-- The material of a sealed node and whether its tag is right: wrapping key, sealed material, tag (R372). -/
opaque nodeOpen : List Byte → List Byte → List Byte → Bool × Nat

/-- SHA-384 of Norone's charter key (R79). -/
opaque noroneKeyHash : BitVec 384

/-- NORONE_VID: Norone's PCI-SIG vendor ID (R1). -/
opaque noroneVid : BitVec 16

/-- The manufacturer identity of IEEE 1149.1 in IDCODE bits 11 to 1 (R484). -/
opaque jepId : BitVec 11

/-- sourcePortIdentity of each port, as IEEE 1588 forms it: clockIdentity and port number (R312, R409). -/
opaque portIdentity : Nat → BitVec 80

/-- The ionospheric delay, ps, of a signal by the model of its system, which R248 names and does not state: 0 Klobuchar, 1 NeQuick-G; parameters, elevation and azimuth in degrees, TAI second, signal. -/
opaque ionoDelay : Nat → List Int → Nat → Nat → Nat → Nat → Int

/-- The tropospheric delay, ps, at an elevation in degrees, from a position in ECEF mm: the GL4410's model (R249) or the device's own, neither stated. -/
opaque tropoDelay : Bool → Nat → Int × Int × Int → Int

/-- The ordering code is GL8816-ZE, else GL8816-ZC: it fixes the junction range of R476 (Table 0.3). -/
opaque gradeZE : Bool

/-- The k-th sample of a tone at a frequency, level and rate (R420): the spec gives no rounding and no starting phase (log 56). -/
opaque toneSample (freq level rate k : Nat) : BitVec 24

/-- A sample under the gain g(i) of a ramp of L samples, 0 < i < L (R421): the spec gives no rounding (log 56). -/
opaque rampSample (i L : Nat) (sample : BitVec 24) : BitVec 24

end Sys2Proof.Config
end

