-- ==== Sys2Proof/Machine/Num.lean ====
section
/-! DEFINITION. Plain arithmetic the chapters share: bit fields, byte orders, CRC-32, integer square roots, roundings, exact least squares. -/
namespace Sys2Proof.Machine
open Sys2Proof

/-- Bits hi..lo of a word, as a number. -/
def bits (w : Word) (hi lo : Nat) : Nat := (w.toNat / 2 ^ lo) % 2 ^ (hi - lo + 1)

/-- Bit b of a word. -/
def bit (w : Word) (b : Nat) : Bool := w.getLsbD b

def w32 (n : Nat) : Word := BitVec.ofNat 32 n

/-- A number as a field at bit lo. -/
def fld (lo v : Nat) : Word := BitVec.ofNat 32 (v * 2 ^ lo)

def b2n (b : Bool) : Nat := if b then 1 else 0

/-- Bit b of a word set to v. -/
def putBit (w : Word) (b : Nat) (v : Bool) : Word :=
  if v then w ||| BitVec.ofNat 32 (2 ^ b) else w &&& ~~~ BitVec.ofNat 32 (2 ^ b)

/-- A 64-bit value from its words. -/
def dword (hi lo : Word) : Nat := hi.toNat * 2 ^ 32 + lo.toNat

/-- Two's complement reading of the low `n` bits. -/
def sext (n v : Nat) : Int := if v % 2 ^ n < 2 ^ (n - 1) then (v % 2 ^ n : Nat) else ((v % 2 ^ n : Nat) : Int) - 2 ^ n

/-- Low 32 bits of an integer in two's complement, and the next 32. -/
def loW (i : Int) : Word := BitVec.ofInt 32 i
def hiW (i : Int) : Word := BitVec.ofInt 32 (i / 2 ^ 32)

/-- Saturation of a signed value to n bits, and of an unsigned one. -/
def satS (n : Nat) (i : Int) : Int := max (-(2 ^ (n - 1))) (min i (2 ^ (n - 1) - 1))
def satU (n : Nat) (i : Nat) : Nat := min i (2 ^ n - 1)

/-- The bytes of a number, least significant first (R6). -/
def leBytes : Nat → Nat → List Byte
  | 0, _ => []
  | n + 1, v => BitVec.ofNat 8 v :: leBytes n (v / 256)

/-- The bytes of a number, most significant first (R6). -/
def beBytes (n v : Nat) : List Byte := (leBytes n v).reverse

/-- Big-endian and little-endian numbers. -/
def beNat (l : List Byte) : Nat := l.foldl (fun a b => a * 256 + b.toNat) 0
def leNat (l : List Byte) : Nat := beNat l.reverse

/-- n bytes of a list from offset o; bytes past its end are missing. -/
def slice (l : List Byte) (o n : Nat) : List Byte := (l.drop o).take n

/-- A big-endian field of an image. -/
def beAt (l : List Byte) (o n : Nat) : Nat := beNat (slice l o n)

/-- Little-endian field. -/
def leAt (l : List Byte) (o n : Nat) : Nat := leNat (slice l o n)

/-- A list of bytes cut or filled with zeros to n bytes. -/
def padTo (n : Nat) (l : List Byte) : List Byte := (l ++ List.replicate (n - l.length) 0).take n

def zeros (n : Nat) : List Byte := List.replicate n 0

/-- One bit of the reflected CRC-32 of IEEE 802.3. -/
def crcBit (c : BitVec 32) : BitVec 32 := if c.getLsbD 0 then (c >>> 1) ^^^ 0xEDB88320#32 else c >>> 1

def crcByte (c : BitVec 32) (b : Byte) : BitVec 32 :=
  crcBit (crcBit (crcBit (crcBit (crcBit (crcBit (crcBit (crcBit (c ^^^ b.setWidth 32))))))))

/-- CRC-32 of IEEE 802.3 over bytes. -/
def crc32 (l : List Byte) : BitVec 32 := ~~~ (l.foldl crcByte 0xFFFFFFFF#32)

/-- One CRC-16-CCITT step and the CRC-8 of AES3 are built on the same shift. -/
def crc8Bit (c : BitVec 8) (b : Bool) : BitVec 8 :=
  if c.getLsbD 0 != b then (c >>> 1) ^^^ 0xB8#8 else c >>> 1

/-- Integer square root by bisection on the bits of the answer: the largest r < 2ⁿ with r² ≤ v. -/
def isqrtAux (v : Nat) : Nat → Nat → Nat
  | 0, r => r
  | n + 1, r => if (r + 2 ^ n) * (r + 2 ^ n) ≤ v then isqrtAux v n (r + 2 ^ n) else isqrtAux v n r

def isqrt (v : Nat) : Nat := isqrtAux v (v.log2 / 2 + 1) 0

/-- Square root rounded up. -/
def isqrtUp (v : Nat) : Nat := if isqrt v * isqrt v == v then isqrt v else isqrt v + 1

/-- Division rounded up. -/
def ceilDiv (a b : Nat) : Nat := (a + b - 1) / b

def ceilDivI (a : Int) (b : Nat) : Int := -((-a) / b)

/-- Division rounded to the nearest integer, a half away from zero. -/
def roundDiv (a : Int) (b : Nat) : Int :=
  if 0 ≤ a then (2 * a + b) / (2 * b) else -((2 * (-a) + b) / (2 * b))

/-- Median of a list: the middle of an odd number, the mean of the two middle ones of an even number, rounded towards minus infinity. -/
def insertInt (x : Int) : List Int → List Int
  | [] => [x]
  | y :: ys => if x ≤ y then x :: y :: ys else y :: insertInt x ys

def sortInt (l : List Int) : List Int := l.foldr insertInt []

def median (l : List Int) : Int :=
  let s := sortInt l
  let n := s.length
  if n % 2 == 1 then s.getD (n / 2) 0 else (s.getD (n / 2 - 1) 0 + s.getD (n / 2) 0) / 2

def sumI (l : List Int) : Int := l.foldl (· + ·) 0
def sumN (l : List Nat) : Nat := l.foldl (· + ·) 0

def maxN (l : List Nat) : Nat := l.foldl max 0

/-- Apply f to element i of a list. -/
def upd (l : List α) (i : Nat) (f : α → α) : List α := l.modify i f

/-! ### Exact least squares -/

/-- Subtract a multiple of a row. -/
def rowSub (k : Rat) (a b : List Rat) : List Rat := List.zipWith (fun x y => x - k * y) a b

/-- Gauss–Jordan elimination of an augmented matrix, column by column; a column without a pivot is left. -/
def gaussStep (m : List (List Rat)) (done : List (List Rat)) (col : Nat) : List (List Rat) × List (List Rat) :=
  match m.find? (fun r => r.getD col 0 != 0) with
  | none => (m, done)
  | some p =>
    let p' := p.map (· / p.getD col 0)
    let clear := fun (r : List Rat) => rowSub (r.getD col 0) r p'
    ((m.erase p).map clear, done.map clear ++ [p'])

def gauss (m : List (List Rat)) (n : Nat) : List (List Rat) :=
  ((List.range n).foldl (fun (s : List (List Rat) × List (List Rat)) c => gaussStep s.1 s.2 c) (m, [])).2

/-- Dot product. -/
def dot (a b : List Rat) : Rat := (List.zipWith (· * ·) a b).foldl (· + ·) 0

/-- The normal matrix of weighted rows (weight, coefficients, value), augmented by the right side and the identity: its elimination gives the solution and the inverse. -/
def normalAug (rows : List (Rat × List Rat × Rat)) (n : Nat) : List (List Rat) :=
  (List.range n).map fun i =>
    (List.range n).map (fun j => (rows.map fun r => r.1 * r.2.1.getD i 0 * r.2.1.getD j 0).foldl (· + ·) 0)
      ++ [(rows.map fun r => r.1 * r.2.1.getD i 0 * r.2.2).foldl (· + ·) 0]
      ++ (List.range n).map (fun j => if i == j then 1 else 0)

/-- Weighted least squares: the solution and the diagonal and rows of the inverse normal matrix; none where the rows do not determine n unknowns. -/
def lsq (rows : List (Rat × List Rat × Rat)) (n : Nat) : Option (List Rat × List (List Rat)) :=
  let g := gauss (normalAug rows n) n
  if g.length == n then some (g.map (·.getD n 0), g.map (·.drop (n + 1))) else none

/-- Integer part of a rational towards minus infinity, and up. -/
def ratFloor (q : Rat) : Int := q.num / q.den
def ratCeil (q : Rat) : Int := -((-q.num) / q.den)

/-- Square root of a non-negative rational, rounded up to an integer. -/
def ratSqrtUp (q : Rat) : Nat :=
  if q.num ≤ 0 then 0 else isqrtUp (ceilDiv q.num.toNat q.den)

end Sys2Proof.Machine
end

