-- ==== Sys2Proof/Machine/State.lean ====
section
/-! DEFINITION. The state of the device: every register, FIFO, buffer, counter, mode and pin the spec gives it, and the queue of the commands that wait. Every field carries its reset value as its default. -/
namespace Sys2Proof.Machine
open Sys2Proof

/-- A sparse set of register words: (key, word), keys strictly rising, no entry equal to what an unlisted key reads as. The key of a register is its BAR0 offset; of a word in the indirect space of slot k it is (k + 1)·2²⁸ + address. -/
abbrev RegFile := List (Nat × Word)

/-! ### The bus, the requesters and the register file (chapters 2, 3) -/

/-- What a requester is told about its last access (R54, R66, R349). -/
inductive BusStatus where
  | ok | unsupportedRequest | retryStatus | mspi (code : Nat)
  deriving DecidableEq, Repr, Inhabited

/-- The answer the device gives to its last register or MSPI access: the model's own window on the bus. -/
structure Response where
  status : BusStatus
  data   : List Word
  deriving DecidableEq, Repr, Inhabited

/-- What each requester of R62 has of its own (R58, R62, R68). -/
structure ReqState where
  /-- held words: latched HI words, popped words, copied words, by BAR0 offset (R58) -/
  held : RegFile := []
  /-- FLT_SRC_SEL, TSC_LRD_SEL, PT_GRD_SEL, KEY_NRD_SEL, by BAR0 offset (R58) -/
  sel : RegFile := []
  /-- IND_ADDR by slot (R62) -/
  indAddr : RegFile := []
  /-- IND_STAT by slot (R62): bit 0 BUSY, bit 1 TMO, bit 2 UNMP -/
  indStat : RegFile := []
  verOffer : Word := 0x01000100#32
  offered : Bool := false
  verFail : Bool := false
  agreed : Word := 0x0100#32
  deriving DecidableEq, Repr, Inhabited

/-- One staged write: the words it captured, by register key (R37), the slot and channel window it belongs to. -/
structure Staged where
  window   : Nat
  boundary : Boundary
  words    : RegFile
  reachedT : Tick
  armed    : Bool
  /-- set when the write reached the block after arming for the next boundary: it waits for the one after (R35) -/
  late     : Bool
  /-- privilege and master of the access that staged it, for the filters of the Tally (R464) -/
  by_      : Option (Bool × Nat)
  deriving DecidableEq, Repr

/-- Something the device has put on one of its interfaces: the model's own record of its outputs. -/
inductive Emit where
  | record (ring kind : Nat) (body : List Byte)
  | hostWrite (addr : Nat) (body : List Byte)
  | msix (fn vec : Nat)
  | msirq (vec : Nat)
  | frame (port : Nat) (bytes : List Byte)
  | flash (slot : Nat) (image : List Byte)
  | twin (type : Nat) (body : List Byte)
  | mspi (bytes : List Byte)
  /-- a frame of an AES3 output: its number in the block (a Z preamble at 0, else X; Y before the second subframe), time slots 4 to 31 of its subframes, slot 4 in bit 0, and when it starts -/
  | aes (out frame : Nat) (a b : BitVec 28) (ps : Int)
  /-- an edge of a pin, placed at a picosecond of the free counter -/
  | pin (name : Nat) (level : Bool) (ps : Int)
  deriving DecidableEq, Repr, Inhabited

/-! ### Power, start-up and reset (chapter 19) -/

/-- How far a start has come (Table 19.3). -/
inductive StartPhase where
  | idle | held | trimLoad | clocks | charter | build | selfTest | energyWait | claimWait | done
  deriving DecidableEq, Repr, Inhabited

/-- A clock domain as its monitor sees it (R436, R437, R438). -/
inductive DomainState where
  | waiting | good | failed | deferred | lost
  deriving DecidableEq, Repr, Inhabited

/-- A block reset in progress (R451). -/
structure BlockReset where
  target : Nat
  chan   : Nat
  /-- RST_CMD CMD 3: the reset is of the control cores -/
  cores  : Bool
  /-- 0 quiescing, 1 reset held; the TCLK at which the stage began -/
  stage  : Nat
  forced : Bool
  startT : Tick
  deriving DecidableEq, Repr, Inhabited

/-- Start attempts, the reset counters and the other backup-domain items of chapter 19 (Table 19.2). -/
structure Backup where
  attempt : Nat := 0
  lastFail : Nat := 0
  failDetail : Nat := 0
  inAttempt : Bool := false
  bells : Nat := 0
  rstCnt : List Nat := List.replicate 8 0
  rstForced : Nat := 0
  fallback : Nat := 0
  fallbackDetail : Nat := 0
  lastSrc : Nat := 0
  lastTarget : Nat := 0
  lastChan : Nat := 0
  lastForced : Bool := false
  /-- the trim of the 32.768 kHz oscillator in use -/
  bkpTrim : Nat := 0
  deriving DecidableEq, Repr, Inhabited

structure Power where
  railsValid : Bool := true
  porstLow : Bool := false
  rstnLow : Bool := false
  testmode : Bool := false
  vcore : Nat := 0
  /-- brownout hold is in force, and since when (R432) -/
  hold : Bool := false
  holdT : Tick := 0
  /-- a brownout reset is in force (R433) -/
  brownReset : Bool := false
  deriving DecidableEq, Repr, Inhabited

structure Start where
  phase : StartPhase := .trimLoad
  trimLoads : Nat := 0
  shadowsValid : Bool := false
  fuses : FuseImage := ⟨false, false, 0, List.replicate 8 0, false, 0, [], 0, 0, 0, [], 0⟩
  /-- TESTMODE as sampled at the last rising edge of PORST_N (R45) -/
  testSampled : Bool := false
  domains : List DomainState := List.replicate 20 .waiting
  oscHz : Nat := 0
  /-- an early reset has counted: this start enters MINIMAL once its trim load completes, if ATTEMPT has reached LIMIT (R444) -/
  minimalDue : Bool := false
  /-- the watchdog of R442 is paused in the energy wait; the TCLK from which its 2 s count -/
  wdogPaused : Bool := false
  wdogT : Tick := 0
  /-- the TCLK at which the energy wait or the claim wait began (R384, R400), and at which the ETHREF output started (R438) -/
  waitT : Tick := 0
  ethT : Option Tick := none
  /-- the stored tap delays of the time bus, ps (R26): the timestamp units of ports 0 to 5, capture inputs 0 to 15, the TDC; reset 0 -/
  taps : List Nat := List.replicate 23 0
  deriving DecidableEq, Repr, Inhabited

structure Gen where
  mode : Mode := .bringup
  prevMode : Nat := 0
  /-- a block of Table 3.1 or a channel of one held in reset: (slot, channel, or 255 for the whole block) (R437, R459) -/
  heldInReset : List (Nat × Nat) := []
  rst : Option BlockReset := none
  /-- the control cores run (R84, R450) -/
  coresRun : Bool := false
  /-- the TCLK from which the watchdog's PERIOD counts: the last kick, its enabling or the entry into service (R453) -/
  kickT : Tick := 0
  deriving DecidableEq, Repr, Inhabited

/-! ### Faults and the Tally (chapter 20) -/

structure FltEntry where
  tFirst : Tick
  tLast  : Tick
  seq    : Word
  detail : Word
  source : Nat
  count  : Nat
  cause  : Nat
  cls    : FaultClass
  conseq : Bool
  perm   : Bool
  acked  : Bool
  lostBefore : Bool
  inj    : Bool
  deriving DecidableEq, Repr

/-- Counters of one source (R457). -/
structure FltSource where
  code : Nat := 0
  raised : Nat := 0
  written : Nat := 0
  coalesced : Nat := 0
  lost : Nat := 0
  deriving DecidableEq, Repr, Inhabited

/-- A grace timer of R458: the report's own SEQ and the SEQ of the entry it went into. -/
structure Grace where
  seq : Word
  entrySeq : Word
  deadline : Tick
  perm : Bool
  detail : Nat
  deriving DecidableEq, Repr, Inhabited

/-- What FLT keeps for one source and channel (R458 to R461). -/
structure FltChan where
  code : Nat := 0
  chan : Nat := 0
  latched : Bool := false
  grace : Option Grace := none
  /-- starts of the retries in the window, newest first -/
  retryTs : List Tick := []
  /-- the end of the last retry, while no report has followed it -/
  retryEnd : Option Tick := none
  /-- consecutive retries quickly re-reported -/
  quick : Nat := 0
  backoff : Bool := false
  perm : Bool := false
  retired : Bool := false
  deriving DecidableEq, Repr, Inhabited

/-- A reaction of R459: running, waiting or within 5 ms of its end. -/
structure Reaction where
  code : Nat
  chan : Nat
  seq  : Word
  cls  : FaultClass
  reach : Nat
  startT : Tick
  /-- the step of the ladder that runs, 1 to 4; 1 is a retry; and the TCLK at which it began -/
  step : Nat
  stepT : Tick
  ladder : Nat
  ended : Option Tick
  deriving DecidableEq, Repr

structure Flt where
  log : List FltEntry := []
  nextSeq : Word := 1
  lostBefore : Bool := false
  sources : List FltSource := []
  chans : List FltChan := []
  /-- reactions that started, newest first, kept while their consequential window runs -/
  reactions : List Reaction := []
  waiting : List Reaction := []
  deriving DecidableEq, Repr, Inhabited

/-- The Tally (R463, R465): sparse, counter index to count. -/
structure Tal where
  live : List (Nat × Nat) := []
  snap : List (Nat × Nat) := []
  snapBell : BitVec 64 := 0
  snapT : Tick := 0
  /-- the record of the last Bell waits for delivery -/
  recordDue : Option (List Byte) := none
  droppedBefore : Bool := false
  deriving DecidableEq, Repr, Inhabited

/-! ### The charter (chapter 4) -/

/-- A built pitch (R69, R73): its function, its links and the initial values a block reset reloads (R87). -/
structure Pitch where
  kind  : Nat
  index : Nat
  func  : Nat
  links : List Link
  inits : List (Nat × Word)
  deriving DecidableEq, Repr, Inhabited

/-- A pitch record of the charter image (Table 4.6). -/
structure PitchRecord where
  kind  : Nat
  index : Nat
  func  : Nat
  keepState : Bool
  links : List Link
  inits : List (Nat × Word)
  deriving DecidableEq, Repr, Inhabited

/-- A PROFILES entry (R77). -/
structure Profile where
  port    : Nat
  domain  : Nat
  profile : Nat
  role    : Nat
  scale   : Nat
  deriving DecidableEq, Repr, Inhabited

structure PolicyEntry where
  source : Nat
  ladder : Nat
  retry  : Nat
  reach  : Nat
  deriving DecidableEq, Repr, Inhabited

/-- The POLICY in force (R78, Table 4.8). -/
structure Policy where
  graceMs : Nat := 0
  retryMax : Nat := 0
  retryWindow : Nat := 0
  defLadder : Nat := 0
  entries : List PolicyEntry := []
  deriving DecidableEq, Repr, Inhabited

/-- A PINMUX entry (R76). -/
structure PinEntry where
  pin  : Nat
  func : Nat
  attr : Nat
  deriving DecidableEq, Repr, Inhabited

/-- A configurable pin that a delta gave a new function while its old one held it active: it stays at the level until the picosecond at which the active period ends (R472). -/
structure PinHold where
  pin   : Nat
  level : Bool
  endPs : Int
  deriving DecidableEq, Repr, Inhabited

/-- The structure a charter produces (R70): what the active plane and the shadow plane hold. -/
structure Fabric where
  pitches : List Pitch := []
  pins : List PinEntry := []
  profiles : List Profile := []
  policy : Policy := {}
  hifVer : Nat := 0
  entry : Nat := 0
  loadBuf : Nat := 0
  ethref : Nat := 0
  oscFreq : Nat := 0
  deriving DecidableEq, Repr, Inhabited

/-- The charter in effect (R85, R89). -/
structure InEffect where
  fabric : Fabric
  id     : BitVec 64
  digest : List Byte
  fmt    : Nat
  svn    : Nat
  deriving DecidableEq, Repr, Inhabited

/-- The load states of Table 4.12. -/
inductive ChtState where
  | idle | loading | verifying | building | ready | armed | writing | error
  deriving DecidableEq, Repr, Inhabited

structure Cht where
  /-- STATE (R90); reset IDLE -/
  st : ChtState := .idle
  /-- the load buffer (R91): the image bytes as received; reset empty -/
  buf : List Byte := []
  /-- the running load is a start load (R82), and its slot; reset none -/
  startSlot : Option Nat := none
  /-- CHT_ERR.CODE of the preferred slot when it failed in this start (R83); reset none -/
  prefErr : Option Nat := none
  /-- the later of the failures of the two slots (R82) -/
  worst : Nat := 0
  /-- LOAD_FLASH or FLASH_WRITE's slot (R90); reset none for a stream load -/
  slot : Option Nat := none
  errCode : Nat := 0
  errSection : Nat := 0
  /-- the charter in effect (R85); reset none -/
  cur : Option InEffect := none
  /-- the shadow plane (R86): the verified image's header and structure; reset none -/
  shadow : Option InEffect := none
  shadowIsDelta : Bool := false
  /-- the records of the verified delta, for R87 -/
  delta : List PitchRecord := []
  /-- target Bell of an armed delta, and whether the arm was late for the next one (R92); reset none -/
  target : Option (BitVec 64) := none
  altSlot : Bool := false
  aOk : Bool := false
  bOk : Bool := false
  deltas : Nat := 0
  stops : Nat := 0
  /-- SHA-384 of the FIRMWARE body of the full charter loaded at start (Table 16.5); reset empty -/
  fwDigest : List Byte := []
  /-- the code image in control SRAM, and the offset LOAD_ADDR at which it starts (R79, R84); reset empty, 0 -/
  fwCode : List Byte := []
  fwAddr : Nat := 0
  /-- slots of the boot flash whose write a reset or a loss of power cut short (R94): what they hold fails verification; reset none -/
  torn : List Nat := []
  deriving DecidableEq, Repr, Inhabited

/-! ### Time scales and the Ledger (chapter 5) -/

/-- What a Ledger record says (Table 5.1, R111); amounts and sums are kept exact and narrowed when written out. -/
structure LedgerRec where
  bellcnt : BitVec 64
  amount  : BitVec 64
  runsum  : BitVec 64
  boundDelta : Word
  scale   : Nat
  action  : Nat
  source  : Nat
  flags   : Nat
  deriving DecidableEq, Repr, Inhabited

/-- A step waiting for the Bell, other than the software step, which is staged in its registers (R17, R106). -/
structure StepReq where
  source : Nat
  amount : Int
  deriving DecidableEq, Repr, Inhabited

/-- A first setting waiting for the Bell (R105): value in 2⁻⁴⁸ ns and its source. -/
structure SetReq where
  source : Nat
  value  : Nat
  deriving DecidableEq, Repr, Inhabited

/-- A working scale (R95 to R106). -/
structure Scale where
  /-- the value V in 2⁻⁴⁸ ns (R95); reset 0 -/
  v : Nat := 0
  /-- the INC offset F in effect (R96); reset 0 -/
  f : Int := 0
  /-- the anchor (R105); reset 0 -/
  anchor : Int := 0
  /-- STEPS since the anchor, 2⁻⁴⁸ ns (R108); reset 0 -/
  steps : Int := 0
  /-- DRIFT since the anchor, 2⁻⁴⁸ ns (R108); reset 0 -/
  drift : Int := 0
  /-- SETDONE (R105); reset false -/
  setDone : Bool := false
  /-- the running sum after the last record (SC_SUM); reset 0 -/
  sum : BitVec 64 := 0
  /-- records written to the scale's half since reset (R114); reset 0 -/
  lwp : Word := 0
  /-- the breach latch (R110); reset false -/
  breach : Bool := false
  /-- the offset the steering stall last delivered for the coming Bell, and whether the holdover model made it (R102); reset none -/
  offer : Option (Int × Bool) := none
  /-- the setting the stall or the twin snapshot asks for (R105); reset none -/
  setReq : Option SetReq := none
  /-- steps other than the software amount waiting for the Bell (R106); reset none -/
  stepReqs : List StepReq := []
  /-- re-anchor at the next Bell (R120); reset false -/
  reanchor : Bool := false
  /-- the half of Ledger RAM (R114): index and record, sparse; reset empty -/
  ram : List (Nat × LedgerRec) := []
  deriving DecidableEq, Repr, Inhabited

structure Tsc where
  a : Scale := {}
  b : Scale := {}
  /-- TS-O (R100), 2⁻⁴⁸ ns; reset 0 -/
  o : Nat := 0
  /-- the INC offset TS-O adds (R100); reset 0 -/
  oF : Int := 0
  /-- the breach latch of TS-O (R110); reset false -/
  breachO : Bool := false
  /-- the auditor, ns (R101); reset 0 -/
  auditor : Nat := 0
  /-- the counters run: the time PLL has reported good (R99); reset false -/
  running : Bool := false
  /-- the selection in effect (TSC_OUTSEL.CUR, R107): true is TS-B; reset false -/
  cur : Bool := false
  /-- cause of the first latched breach (TSC_AUDIT.CAUSE); reset 0 -/
  cause : Nat := 0
  /-- TS-O on the previous Bell TCLK after that Bell's steps and switch (R31); reset 0 -/
  lastBellO : Nat := 0
  /-- a Bell has happened since the counters started (R31); reset false -/
  hadBell : Bool := false
  /-- free counter at the previous Bell (R108); reset 0 -/
  lastBellT : Tick := 0
  /-- PRE has been raised for the coming wrap (R40); reset false -/
  preDone : Bool := false
  /-- the values for the coming Bell are armed (R35); reset false -/
  armedDone : Bool := false
  /-- records of the last Bell not yet copied to the host ring, oldest first (R115); reset none -/
  ringQueue : List LedgerRec := []
  /-- records written since the last successful checkpoint frame, newest first (R116); reset none -/
  sinceCkpt : List LedgerRec := []
  /-- how many records have been written since the last successful frame, those beyond the newest 126 included (R116); reset 0 -/
  sinceN : Nat := 0
  /-- a checkpoint is due and has not started (R117); reset false -/
  ckptDue : Bool := false
  /-- the frame being written: its index and bytes (R116); reset none -/
  ckptFrame : Option (Nat × List Byte) := none
  /-- how many of the records counted in sinceN the frame being written covers (R116); reset 0 -/
  ckptN : Nat := 0
  /-- BOUND_DELTA of the last Bell's records, to be filled in: half, count, value, BSAT (R113, R138); and the free counter at which it is; reset none, 0 -/
  fill : List (Bool × Nat × Word × Bool) := []
  fillT : Tick := 0
  /-- SEQ of the next frame (R117); reset 0 -/
  ckptSeq : Word := 0
  /-- ring index of the next frame (R116); reset 0 -/
  ckptNext : Nat := 0
  /-- the index of the last successful frame and whether one was written (TSC_CKPT); reset 0, false -/
  ckptLast : Nat := 0
  ckptValid : Bool := false
  deriving DecidableEq, Repr, Inhabited

/-! ### The Scales (chapter 6) -/

/-- The seven components of a bound, in 2⁻¹⁶ ns (R121, Table 6.1). -/
structure Bound where
  ref : Nat := 0
  path : Nat := 0
  hold : Nat := 0
  loop : Nat := 0
  stamp : Nat := 0
  snap : Nat := 0
  disp : Nat := 0
  deriving DecidableEq, Repr, Inhabited

/-- The holdover model (R129, R130): values in 2⁻⁴⁸ (y₀, u_y), 2⁻⁴⁸ per day (a, u_a), 2⁻⁴⁸ per K (c, u_c), N in 2⁻¹⁶ ns/√s, T₀ in 1/256 K. -/
structure Model where
  y0 : Int := 0
  uy : Int := 0
  a : Int := 0
  ua : Int := 0
  c : Int := 0
  uc : Int := 0
  n : Nat := 0
  t0 : Int := 0
  deriving DecidableEq, Repr, Inhabited

/-- A point of the model (R130): Bells since learning began at its middle, mean offset, mean temperature, phase residual input. -/
structure Point where
  at2  : Nat
  y    : Int
  temp : Int
  deriving DecidableEq, Repr, Inhabited

/-- What the Scales keep for one working scale. -/
structure Scl where
  comp : Bound := {}
  /-- BOUND_TOTAL(s) in force, before the void rule (R135): the last Bell's, or a takeover's (R128); reset 0 -/
  total : Nat := 0
  /-- BOUND_TOTAL(s) of the last Bell, and of the Bell before it (R138); reset 0 -/
  bellTotal : Nat := 0
  prevTotal : Nat := 0
  /-- a reset of SCL has put the registers of the bound back to 0; they show it again from the next Bell (R129, log 51); reset false -/
  blank : Bool := false
  /-- void through a condition of R14; reset false -/
  isVoid : Bool := false
  /-- void through LEDGER_BREACH (R16); reset false -/
  voidBreach : Bool := false
  refOut : Bool := false
  oscOut : Bool := false
  /-- an uncertainty of the model left its envelope after HOLD_READY, and no fit has come back into it (R131); reset false -/
  envOut : Bool := false
  tempOut : Bool := false
  calMissing : Bool := false
  /-- the TCLK from which every SCL_COND bit has been clear (R16); reset none -/
  clearFrom : Option Tick := none
  /-- re-anchored by a switch or a step since the bits cleared (R16); reset false -/
  reanchored : Bool := false
  /-- the newest values of e since the scale was anchored or switched, newest first, at most 64 (R123, R125); reset empty -/
  win : List Int := []
  /-- in holdover since this TCLK (R129); reset none -/
  tEntry : Option Tick := none
  /-- bounded as in holdover from its setting Bell (R142); reset none -/
  freeRunFrom : Option Tick := none
  /-- ∫ |T − T₀| dτ since entry, 1/256 K·ns of the free counter (R129); reset 0 -/
  tempInt : Nat := 0
  /-- |T − T₀| at the last Bell, 1/256 K (R129); reset 0 -/
  lastDT : Nat := 0
  holdTime : Nat := 0
  /-- BOUND_TOTAL exceeded SS_ALARM at the last Bell (R134); reset false -/
  alm : Bool := false
  oosL : Bool := false
  oosT : Bool := false
  /-- the last Bell at which a reference carrying time was selected (R126); reset none -/
  timeRefT : Option Tick := none
  /-- LEARN_TIME, ns (R131); reset 0 -/
  learnTime : Nat := 0
  ready : Bool := false
  model : Model := {}
  /-- the points kept, newest first, at most 4,096 (R130); reset empty -/
  points : List Point := []
  /-- sums over the running point: Bells, offset, temperature; reset 0 -/
  accN : Nat := 0
  accY : Int := 0
  accT : Int := 0
  /-- Bells since learning began; reset 0 -/
  learnBells : Nat := 0
  /-- BOUND_SNAP's R_tw, u_y and the snapshot's TCLK (R128); reset none -/
  snap : Option (Nat × Nat × Tick) := none
  /-- components held as they stand (Table 6.1, R128); reset false -/
  frozen : Bool := false
  /-- the other members of the dispute: the phase each had when it began, or the integral of its frequency difference so far, 2⁻⁴⁸ ns, and the last evaluation taken into it (R127, R155); reset empty -/
  dispFrom : List (Nat × Int × Tick) := []
  /-- the largest change reached, 2⁻¹⁶ ns (R127); reset 0 -/
  dispMax : Nat := 0
  /-- the Extract of the last Bell waits to be signed and issued (R141); reset none -/
  extractDue : Option (List Byte) := none
  /-- the latest Extract (R141); reset none -/
  extract : Option (List Byte) := none
  deriving DecidableEq, Repr, Inhabited

/-! ### References and selection (chapter 7) -/

/-- A reference monitor (R147 to R149). -/
structure RefMon where
  present : Bool := false
  qualified : Bool := false
  presentFrom : Tick := 0
  lcause : Nat := 0
  /-- φ_r as last published, 2⁻¹⁶ ns; reset 0 -/
  phi : Int := 0
  /-- y of the newest intervals, newest first, at most 16 (R147); reset empty -/
  ys : List Int := []
  /-- y_r as last published, 2⁻⁴⁸; reset 0 -/
  y : Int := 0
  /-- pulses missed in a row (Table 7.3); reset 0 -/
  missed : Nat := 0
  /-- the last pulse taken, or the one it should have been, 2⁻¹⁶ ns of the free counter (R144); reset none -/
  lastPulse : Option Int := none
  /-- that pulse came within the window of the one before it (R144); reset false -/
  inWindow : Bool := false
  /-- the latest measurement point: the free counter and the time the reference gives there, 2⁻¹⁶ ns (R147); reset none -/
  point : Option (Int × Rat) := none
  deriving DecidableEq, Repr, Inhabited

/-- An unresolved dispute of a stall (R155): the pair, and since when it agrees. -/
structure Dispute where
  i : Nat
  j : Nat
  /-- agreement has held since this TCLK (R155 (b)) -/
  agreeFrom : Option Tick
  deriving DecidableEq, Repr, Inhabited

inductive Servo where
  | freeRun | acquiring | locked | holdover
  deriving DecidableEq, Repr, Inhabited

/-- The selector of one stall (R151 to R164). -/
structure Sel where
  cur : Nat := 0
  curV : Bool := false
  /-- the target fixed at the arming point (R152): none before arming, some none for no target -/
  target : Option (Option Nat) := none
  /-- the stall was in holdover at the arming point (R159) -/
  armedHold : Bool := false
  servo : Servo := .freeRun
  /-- marks of R154: reference and the TCLK since which it has agreed (R156) -/
  marks : List (Nat × Option Tick) := []
  disputes : List Dispute := []
  /-- t_entry of R158; reset none -/
  tEntry : Option Tick := none
  lockCnt : Nat := 0
  unlockCnt : Nat := 0
  deriving DecidableEq, Repr, Inhabited

/-! ### Stalls, APLLs and outputs (chapter 8) -/

/-- One second of a stall's history (R177): the mean of y, the offsets of TS-A, TS-B and TS-O in it, and whether the stall was locked. -/
structure StallSec where
  y : Int
  fa : Int
  fb : Int
  fo : Int
  locked : Bool
  deriving DecidableEq, Repr, Inhabited

structure Stall where
  /-- integ in 2⁻⁶⁴ (R172); reset 0 -/
  integ : Int := 0
  /-- y in effect, 2⁻⁴⁸; reset 0 -/
  y : Int := 0
  /-- e as last published, 2⁻¹⁶ ns (R169); reset 0 -/
  e : Int := 0
  /-- sum and number of the detector results of this Bell interval, 0.5 ps; reset 0 -/
  eSum : Int := 0
  eN : Nat := 0
  /-- sum and number of the outputs y of this Bell interval (R177); reset 0 -/
  ySum : Int := 0
  yN : Nat := 0
  /-- the detector's zero in frequency-only operation (R175), 0.5 ps; reset 0 -/
  zero : Int := 0
  /-- the zero is latched from the next result: at a start, a switch, an exit from holdover or from free-run (R175); reset true -/
  relatch : Bool := true
  /-- the latest raw detector result, 0.5 ps -/
  raw : Int := 0
  /-- y_h or d (R177); reset 0 -/
  hfreq : Int := 0
  /-- f_u in mHz (SL_FU), from fabric build and each Bell on; reset 0 -/
  fu : Nat := 0
  bwEff : Nat := 0
  clamped : Bool := false
  bwLim : Bool := false
  /-- the newest seconds, newest first (R177) -/
  hist : List StallSec := []
  deriving DecidableEq, Repr, Inhabited

structure Apll where
  lock : Bool := false
  /-- the reference is lost (R184); reset false -/
  refLost : Bool := false
  range : Bool := false
  /-- its outputs have not started since they were last gated, or at all (R192 to R194); reset true -/
  gated : Bool := true
  /-- the cause its outputs show -/
  cause : Nat := 0
  /-- when LOCKn was last asserted (R193) -/
  lockT : Tick := 0
  /-- PREM in 0.5 ps (R186); reset 0 -/
  prem : Int := 0
  realign : Bool := false
  /-- f_IBS in 10 kHz at the last Bell, to the nearest (R183; rounding DEDUCED, log 30); reset 0 -/
  ibs : Nat := 0
  spur : Bool := false
  /-- POFS in effect at the last Bell (R186) -/
  pofs : Int := 0
  deriving DecidableEq, Repr, Inhabited

structure Output where
  run : Bool := false
  cause : Nat := 0
  deriving DecidableEq, Repr, Inhabited

/-! ### Pulses, grids and triggers (chapter 9) -/

structure Pulse where
  run : Bool := false
  active : Bool := false
  /-- index k of the last instant fired or passed over (R198); none until the train is laid on its scale; reset none -/
  lastK : Option Int := none
  /-- the active level ends at this picosecond of the free counter (R200); reset none -/
  endPs : Option Int := none
  /-- the last input edge, or the projected one in its place, and the interval between the last two edges, 2⁻¹⁶ ns of the free counter (R199); reset none -/
  inEdge : Option Int := none
  inPeriod : Option Int := none
  /-- the edge whose instant has fired (R199); reset none -/
  inDone : Option Int := none
  deriving DecidableEq, Repr, Inhabited

structure Grid where
  run : Bool := false
  fly : Bool := false
  lost : Bool := false
  /-- count of the last boundary (R201, R202); reset 0 -/
  cnt : BitVec 64 := 0
  /-- highest count of a video grid produced or passed over by a step (R204); reset none -/
  passed : Option Int := none
  /-- a boundary has been produced -/
  started : Bool := false
  /-- instant of the last boundary in 2⁻¹⁶ ns of the scale; reset 0 -/
  bnd : Int := 0
  /-- the last boundary was a flywheel boundary -/
  lastFly : Bool := false
  /-- period in effect, 2⁻¹⁶ ns; reset 0 -/
  per : Nat := 0
  /-- probe edges since the last that the divider of an audio grid passed on (R202); reset 0 -/
  divN : Nat := 0
  /-- a step has passed over a frame start: what is staged takes effect at the next boundary (R211); reset false -/
  frameDue : Bool := false
  deriving DecidableEq, Repr, Inhabited

/-- A capture record (Table 9.1). -/
structure CapRec where
  v : Nat
  gcount : BitVec 64
  gphase : Nat
  edge : Nat
  fly : Bool
  lostBefore : Bool
  deriving DecidableEq, Repr, Inhabited

structure Trig where
  armed : Bool := false
  /-- count held by the arming write (R206) -/
  count : BitVec 64 := 0
  active : Bool := false
  /-- as for a pulse (R200, R205) -/
  endPs : Option Int := none
  /-- count of the last instant fired or passed over in periodic mode (R206, R207); none until the first; reset none -/
  lastC : Option Int := none
  fifo : List CapRec := []
  lostBefore : Bool := false
  lastEdge : Option Int := none
  deriving DecidableEq, Repr, Inhabited

/-! ### The TDC (chapter 10) -/

structure TdcRec where
  val0 : BitVec 64
  val1 : Nat
  val2 : Nat
  seq : BitVec 64
  bell16 : Nat
  input : Nat
  edge : Nat
  flags : Nat
  deriving DecidableEq, Repr, Inhabited

/-- An edge as resolved (R213): coarse count and fine time in 1/(2·1,048,576) ns, with the flags of the time it was taken. -/
structure TdcEdge where
  coarse : Nat
  fine2 : Nat
  falling : Bool
  stale : Bool
  bell16 : Nat
  deriving DecidableEq, Repr, Inhabited

/-- An open interval measurement (R216). -/
structure TdcMeas where
  start : TdcEdge
  stops : Nat
  fInc : Int
  coldSeen : Bool
  deriving DecidableEq, Repr, Inhabited

/-- What reciprocal mode keeps of one input (R219): the first edge of a gate and the edge counter there. -/
structure TdcGate where
  first : Option TdcEdge := none
  count : Nat := 0
  fInc : Int := 0
  coldSeen : Bool := false
  deriving DecidableEq, Repr, Inhabited

structure Tdc where
  meas : Option TdcMeas := none
  /-- the number of the next measurement (R216); reset 0 -/
  nextSeq : BitVec 64 := 0
  /-- edge sequence of each input (Table 10.1); reset 0 -/
  edgeSeq : List (BitVec 64) := List.replicate 8 0
  /-- coarse-and-fine time of the last edge accepted on each input (R212); reset none -/
  lastEdge : List (Option Nat) := List.replicate 8 none
  fifo : List TdcRec := []
  lostBefore : Bool := false
  /-- reciprocal mode: gate open, its number and the inputs' edges (R219); reset closed -/
  gateOpen : Bool := false
  gateNo : BitVec 64 := 0
  /-- when the open gate opened -/
  gateT : Tick := 0
  gates : List TdcGate := List.replicate 8 {}
  /-- closed gates, with their numbers, that wait for their second edge; reset none -/
  gateWait : List (Option (TdcGate × BitVec 64)) := List.replicate 8 none
  /-- edge counters (R219); reset 0 -/
  edgeCnt : List Nat := List.replicate 8 0
  /-- self-test has calibrated the interpolators (R223); until then the registers of the calibration read 0; reset false -/
  tested : Bool := false
  /-- interpolator of each input; 15 for a retired input (R222, R223); reset i -/
  intp : List Nat := [0, 1, 2, 3, 4, 5, 6, 7]
  spare : Nat := 8
  retired : Nat := 0
  /-- the installed calibration tables (R222); reset 0 hits in every bin (DESIGN CHOICE) -/
  tables : List CalResult := (List.range 9).map (fun i => ⟨i, 0, []⟩)
  /-- when each table was installed, and whether one has been; reset none -/
  tableT : List (Option Tick) := List.replicate 9 none
  round : Bool := false
  next : Nat := 0
  /-- a calibrated spare waits for its swap at the next Bell (R224) -/
  swapReady : Bool := false
  /-- calibration in progress -/
  calRun : Bool := false
  fails : Nat := 0
  stopped : Bool := false
  /-- OSC_WARM (R220); reset false -/
  warm : Bool := false
  warmMin : Nat := 0
  rdyMin : Nat := 0
  lastMean : Option Rat := none
  /-- y_r of the minute's Bells, sum and number -/
  minSum : Int := 0
  minN : Nat := 0
  /-- when the last minute ended (R220); reset 0 -/
  minT : Tick := 0
  deriving DecidableEq, Repr, Inhabited

/-! ### GNSS (chapter 11) -/

inductive ChState where
  | idle | search | pullIn | track | lost
  deriving DecidableEq, Repr, Inhabited

/-- A tracking channel (R236). -/
structure GnsChan where
  st : ChState := .idle
  sig : Nat := 0
  sv : Nat := 0
  fch : Int := 0
  /-- C/N0 in 0.1 dB-Hz and Doppler in 2⁻⁸ Hz as last measured -/
  cn0 : Nat := 0
  doppler : Int := 0
  /-- excluded by T-RAIM, and used in a solution, at the last epoch -/
  excl : Bool := false
  inSol : Bool := false
  /-- the seven correlators, VE, E, P, L, VL, PD, N, as last dumped; reset 0 -/
  corr : List Int := List.replicate 7 0
  /-- when the channel entered SEARCH (R238) -/
  searchT : Tick := 0
  deriving DecidableEq, Repr, Inhabited

/-- The tag of a 1 ms boundary of the sample stream (R231): its number of samples, the free counter and TS-O there, ps, to 10 ps. -/
structure GnsTag where
  samples : Nat := 0
  t : Int := 0
  o : Int := 0
  deriving DecidableEq, Repr, Inhabited

/-- An ephemeris or almanac of a satellite (R245, R246): its bits, the clock correction that came with it, when it was accepted, the TAI second then (0 where it was not known), and whether it was loaded from the NV store at a start. -/
structure NavData where
  sys : Nat
  sv : Nat
  almanac : Bool
  bits : List Byte
  clk : Option ClockPoly
  acceptedT : Tick
  sec : Nat
  stored : Bool
  deriving DecidableEq, Repr, Inhabited

/-- What the NV store holds for GNS at 0x0001_0000–0x0001_FFFF; the spec gives the layout of these bytes no form (R246). -/
structure GnsStore where
  nav : List NavData := []
  /-- the surveyed position and U_pos, mm; reset none -/
  pos : Option (Int × Int × Int × Nat) := none
  /-- GN_WEEKBASE (R235): set at manufacture; 0 (DESIGN CHOICE) -/
  weekBase : Nat := 0
  deriving DecidableEq, Repr, Inhabited

inductive SolState where
  | disabled | noFix | survey | hold | withdrawn
  deriving DecidableEq, Repr, Inhabited

/-- A time solution (R248 to R261). -/
structure Sol where
  st : SolState := .disabled
  valid : Bool := false
  /-- the position a survey found, mm, and its U_pos, mm (R251); reset none -/
  pos : Option (Int × Int × Int × Nat) := none
  /-- withdrawn for POSERR: the position held then is no longer used (R252) -/
  posBad : Bool := false
  /-- survey: tenths of a second counted, epochs, sum of the positions, sum of their squares, mm -/
  surveyTenths : Nat := 0
  surveyN : Nat := 0
  surveySum : Int × Int × Int := (0, 0, 0)
  surveySq : Int := 0
  /-- consecutive epochs without a condition (Table 11.6) -/
  clean : Nat := 0
  wcause : Nat := 0
  delta : Int := 0
  rate : Int := 0
  unc : Nat := 0
  pathUnc : Nat := 0
  nsv : Nat := 0
  nexcl : Nat := 0
  sysUsed : Nat := 0
  sflags : Nat := 0
  /-- the free counter at the last epoch whose fit gave a DELTA (FS4); reset none -/
  lastT : Option Tick := none
  /-- the position shift, mm, that the residuals of the epochs in HOLD over the last 600 s ask for (R252); reset none -/
  shifts : List (Tick × Int × Int × Int) := []
  /-- its own inter-system offsets, ps, as last estimated (R248, R255); reset none -/
  isb : List (Nat × Int) := []
  deriving DecidableEq, Repr, Inhabited

/-- A notch filter (R262). -/
structure Notch where
  engaged : Bool := false
  freq : Int := 0
  /-- its line has been below NTH − 3 dB since this TCLK -/
  belowFrom : Option Tick := none
  deriving DecidableEq, Repr, Inhabited

structure Gns where
  chans : List GnsChan := List.replicate 160 {}
  sols : List Sol := List.replicate 4 {}
  /-- four of L1, then four of L5 -/
  notches : List Notch := List.replicate 8 {}
  gclkF : Bool := false
  /-- the last Bell at which GCLK was out of tolerance (R230); reset 0 -/
  gclkBadT : Tick := 0
  /-- the tag of the last 1 ms boundary used (R231); reset 0 -/
  tag : GnsTag := {}
  /-- up to which TS-O, 2⁻⁴⁸ ns, epoch instants have been made or passed over (R250); reset 0 -/
  epochV : Nat := 0
  /-- the epoch instant that falls on the TCLK of the last Bell, before its steps (R250, Table 11.11); reset none -/
  bellEpoch : Option Nat := none
  /-- GN_LEAP: source, value, scheduled change (TAI second and new value, none where it is unknown) (R234); reset none -/
  leapSrc : Nat := 0
  leap : Int := 0
  leapNext : Option (Nat × Option Int) := none
  /-- the resolved GPS week, and whether a message with more than the 10-bit week gave it (R235); reset none -/
  week : Option Nat := none
  weekFull : Bool := false
  nav : List NavData := []
  /-- the last good reception of LNAV subframes 1 to 3 of each satellite, waiting for its second (R245) -/
  lnavSeen : List (Nat × List Byte) := []
  /-- the last two bits of the last LNAV word of each satellite, which the parity of the next needs (R243) -/
  lnavTail : List (Nat × Bool × Bool) := []
  /-- parameters of each system's ionospheric model, by system (R245, R248); reset none -/
  iono : List (Option (List Int)) := List.replicate 4 none
  /-- broadcast offset of each system from GPS-derived TAI, ps (R255); reset none -/
  offset : List (Option Int) := List.replicate 4 none
  /-- time aid: uncertainty ns, TAI seconds, ns, T (R239) -/
  timeAid : Option (Nat × Nat × Nat × Nat) := none
  /-- position aid: uncertainty mm, X, Y, Z mm (R239) -/
  posAid : Option (Nat × Int × Int × Int) := none
  /-- aid records waiting for the next dwell or allocation, and what their bits say (R247) -/
  aidWait : List (List Byte × NavContent) := []
  /-- a first channel of each band has reached TRACK since the last time aid (R238) -/
  bandTracked : List Bool := [false, false]
  /-- candidates of the last allocation that got no channel, in order (R238): system, signal, satellite, frequency channel, elevation -/
  candWait : List (Nat × Nat × Nat × Int × Nat) := []
  /-- J/N of the bands, 0.1 dB: before and after the notches (R264) -/
  jn : List (Nat × Nat) := [(0, 0), (0, 0)]
  jnAbove : List Bool := [false, false]
  /-- P₀ learned per band: sum and number of the samples it is the mean of (R264) -/
  p0 : List (Option (Nat × Nat)) := [none, none]
  /-- learning: Bells left, sum and number -/
  learnLeft : List Nat := [0, 0]
  learnSum : List Nat := [0, 0]
  learnN : List Nat := [0, 0]
  /-- the C/N0 profile being learned and the learned one: signal · 18 + 5° step, sum in 0.1 dB-Hz and number (R264) -/
  cnLearn : List (Nat × Nat × Nat) := []
  cnProfile : List (Nat × Nat × Nat) := []
  jnStale : List Bool := [false, false]
  /-- false-signal checks: until when each system is excluded; the checks FS1–FS5 that flagged at the last epoch (R265) -/
  fsUntil : List (Option Tick) := List.replicate 4 none
  fsChecks : Nat := 0
  /-- FS5 flagged since the last epoch -/
  fs5Flag : Bool := false
  /-- since when each system's offset has been out, and by how much now, ps (FS3) -/
  fs3From : List (Option Tick) := List.replicate 4 none
  fs3Err : List Int := List.replicate 4 0
  /-- satellites excluded under FS5 -/
  fs5 : List (Nat × Nat) := []
  /-- NV writes: last of each system, and due; the position's (R246) -/
  storeT : List (Option Tick) := List.replicate 4 none
  storeDue : List Bool := List.replicate 4 false
  posDue : Option (Int × Int × Int × Nat) := none
  /-- a resolved week above GN_WEEKBASE, not yet stored (R235, R246); reset none -/
  weekDue : Option Nat := none
  /-- writes deferred for want of hold-up energy, to be tried at the next Bell: the systems, the position, the week (R246); reset none -/
  retry : List Nat := []
  /-- a NAV record was lost: the next carries LOSTBEFORE (R242) -/
  navLost : Bool := false
  /-- the slot that had each band's half of the search bank last (R240); reset 7, so that slot 0 comes first -/
  bankSlot : List Nat := [7, 7]
  /-- the search bank: satellite searched by each slot and its detections (R240) -/
  slotSv : List Nat := List.replicate 8 0
  detections : List Nat := List.replicate 8 0
  deriving DecidableEq, Repr, Inhabited

/-! ### Ethernet ports (chapter 12) -/

inductive PortState where
  | disabled | training | up | retry | retired
  deriving DecidableEq, Repr, Inhabited

/-- Where a frame to be sent came from (R276, R278): reports go back to it. -/
inductive TxSource where
  | ring (q : Nat)
  | crier (cls : Nat)
  | tollgate (cls : Nat)
  /-- a frame whose fate nobody counts: flow control, a NAK already counted, answers of the management path -/
  | plain
  deriving DecidableEq, Repr, Inhabited

/-- A message that follows the departure of a two-step message, with its precise timestamp (R302, R316): the domain entry, the destination address and the message without authentication. -/
structure Follow where
  entry : Nat
  dest : Option (List Byte)
  peer : Bool
  msg : List Byte
  deriving DecidableEq, Repr, Inhabited

/-- A frame waiting to leave: its class, bytes without FCS, and what becomes of it. -/
structure TxFrame where
  src : TxSource
  cls : Nat
  bytes : List Byte
  /-- launch instant L of a launch-time frame, 2⁻¹⁶ ns of the port's scale (R278) -/
  launch : Option Nat
  /-- the transmit stamp is returned (TSREQ) or recorded (R307) -/
  stampWanted : Bool
  /-- one-step insertion (R301): INSKIND and INSOFS -/
  insert : Option (Nat × Nat)
  /-- receive stamp of the request, for the residence time of a one-step Pdelay_Resp, 2⁻¹⁶ ns (R302) -/
  base : Option Int := none
  /-- the two-step message that follows (R316) -/
  follow : Option Follow := none
  /-- the grant it is sent under (Table 13.8) -/
  grant : Option Nat := none
  /-- the tracking slot whose Delay_Req or Pdelay_Req it is (R316) -/
  track : Option Nat := none
  /-- the ring's frame number -/
  seq : Nat
  deriving DecidableEq, Repr, Inhabited

/-- A gate control list as it runs (R279). -/
structure GateBank where
  gen : Bool := false
  len : Nat := 0
  base : Nat := 0
  cnum : Nat := 1
  cden : Nat := 1000
  entries : List (Nat × Nat) := []
  deriving DecidableEq, Repr, Inhabited

structure PrpEntry where
  src : Nat
  seq : Nat
  t : Tick
  deriving DecidableEq, Repr, Inhabited

structure Port where
  st : PortState := .disabled
  /-- class queues, oldest first (R276) -/
  queues : List (List TxFrame) := List.replicate 8 []
  launchQ : List TxFrame := []
  /-- launch-time frames on their way to the launch queue (R276, R278) -/
  toLaunch : List TxFrame := []
  /-- operational gate bank, and the captured admin bank waiting for its boundary (R280) -/
  oper : GateBank := {}
  captured : Option GateBank := none
  /-- the TCLK of the last cycle start that has run (R280, R281); reset none -/
  cycleT : Option Tick := none
  /-- hold timers of a received PAUSE (index 0) or PFC (priority p): end by the free counter (R283) -/
  pauseEnd : Option Tick := none
  pfcEnd : List (Option Tick) := List.replicate 8 none
  /-- XOFF sent for the port or a class, and when it is repeated (R285) -/
  xoff : Nat := 0
  fcDue : List (Option Tick) := List.replicate 9 none
  /-- the frame on the wire ends at this TCLK -/
  busyUntil : Option Tick := none
  /-- the cause of the last fault, and whether it was permanent (MAC_FLT) -/
  fltCause : Nat := 0
  fltPerm : Bool := false
  /-- PAUSE or PFC frames of its own waiting for an opportunity, oldest first (R277, R285) -/
  fcPend : List (List Byte) := []
  /-- SyncE recovered clock present (R271) -/
  rclk : Bool := false
  prp : List PrpEntry := []
  prpSeq : Nat := 0
  deriving DecidableEq, Repr, Inhabited

/-! ### Timestamping and the Crier (chapter 13) -/

/-- A port's stored calibration in effect, and the NV record it comes from (R298). -/
structure PortCal where
  valid : Bool := false
  tx : Int := 0
  rx : Int := 0
  unc : Nat := 0
  /-- written and read back, waiting for its Bell -/
  next : Option (Int × Int × Nat) := none
  deriving DecidableEq, Repr, Inhabited

/-- PortState of IEEE 1588 as the firmware sets it (R308). -/
abbrev PtpPortState := Nat

/-- A domain entry (R308). -/
structure DomEntry where
  built : Bool := false
  port : Nat := 0
  domain : Nat := 0
  profile : Nat := 0
  role : Nat := 0
  scale : Nat := 0
  portState : PtpPortState := 0
  /-- the clock state last derived (R313): 0 LOCKED, 1 HOLD, 2 DEGRADED, 3 FREE -/
  clockState : Nat := 3
  /-- PT_DSTAT: clockClass, clockAccuracy, timeSource, traceability -/
  stat : Word := 0
  /-- the last instant of its multicast Sync and Announce streams that has come or been passed over, 2⁻¹⁶ ns (R309); reset before all -/
  lastSync : Int := -1
  lastAnn : Int := -1
  deriving DecidableEq, Repr, Inhabited

/-- A grant (Table 13.8). -/
structure Grant where
  index : Nat
  addr : List Byte
  pid : List Byte
  entry : Nat
  mtype : Nat
  logint : Int
  auth : Bool
  twoStep : Bool
  fromSnap : Bool
  grantBell : BitVec 64
  endBell : BitVec 64
  sent : BitVec 64
  /-- the last instant of its stream that has come or been passed over, 2⁻¹⁶ ns (R309) -/
  last : Int
  deriving DecidableEq, Repr, Inhabited

/-- A grant that a tracking slot holds from its master (R315): the message type, its interval, its duration in s, when it came, and whether its renewal has been asked for. -/
structure SlotGrant where
  mtype : Nat
  log : Int
  dur : Nat
  t : Tick
  asked : Bool
  deriving DecidableEq, Repr, Inhabited

/-- A tracking slot (R315 to R318); times in 2⁻¹⁶ ns. -/
structure TrackSlot where
  valid : Bool := false
  invCause : Nat := 0
  /-- the master's clockClass, clockAccuracy, stepsRemoved as announced (PT_TSTAT) -/
  clockClass : Nat := 0
  clockAcc : Nat := 0
  steps : Nat := 0
  /-- grandmasterPriority1, clock quality, priority2 and identity of the parent dataset (R312), 14 bytes -/
  gm : List Byte := []
  /-- heard within their time: Announce, Sync with its Follow_Up, an accepted delay exchange (Table 13.3) -/
  annOk : Bool := false
  syncOk : Bool := false
  dlyOk : Bool := false
  /-- when each of them last came -/
  annT : Tick := 0
  syncT : Tick := 0
  dlyT : Tick := 0
  /-- the master's intervals of Announce, Sync (R170) and Delay_Req, as its messages or grants give them; reset 0 -/
  annLog : Int := 0
  syncLog : Int := 0
  reqLog : Int := 0
  /-- when the last Delay_Req or Pdelay_Req was sent -/
  reqT : Option Tick := none
  /-- portIdentity of the master the firmware has put into a slot with FIXED = 0 (R315) -/
  master : List Byte := []
  /-- a Sync waiting for its Follow_Up: sequenceId, t2, correction, step count of its scale, and its instant on the free counter -/
  pend : Option (Nat × Int × Int × Nat × Int) := none
  /-- t2 − t1 − c_s of the last Sync, and the step count then -/
  last : Option (Int × Nat) := none
  /-- Delay_Req in flight: sequenceId, t3, step count -/
  req : Option (Nat × Int × Nat) := none
  reqSeq : Nat := 0
  /-- d_i of the newest exchanges, newest first, at most 256, and whether accepted (R316) -/
  ds : List (Int × Bool) := []
  mpd : Int := 0
  ofs : Int := 0
  /-- what the master has granted (R315) -/
  grants : List SlotGrant := []
  authBad : Bool := false
  deriving DecidableEq, Repr, Inhabited

structure Ptp where
  cals : List PortCal := List.replicate 6 {}
  entries : List DomEntry := List.replicate 16 {}
  grants : List Grant := []
  slots : List TrackSlot := List.replicate 8 {}
  /-- peer-delay exchanges of each port: newest d_i and acceptance, meanLinkDelay (R316) -/
  pds : List (List (Int × Bool)) := List.replicate 6 []
  mld : List Int := List.replicate 6 0
  /-- a Pdelay_Req in flight: sequenceId, t1, step count of the port's scale -/
  pdReq : List (Option (Nat × Int × Nat)) := List.replicate 6 none
  pdSeq : List Nat := List.replicate 6 0
  /-- steps seen by each scale, A, B, O: a count that tells stamps of different sides apart (R317) -/
  stepCnt : List Nat := [0, 0, 0]
  /-- outcome counters by grant class (R319): due, sent, refused, dropped at launch, in the pipeline now, PIPE at the last Bell -/
  outc : List (List Nat) := List.replicate 4 (List.replicate 6 0)
  /-- the port whose record is being written, and the record (PT_CALCMD.BUSY, R298) -/
  storing : Option (Nat × List Byte) := none
  deriving DecidableEq, Repr, Inhabited

/-! ### The Tollgate (chapter 14) -/

/-- A frame that step 5 of R273 has handed to the Crier or the Tollgate: its port, its bytes without the FCS, its receive stamp in the port's scale, the instant of its timestamp point at the plane on the free counter and on TS-A and TS-B, all in 2⁻¹⁶ ns, the step counts of TS-A, TS-B and TS-O then, and the types of its negotiation TLVs that have been handled. -/
structure Taken where
  /-- the Crier's, else the Tollgate's -/
  ptp : Bool
  port : Nat
  bytes : List Byte
  stamp : Nat
  t : Tick
  inst : Int
  pair : List Int
  sides : List Nat
  handled : List Nat := []
  deriving DecidableEq, Repr, Inhabited

/-- A request the Tollgate has taken (R322, R340): where it came from, its receive stamp and its UDP payload. -/
structure TolReq where
  port : Nat
  nts : Bool
  /-- the address entry serves no unauthenticated requests -/
  rstr : Bool
  /-- receive stamp, 2⁻¹⁶ ns of the port's scale, and the TCLK of its arrival -/
  rxStamp : Nat
  rxT : Tick
  /-- the address served, and the way back: source MAC (6 bytes), IP address (16), UDP port (2), and the VLAN TCI (2) of a tagged request -/
  dst : List Byte
  back : List Byte
  payload : List Byte
  deriving DecidableEq, Repr, Inhabited

structure Tol where
  /-- the request queue, oldest first, at most 16,384 (R340); reset empty -/
  queue : List TolReq := []
  /-- E (R329, R330): backup domain; its reset value is the backup domain's -/
  e : Word := 0
  age : Word := 0
  /-- E has advanced at the first Bell in ACTIVE of this start (R330) -/
  startAdv : Bool := false
  /-- the next epoch key is derived (R329) -/
  nextReady : Bool := false
  /-- a commanded advance waits for the next Bell, or, being late, for the one after (R329, R33) -/
  advance : Bool := false
  advanceLate : Bool := false
  /-- the epoch keys K_E … K_(E−3) (R329, R338) -/
  cache : List (Option (List Byte)) := []
  ready : Bool := false
  /-- outcome counters of the two classes (R339): received, answered, refused, dropped at launch, dropped for overload, in the pipeline now, PIPE at the last Bell -/
  outc : List (List Nat) := List.replicate 2 (List.replicate 7 0)
  /-- NTP reference timestamps: scale value at the Bell at which servo became LOCKED, A, B, O (R323) -/
  lockedAt : List (Option Nat) := [none, none, none]
  /-- the last time or phase reference selected for each working scale (R325) -/
  lastRef : List (Option Nat) := [none, none]
  /-- partner's Reference ID from its snapshot (R325) -/
  partnerRefId : List Byte := []
  deriving DecidableEq, Repr, Inhabited

/-! ### Rings and the Hall (chapter 15) -/

/-- A completion that waits to be written back (R354, Tables 15.7 and 15.8): the bytes for the buffer and its address, the 32 bytes for the descriptor, the cells it gives back and the port whose receive buffer held them (R359). -/
structure Done where
  data  : List Byte
  addr  : Nat
  comp  : List Byte
  cells : Nat
  /-- the port and traffic class whose frame ends here and whose receive buffer the cells are -/
  port  : Option (Nat × Nat)
  deriving DecidableEq, Repr, Inhabited

/-- A descriptor the host has put in a ring, as the device reads it (Tables 15.6 and 15.8). -/
structure Desc where
  /-- ADDR -/
  addr    : Nat
  /-- transmit: the buffer's bytes -/
  bytes   : List Byte
  /-- receive: BUFLEN -/
  bufLen  : Nat
  tsReq   : Bool
  insert  : Bool
  insKind : Nat
  insOfs  : Nat
  /-- LAUNCH with LT_SEC and LT_NS -/
  launch  : Option (Nat × Nat)
  more    : Bool
  deriving DecidableEq, Repr, Inhabited

/-- A ring (R354 to R361). ISSUED, COMPLETED and INFLIGHT are counts before their narrowing to 48 bits; every field resets to 0, none or empty. -/
structure Ring where
  tail : Nat := 0
  head : Nat := 0
  issued : Nat := 0
  completed : Nat := 0
  inflight : Nat := 0
  /-- descriptors the host has posted and the device has not used, oldest first -/
  posted : List Desc := []
  /-- TXQ: descriptors fetched, oldest first: the number of their frame, its cells, and the completion once the frame has one -/
  fetched : List (Nat × Nat × Option (List Byte)) := []
  /-- TXQ: number of the next frame -/
  frameNo : Nat := 0
  /-- completions that wait to be written back, oldest first -/
  filled : List Done := []
  /-- QR_STAT.STOP (R361) -/
  stop : Bool := false
  /-- armed by a doorbell; completions since; pending (R352) -/
  armed : Bool := false
  since : Nat := 0
  /-- when the first completion after arming was written -/
  firstT : Option Tick := none
  pending : Bool := false
  deriving DecidableEq, Repr, Inhabited

structure Qmg where
  txq : List Ring := List.replicate 64 {}
  rxq : List Ring := List.replicate 64 {}
  /-- block sources 128 to 154 that are pending (R352); reset none -/
  srcPending : List Nat := []
  /-- MSI-X tables (Table 15.2): function · 2²⁰ + byte offset in the table; unlisted: `msixDefault` -/
  msix : RegFile := []
  /-- set pending bits: function and vector (R352) -/
  pba : List (Nat × Nat) := []
  /-- cell counters (R359), before narrowing; reset 0 -/
  granted : Nat := 0
  consumed : Nat := 0
  held : Nat := 0
  /-- cells of received frames that await delivery, by port (R359) -/
  portHeld : List Nat := List.replicate 6 0
  /-- the TXQ that the GNS aid reader and the mint service are bound to (R358); reset none -/
  aidBound : Option Nat := none
  mintBound : Option Nat := none
  deriving DecidableEq, Repr, Inhabited

/-- A request at the Hall (R363 to R365). -/
structure HallReq where
  master : Nat
  id : Nat
  target : Nat
  /-- the slot a Lane request is addressed to, for R365 -/
  slot : Nat
  write : Bool
  beats : Nat
  heldOrder : Bool
  heldCycle : Bool
  deriving DecidableEq, Repr, Inhabited

structure Hal where
  /-- requests that hold a tag and wait for a grant, and those granted -/
  tagged : List HallReq := []
  granted : List HallReq := []
  /-- requests without a tag -/
  waiting : List HallReq := []
  issued : List Nat := List.replicate 12 0
  returned : List Nat := List.replicate 12 0
  outstanding : List Nat := List.replicate 12 0
  /-- master last granted at each target, for the round robin (R366) -/
  lastGrant : List Nat := List.replicate 9 0
  /-- masters whose new requests wait until their old tags return (R367) -/
  draining : List Nat := []
  deriving DecidableEq, Repr, Inhabited

/-! ### Keys and hold-up (chapter 16) -/

inductive NodeState where
  | invalid | valid | orphan
  deriving DecidableEq, Repr, Inhabited

/-- A node of the tree (R371), with its material as wrapped and its tag (R372). -/
structure KeyNode where
  index : Nat
  st : NodeState
  parent : Nat
  usage : Nat
  dest : Nat
  auto : Bool
  gen : Nat
  wrapped : List Byte
  tag : List Byte
  deriving DecidableEq, Repr, Inhabited

/-- A journal record (R376). -/
structure JournalRec where
  seq : Nat
  cmd : Nat
  node : KeyNode
  crcGood : Bool
  applied : Bool
  deriving DecidableEq, Repr, Inhabited

/-- A working key register (R373, R379, R380). -/
structure WorkKey where
  node : Option Nat := none
  key : List Byte := []
  orph : Bool := false
  deriving DecidableEq, Repr, Inhabited

/-- What the command in progress will post (R374). -/
structure KeyBusy where
  cmd : Nat
  /-- nodes the walk marks ORPHAN (R378), or the result bytes of SEAL and FWMAC -/
  walk : List Nat
  out : List Byte
  deriving DecidableEq, Repr, Inhabited

structure Key where
  /-- the operational root (R370), backup domain; reset none -/
  root : Option (List Byte) := none
  /-- the identity root in OTP fuses (R368); reset none -/
  idRoot : Option (List Byte) := none
  idOk : Bool := false
  /-- nodes that have ever been written, by index, sparse; an unlisted node is INVALID with every field 0 -/
  nodes : List KeyNode := []
  slots : List (Option JournalRec) := [none, none]
  /-- the slot the select word names; none when its halves disagree (R377) -/
  select : Option Nat := some 0
  seq : Nat := 0
  work : List WorkKey := List.replicate 5 {}
  busy : Option KeyBusy := none
  /-- KEY_TAMPER, ZCOUNT, ROOTGEN, KEY_TCFG: backup domain -/
  tamper : Word := 0
  zcount : Nat := 0
  rootGen : Nat := 0
  tcfg : Word := 0
  /-- V in mV, E in µJ and whether a sample exists, C_meas in µF (R381, R383) -/
  v : Nat := 0
  e : Nat := 0
  eValid : Bool := false
  /-- when the last sample was taken, and the last discharge test ended -/
  sampleT : Tick := 0
  htestT : Tick := 0
  cMeas : Nat := 0
  /-- VHSNS as last sampled, mV (R381) -/
  vhsns : Nat := 0
  degraded : Bool := false
  /-- a test asked for by KEY_HTEST.RUN has not ended (R383) -/
  testRun : Bool := false
  /-- the change of the Tollgate's working register that waits for the flush edge (R337, R379, R380) -/
  tolNext : Option WorkKey := none
  outValid : Bool := false
  deriving DecidableEq, Repr, Inhabited

/-! ### Twin pairs (chapter 17) -/

inductive LinkState where
  | down | training | negotiating | up | refused
  deriving DecidableEq, Repr, Inhabited

/-- What a committed snapshot tells the standby (Table 17.3). -/
structure Snapshot where
  bell : BitVec 64
  /-- the TCLK of its Bell here, and R_tw then, 2⁻¹⁶ ns (R128) -/
  bellT : Tick
  rtw : Nat
  image : List Byte
  deriving DecidableEq, Repr, Inhabited

/-- A half of an exchange (R396): the message sequence and stamps in 2⁻¹⁶ ns. -/
structure TimingHalf where
  seq : Nat
  stamp : Int
  deriving DecidableEq, Repr, Inhabited

structure Twn where
  link : LinkState := .down
  /-- the TCLK at which the link's training began, and that of the last HELLO sent in this state of it (R393, R394) -/
  trainT : Tick := 0
  helloT : Option Tick := none
  lastHello : List Byte := []
  /-- FLOOR of the partner's last message; its settings differ (R409) -/
  partnerFloor : Bool := false
  cfgDiff : Bool := false
  agreed : Nat := 0
  vFail : Bool := false
  partnerProt : Bool := false
  txSeq : Nat := 0
  /-- SEQ of the partner's last message, extended (R398) -/
  rxSeq : Nat := 0
  /-- TWFLOOR pulled by this chip; by the other, as seen on the pin -/
  pull : Bool := false
  floorLow : Bool := false
  /-- the millisecond of TS-O whose slot this chip has used; TIMING: the last sent, the last received (R396) -/
  slotMs : Option Nat := none
  lastTx : Option TimingHalf := none
  lastRx : Option TimingHalf := none
  theta : Int := 0
  rtt : Int := 0
  /-- θ of the exchanges of this Bell interval, newest first; R_tw of the last, its mean and the mean before (R397, R403) -/
  thetas : List Int := []
  rtw : Nat := 0
  meanTheta : Option Int := none
  prevMean : Option Int := none
  rtts : List Int := []
  departs : Nat := 0
  locked : Bool := false
  /-- the TCLK of the last completed exchange (R397) -/
  exT : Tick := 0
  /-- milliseconds missed in a row (R399), the last millisecond of TS-O that is accounted for, and the TCLKs at which TWALIVE and TIMING were last seen -/
  missed : Nat := 0
  seenMs : Nat := 0
  aliveT : Option Tick := none
  timingT : Option Tick := none
  hbLost : Bool := false
  abdicateSeen : Bool := false
  causeTx : Nat := 0
  causeRx : Nat := 0
  takeover : Nat := 0
  /-- a fault that made this chip abdicate is latched (R401, R407) -/
  abdFault : Bool := false
  /-- the partial snapshot: its Bell, length, bytes present (offset, bytes); the committed one (R406) -/
  partSnap : Option (BitVec 64 × Nat × List (Nat × List Byte)) := none
  snap : Option Snapshot := none
  /-- the chip has loaded BELLCNT and its scales from a snapshot (R402) -/
  loaded : Bool := false
  ackBell : Option (BitVec 64) := none
  /-- grant changes since the last acknowledged snapshot, oldest first: OP and entry (R405); position of the refresh -/
  changes : List (Nat × Grant) := []
  /-- the last snapshots sent that are not acknowledged: Bell and how many of the changes each carries, newest first -/
  sent : List (Nat × Nat) := []
  refresh : Nat := 0
  snapLen : Nat := 0
  behind : Bool := false
  drillAge : Nat := 0
  drillLogged : Bool := false
  /-- swap: target Bell, whether HANDOVER_ANS accepted it, and on the standby whether it accepted (R410) -/
  swapTarget : Option (BitVec 64) := none
  swapAccepted : Bool := false
  /-- the last BELL message: its payload fields (R402) -/
  outsel : Nat := 0
  cstateA : Nat := 0
  cstateB : Nat := 0
  refId : List Byte := []
  stepO : Int := 0
  /-- the partner's step that waits for this chip's next Bell, its OUTSEL change, and whether it goes to both scales (R402, R403) -/
  stepPending : Option (Int × Option Bool) := none
  stepBoth : Bool := false
  coreA : Nat := 0
  coreB : Nat := 0
  diffA : Int := 0
  diffB : Int := 0
  announce : List Byte := []
  mute : Bool := false
  /-- a BELL message with a step has arrived: mute until this chip's next Bell; none has arrived in 5 ms: mute until the next (R404) -/
  muteToBell : Bool := false
  muteLate : Bool := false
  /-- clock states of the scales as last sent (R313, R395): reset 3 FREE -/
  ownStates : List Nat := [3, 3]
  /-- after a takeover, the switch of the next Bell carries SOURCE TWIN (Table 17.6) -/
  twinSwitch : Bool := false
  /-- from a takeover or an abdication to the next Bell whose targets are chosen after it, selection of the scales stands (R407, R408); the coming Bell's targets were fixed before it (R411) -/
  selWait : Bool := false
  selLate : Bool := false
  deriving DecidableEq, Repr, Inhabited

/-! ### Audio (chapter 18) -/

inductive AudState where
  | stopped | following | bridging | internal | returning
  deriving DecidableEq, Repr, Inhabited

/-- An audio clock (R414): WCKIN, or an AES3 input. -/
structure AudClock where
  present : Bool := false
  /-- the last accepted edge, ns of the free counter -/
  last : Option Tick := none
  /-- accepted periods, newest first, at most 64, ns -/
  periods : List Nat := []
  /-- consecutive accepted good periods since the loss (Return) -/
  good : Nat := 0
  /-- the glitches of the last 64 P, ns -/
  glitches : List Tick := []
  pro : Bool := false
  /-- the block being received: its channel-status bits, oldest first (none before the first Z preamble), and the low word of BELLCNT at its first frame (R412, Table 18.8) -/
  cbits : Option (List Bool) := none
  blkBell : Word := 0
  deriving DecidableEq, Repr, Inhabited

/-- An AES3 output (R420 to R425). -/
structure AudOut where
  run : Bool := false
  low : Bool := false
  silent : Bool := false
  /-- ramping: 0 none, 1 up, 2 down (R421) -/
  ramp : Nat := 0
  /-- CONTENT and LOOPSRC the output carries (R420) -/
  content : Nat × Nat := (0, 0)
  /-- the ramp-down is due to: 0 none, 1 stop, 2 source change, 3 clock loss, 4 content change -/
  why : Nat := 0
  /-- it ramps up at its first block after a switch (R419) -/
  upDue : Bool := false
  /-- index and length of the ramp, in samples, and whether its last sample has left (R421) -/
  gain : Nat := 0
  len : Nat := 0
  rampDone : Bool := false
  /-- samples sent of the tone; the frames of the elastic buffer, audio and validity, oldest first, and whether they flow (R420) -/
  tone : Nat := 0
  buf : List (BitVec 25 × BitVec 25) := []
  flows : Bool := false
  /-- the boundary before the block's first frame has been taken (R34); the block's channel status and user bits (R424, R425) -/
  begun : Bool := false
  status : List Byte := []
  user : List Byte := []
  deriving DecidableEq, Repr, Inhabited

structure Aud where
  st : AudState := .stopped
  /-- WCKIN, AESIN0–3 -/
  clocks : List AudClock := List.replicate 5 {}
  outs : List AudOut := List.replicate 4 {}
  /-- source and rate the domain runs on; a change that waits for its ramps (R419) -/
  src : Nat := 0
  rate : Nat := 0
  change : Option (Nat × Nat) := none
  /-- last measured rate in mHz and y_b while bridging (R416) -/
  lastRate : Nat := 0
  yb : Int := 0
  /-- return declared; the switch waits for the first followed edge (R417) -/
  returnDue : Bool := false
  noBridge : Bool := false
  /-- the domain's last edge in ns of the free counter, the number of its next frame, the period it bridges with in ns (R416), and the phase in ns that the internal master has yet to slew (R418) -/
  edge : Option Rat := none
  frame : Nat := 0
  period : Rat := 0
  slew : Rat := 0
  deriving DecidableEq, Repr, Inhabited

/-! ### The device -/

structure Jtag where
  /-- the instruction in effect (R484); reset BYPASS, DESIGN CHOICE (log 3) -/
  instr : JtagInstr := .bypass
  deriving DecidableEq, Repr, Inhabited

/-- Everything but the queue of commands. -/
structure Dev where
  /-- register words as last written, RC counts and sticky bits, results without a field of their own; unlisted: the reset value of the register's table -/
  regs : RegFile := []
  /-- class S words in effect (R33 to R38); unlisted: the reset value -/
  eff : RegFile := []
  /-- class S writes that wait for their boundary (R33 to R37) -/
  staged : List Staged := []
  /-- the requesters of R58 and R62 -/
  pcie0 : ReqState := {}
  pcie1 : ReqState := {}
  cores : ReqState := {}
  mspi : ReqState := {}
  /-- writes to IND_DATA still on their way to their targets, oldest first: the requester, the slot, the word (R51, R63); reset none -/
  indWait : List (Requester × Nat × Word) := []
  /-- the first code other than OK that an MSPI write has earned since the last STATUS (R349); reset none -/
  mspiErr : Option Nat := none
  /-- what the last access was answered with -/
  resp : Response := ⟨.ok, []⟩
  /-- what the last command put on the device's interfaces, oldest first -/
  out : List Emit := []
  /-- the free counter T (R24); reset 0 -/
  t : Tick := 0
  /-- BELLCNT (R30); reset 0 -/
  bellCnt : BitVec 64 := 0
  gen : Gen := {}
  power : Power := {}
  start : Start := {}
  backup : Backup := {}
  flt : Flt := {}
  tal : Tal := {}
  cht : Cht := {}
  tsc : Tsc := {}
  sclA : Scl := {}
  sclB : Scl := {}
  /-- BOUND_STAMP(p) of ports 0 to 5 as computed at the last Bell, 2⁻¹⁶ ns (R121); reset 0 -/
  stamps : List Nat := List.replicate 6 0
  /-- REF0 to REF31 -/
  refs : List RefMon := List.replicate 32 {}
  /-- the selectors of the stalls -/
  sels : List Sel := List.replicate 32 {}
  stalls : List Stall := List.replicate 32 {}
  apls : List Apll := List.replicate 4 {}
  outs : List Output := List.replicate 24 {}
  pulses : List Pulse := List.replicate 8 {}
  grids : List Grid := List.replicate 8 {}
  trigs : List Trig := List.replicate 16 {}
  tdc : Tdc := {}
  gns : Gns := {}
  ports : List Port := List.replicate 6 {}
  /-- frames the timing engines have taken and not yet looked at, oldest first (R273); reset none -/
  taken : List Taken := []
  tol : Tol := {}
  ptp : Ptp := {}
  qmg : Qmg := {}
  key : Key := {}
  aud : Aud := {}
  twn : Twn := {}
  hal : Hal := {}
  jtag : Jtag := {}
  /-- pins that complete an active period of a function they no longer have (R472); reset none -/
  pinHold : List PinHold := []
  /-- GNSS data in the NV store (R246) -/
  gnsStore : GnsStore := {}
  /-- the NV store, byte address and byte (R116, R246, R298); unlisted: `Nv.blank` -/
  nv : List Host.Cell := []
  /-- the model's own: how many free values the machine has drawn (DESIGN CHOICE, log 2) -/
  freeIdx : Nat := 0
  deriving DecidableEq, Repr, Inhabited

/-- The machine: the device and the commands that wait for it, first in, first out. -/
structure State where
  dev : Dev := {}
  pending : List Instr := []
  deriving DecidableEq, Repr, Inhabited

/-- No command of the table stops the device with a fault of the model: an access the device turns away is answered as the spec says, and leaves a next state. The type has no constructor. -/
inductive Fault where
  deriving DecidableEq, Repr

/-- Why a command has no meaning. -/
inductive Refusal where
  /-- raised by an arm of `exec` that has no meaning yet; safe: the machine stops -/
  | notModelled (mnemonic : String)
  deriving DecidableEq, Repr

/-- The machine right after reset: every field at the value its declaration names, in BRINGUP at the rising edge of PORST_N with the backup domain as after a loss of VBAT (Tables 2.5, 19.2, 19.3). -/
def State.reset : State := {}

end Sys2Proof.Machine
end

