-- ==== Sys2Proof/Machine/RegMap.lean ====
section
/-! DEFINITION. The register map: the key of every register the chapters name, with its fields, their classes and reset values (R5, R8, R53, Tables 3.1 onwards). -/
namespace Sys2Proof.Machine
open Sys2Proof

/-- The classes of Table 0.5. Of a class S value of several words, `sc` is a word that another captures and `sg` the word whose write stages the value (R37). -/
inductive Cls where
  | rw | ro | rc | wo | s | x | sc | sg
  deriving DecidableEq, Repr

structure Field where
  hi : Nat
  lo : Nat
  cls : Cls
  reset : Nat
  deriving DecidableEq, Repr

/-- A register, or an array of registers: each dimension is a stride in bytes and a count, the widest stride first. -/
structure Row where
  base : Nat
  dims : List (Nat × Nat)
  fields : List Field
  deriving DecidableEq, Repr

/-- Key of a word in the indirect space of a slot (R62). -/
def indKey (slot addr : Nat) : Nat := (slot + 1) * 2 ^ 28 + addr

/-! ### Keys of the registers -/

/-- R30 -/
def GEN_BELLCNT_LO : Nat := 0x100
/-- R30, R58 -/
def GEN_BELLCNT_HI : Nat := 0x104
/-- R40 -/
def GEN_BELL_CTRL : Nat := 0x108
/-- R31, R40 -/
def GEN_BELL_STAT : Nat := 0x10C
/-- R68 -/
def GEN_VER_OFFER : Nat := 0x20
/-- R68 -/
def GEN_VER_AGREE : Nat := 0x24
/-- R67, R85 -/
def GEN_VER_INFO : Nat := 0x28
/-- R67 -/
def GEN_VER_RANGE : Nat := 0x2C
/-- R43 -/
def GEN_MODE : Nat := 0x10
/-- R1 -/
def GEN_IDENT : Nat := 0x14
/-- R450 -/
def RST_CMD : Nat := 0x10010
/-- R451 -/
def RST_QTIMEOUT : Nat := 0x10014
/-- R448 -/
def RST_LAST : Nat := 0x10018
/-- R449 -/
def RST_CNT : Nat := 0x10020
/-- R449 -/
def RST_FORCED : Nat := 0x10040
/-- R444 -/
def RST_ATTEMPT : Nat := 0x10044
/-- R445 -/
def FALLBACK_REASON : Nat := 0x10048
/-- R453 -/
def RST_WDOG : Nat := 0x10050
/-- R432 -/
def RST_BROWN : Nat := 0x10054
/-- R431 -/
def RST_VCORE : Nat := 0x10058
/-- R436 -/
def RST_FAILDOM : Nat := 0x1005C
/-- R449 -/
def RST_PINRST : Nat := 0x10080
/-- R457 -/
def FLT_LEVEL : Nat := 0x20010
/-- R458 -/
def FLT_ACK : Nat := 0x20014
/-- R456 -/
def FLT_NEXTSEQ : Nat := 0x20018
/-- R457, R58 -/
def FLT_ENT : Nat := 0x20020
/-- R457 -/
def FLT_LOST_LO : Nat := 0x20040
/-- R457 -/
def FLT_LOST_HI : Nat := 0x20044
/-- R460 -/
def FLT_LATCH : Nat := 0x20048
/-- R58 -/
def FLT_SRC_SEL : Nat := 0x20100
/-- R58 -/
def FLT_SRC_DATA : Nat := 0x20120
/-- R58 -/
def FLT_SRC_DATA8 : Nat := 0x20140
/-- R462 -/
def FLT_INJ : Nat := 0x20200
/-- R462 -/
def FLT_INJ_DETAIL : Nat := 0x20204
/-- R465 -/
def TAL_RING : Nat := 0x30010
/-- R465 -/
def TAL_DROP : Nat := 0x30014
/-- R465 -/
def TAL_CMD : Nat := 0x30018
/-- R465 -/
def TAL_SNAP_BELL_LO : Nat := 0x30020
/-- R465 -/
def TAL_SNAP_BELL_HI : Nat := 0x30024
/-- R463 -/
def TAL_CNT_LO : Nat := 0x31000
/-- R463 -/
def TAL_CNT_HI : Nat := 0x31004
/-- R465 -/
def TAL_SNAP_LO : Nat := 0x34000
/-- R465 -/
def TAL_SNAP_HI : Nat := 0x34004
/-- R463 -/
def TAL_CFG : Nat := 0x38000
/-- R464 -/
def TAL_ALO : Nat := 0x38004
/-- R464 -/
def TAL_AHI : Nat := 0x38008
/-- R90 -/
def CHT_CMD : Nat := 0x40010
/-- R81 -/
def CHT_ERR : Nat := 0x40014
/-- R85 -/
def CHT_ID_LO : Nat := 0x40018
/-- R85 -/
def CHT_ID_HI : Nat := 0x4001C
/-- R92 -/
def CHT_DELTA_BELL_LO : Nat := 0x40020
/-- R92 -/
def CHT_DELTA_BELL_HI : Nat := 0x40024
/-- R90 -/
def CHT_LOAD_DATA : Nat := 0x40028
/-- R90 -/
def CHT_LOAD_CNT : Nat := 0x4002C
/-- R82 -/
def CHT_BOOT : Nat := 0x40030
/-- R85, R87 -/
def CHT_INFO : Nat := 0x40034
/-- R85 -/
def CHT_DIGEST : Nat := 0x40100
/-- R107 -/
def TSC_OUTSEL : Nat := 0x80010
/-- R110 -/
def TSC_AUDIT : Nat := 0x80014
/-- R115 -/
def TSC_LRING : Nat := 0x80018
/-- R115 -/
def TSC_LDROP : Nat := 0x8001C
/-- R101 -/
def TSC_FREE_LO : Nat := 0x80020
/-- R101 -/
def TSC_FREE_HI : Nat := 0x80024
/-- R101 -/
def TSC_AUD_SEC_LO : Nat := 0x80028
/-- R101 -/
def TSC_AUD_SEC_HI : Nat := 0x8002C
/-- R101 -/
def TSC_AUD_NS : Nat := 0x80030
/-- R117 -/
def TSC_CKPT : Nat := 0x80034
/-- R115 -/
def TSC_LRD_SEL : Nat := 0x80400
/-- R115 -/
def TSC_LRD_DATA : Nat := 0x80420
/-- R102, R105 -/
def SC_CTRL : Nat := 0x80100
/-- R102 -/
def SC_FADJ_LO : Nat := 0x80108
/-- R102 -/
def SC_FADJ_HI : Nat := 0x8010C
/-- R106 -/
def SC_STEP_LO : Nat := 0x80110
/-- R106 -/
def SC_STEP_HI : Nat := 0x80114
/-- R105 -/
def SC_SET_SEC_LO : Nat := 0x80118
/-- R105 -/
def SC_SET_SEC_HI : Nat := 0x8011C
/-- R105 -/
def SC_SET_NS : Nat := 0x80120
/-- R105 -/
def SC_SET_FRAC : Nat := 0x80124
/-- R96 -/
def SC_INC_LO : Nat := 0x80128
/-- R96 -/
def SC_INC_HI : Nat := 0x8012C
/-- R95 -/
def SC_NOW_SEC_LO : Nat := 0x80130
/-- R95 -/
def SC_NOW_SEC_HI : Nat := 0x80134
/-- R95 -/
def SC_NOW_NS : Nat := 0x80138
/-- R95 -/
def SC_NOW_FRAC : Nat := 0x8013C
/-- R95 -/
def SC_NOW_T_LO : Nat := 0x80140
/-- R95 -/
def SC_NOW_T_HI : Nat := 0x80144
/-- R111 -/
def SC_SUM_LO : Nat := 0x80148
/-- R111 -/
def SC_SUM_HI : Nat := 0x8014C
/-- R114 -/
def SC_LWP : Nat := 0x80150
/-- R105 -/
def SC_ANC_SEC_LO : Nat := 0x80154
/-- R105 -/
def SC_ANC_SEC_HI : Nat := 0x80158
/-- R105 -/
def SC_ANC_NS : Nat := 0x8015C
/-- R105 -/
def SC_ANC_FRAC : Nat := 0x80160
/-- R14 -/
def SCL_COND : Nat := 0xA0010
/-- R141 -/
def SCL_XCTRL : Nat := 0xA0014
/-- R141 -/
def SCL_XDROP : Nat := 0xA0018
/-- R121 -/
def SCL_STAMP_LO : Nat := 0xA0040
/-- R121 -/
def SCL_STAMP_HI : Nat := 0xA0044
/-- R131 -/
def SS_CTRL : Nat := 0xA0100
/-- R133 -/
def SS_HSTAT : Nat := 0xA0104
/-- R121 -/
def SS_TOTAL_LO : Nat := 0xA0108
/-- R121 -/
def SS_TOTAL_HI : Nat := 0xA010C
/-- R121 -/
def SS_COMP : Nat := 0xA0110
/-- R133 -/
def SS_HOLD_LIMIT_LO : Nat := 0xA0148
/-- R133 -/
def SS_HOLD_LIMIT_HI : Nat := 0xA014C
/-- R133 -/
def SS_HOLD_MAXTIME : Nat := 0xA0150
/-- R133 -/
def SS_HOLDTIME : Nat := 0xA0154
/-- R134 -/
def SS_ALARM_LO : Nat := 0xA0158
/-- R134 -/
def SS_ALARM_HI : Nat := 0xA015C
/-- R142 -/
def SS_SETUNC_LO : Nat := 0xA0160
/-- R142 -/
def SS_SETUNC_HI : Nat := 0xA0164
/-- R131 -/
def SS_LEARN_TIME : Nat := 0xA0168
/-- R130 -/
def SS_MODEL : Nat := 0xA0170
/-- R130 -/
def SS_MODEL_N : Nat := 0xA01A0
/-- R130 -/
def SS_MODEL_T0 : Nat := 0xA01A4
/-- R153 -/
def REF_DTOL : Nat := 0xC0010
/-- R149 -/
def REF_QUAL : Nat := 0xC0014
/-- R148 -/
def REF_PRES : Nat := 0xC0018
/-- R148 -/
def REF_LOSS : Nat := 0xC001C
/-- R151 -/
def REF_LOCKOUT : Nat := 0xC0020
/-- R143, R145 -/
def REF_CFG : Nat := 0xC1000
/-- R143, R145 -/
def REF_CFG_10 : Nat := 0xC1280
/-- R143, R145 -/
def REF_CFG_16 : Nat := 0xC1400
/-- R143, R145 -/
def REF_CFG_24 : Nat := 0xC1600
/-- R143, R145 -/
def REF_CFG_28 : Nat := 0xC1700
/-- R143, R145 -/
def REF_CFG_30 : Nat := 0xC1780
/-- R143, R145 -/
def REF_CFG_31 : Nat := 0xC17C0
/-- R144 -/
def REF_FNUM : Nat := 0xC1004
/-- R144 -/
def REF_FDEN : Nat := 0xC1008
/-- R148 -/
def REF_FTOL : Nat := 0xC100C
/-- R145 -/
def REF_UNC : Nat := 0xC1010
/-- R145 -/
def REF_FUNC : Nat := 0xC1014
/-- R144 -/
def REF_CDLY : Nat := 0xC1018
/-- R144 -/
def REF_CUNC : Nat := 0xC101C
/-- R149 -/
def REF_STAT : Nat := 0xC1020
/-- R146 -/
def REF_UD : Nat := 0xC1024
/-- R147 -/
def REF_PHASE_LO : Nat := 0xC1028
/-- R147 -/
def REF_PHASE_HI : Nat := 0xC102C
/-- R147 -/
def REF_FREQ_LO : Nat := 0xC1030
/-- R147 -/
def REF_FREQ_HI : Nat := 0xC1034
/-- R167 -/
def REF_EVT : Nat := 0xC1038
/-- R152 -/
def SEL_CTRL : Nat := 0xC2000
/-- R164 -/
def SEL_STAT : Nat := 0xC2004
/-- R154 -/
def SEL_DISP : Nat := 0xC2008
/-- R156 -/
def SEL_DCLR : Nat := 0xC200C
/-- R151 -/
def SEL_VIEW : Nat := 0xC2010
/-- R155 -/
def SEL_PAIR : Nat := 0xC2014
/-- R167 -/
def SEL_CNT : Nat := 0xC2018
/-- R171, R173 -/
def SL_LOOP : Nat := 0x100010
/-- R178 -/
def SL_SRC : Nat := 0x100014
/-- R177 -/
def SL_HOLD : Nat := 0x100018
/-- R179 -/
def SL_LOCKTH : Nat := 0x10001C
/-- R176 -/
def SL_FREE_LO : Nat := 0x100020
/-- R176 -/
def SL_FREE_HI : Nat := 0x100024
/-- R169 -/
def SL_E_LO : Nat := 0x100028
/-- R169 -/
def SL_E_HI : Nat := 0x10002C
/-- R172 -/
def SL_Y_LO : Nat := 0x100030
/-- R172 -/
def SL_Y_HI : Nat := 0x100034
/-- R177 -/
def SL_HFREQ_LO : Nat := 0x100038
/-- R177 -/
def SL_HFREQ_HI : Nat := 0x10003C
/-- R170 -/
def SL_UPD : Nat := 0x100040
/-- R170 -/
def SL_FU : Nat := 0x100044
/-- R197 -/
def SL_EVT : Nat := 0x100048
/-- R181 -/
def AP_CFG : Nat := 0x141000
/-- R182 -/
def AP_NINT : Nat := 0x141004
/-- R182 -/
def AP_NFRAC_LO : Nat := 0x141008
/-- R182 -/
def AP_NFRAC_HI : Nat := 0x14100C
/-- R186 -/
def AP_POFS : Nat := 0x141010
/-- R189 -/
def AP_SLEW : Nat := 0x141014
/-- R184 -/
def AP_STAT : Nat := 0x141018
/-- R186 -/
def AP_PREM_LO : Nat := 0x14101C
/-- R186 -/
def AP_PREM_HI : Nat := 0x141020
/-- R182 -/
def AP_WORD_LO : Nat := 0x141024
/-- R182 -/
def AP_WORD_HI : Nat := 0x141028
/-- R197 -/
def AP_EVT : Nat := 0x14102C
/-- R190 -/
def OUT_CFG : Nat := 0x142000
/-- R191 -/
def OUT_SKEW : Nat := 0x142004
/-- R194 -/
def OUT_MUTE : Nat := 0x142008
/-- R192 -/
def OUT_STAT : Nat := 0x14200C
/-- R208 -/
def OUT_CAPRING : Nat := 0x180010
/-- R208 -/
def OUT_CAPDROP : Nat := 0x180014
/-- R200 -/
def PL_CFG : Nat := 0x181000
/-- R198 -/
def PL_PNUM : Nat := 0x181004
/-- R198 -/
def PL_PDEN : Nat := 0x181008
/-- R198 -/
def PL_OFS_LO : Nat := 0x18100C
/-- R198 -/
def PL_OFS_HI : Nat := 0x181010
/-- R200 -/
def PL_WIDTH : Nat := 0x181014
/-- R198 -/
def PL_STAT : Nat := 0x181018
/-- R199, R207 -/
def PL_EVT : Nat := 0x18101C
/-- R198 -/
def PL_NEXT_SEC_LO : Nat := 0x181020
/-- R198 -/
def PL_NEXT_SEC_HI : Nat := 0x181024
/-- R198 -/
def PL_NEXT_NS : Nat := 0x181028
/-- R201, R202 -/
def GR_CFG : Nat := 0x182000
/-- R201 -/
def GR_PNUM : Nat := 0x182004
/-- R201 -/
def GR_PDEN : Nat := 0x182008
/-- R202 -/
def GR_DIV : Nat := 0x18200C
/-- R201 -/
def GR_CNT_LO : Nat := 0x182010
/-- R201 -/
def GR_CNT_HI : Nat := 0x182014
/-- R201 -/
def GR_BND_SEC_LO : Nat := 0x182018
/-- R201 -/
def GR_BND_SEC_HI : Nat := 0x18201C
/-- R201 -/
def GR_BND_NS : Nat := 0x182020
/-- R201 -/
def GR_BND_FRAC : Nat := 0x182024
/-- R202 -/
def GR_PER_LO : Nat := 0x182028
/-- R202 -/
def GR_PER_HI : Nat := 0x18202C
/-- R202 -/
def GR_STAT : Nat := 0x182030
/-- R202 -/
def GR_EVT : Nat := 0x182034
/-- R204 -/
def GR_SKIP : Nat := 0x182038
/-- R206, R208 -/
def TR_CFG : Nat := 0x183000
/-- R206 -/
def TR_EVERY : Nat := 0x183004
/-- R206 -/
def TR_PHASE : Nat := 0x183008
/-- R205 -/
def TR_OFS_LO : Nat := 0x18300C
/-- R205 -/
def TR_OFS_HI : Nat := 0x183010
/-- R205 -/
def TR_WIDTH : Nat := 0x183014
/-- R206 -/
def TR_CNT_LO : Nat := 0x183018
/-- R206 -/
def TR_CNT_HI : Nat := 0x18301C
/-- R206 -/
def TR_STAT : Nat := 0x183020
/-- R206, R208 -/
def TR_EVT : Nat := 0x183024
/-- R209 -/
def TR_CAP : Nat := 0x183028
/-- R216 -/
def TDC_WINDOW : Nat := 0x1C0010
/-- R227 -/
def TDC_RING : Nat := 0x1C0014
/-- R227 -/
def TDC_DROP : Nat := 0x1C0018
/-- R222, R226 -/
def TDC_CALSTAT : Nat := 0x1C001C
/-- R227 -/
def TDC_RES : Nat := 0x1C0020
/-- R212 -/
def TDC_CFG : Nat := 0x1C0100
/-- R212 -/
def TDC_EVT : Nat := 0x1C0104
/-- R222 -/
def TDC_CALAGE : Nat := 0x1C0108
/-- R222 -/
def TDC_INTP : Nat := 0x1C010C
/-- R222; indirect space of slot 11 -/
def TDC_TABLE : Nat := 0xC0000000
/-- R242 -/
def GN_RINGS : Nat := 0x200010
/-- R264 -/
def GN_JN : Nat := 0x200014
/-- R259 -/
def GN_SOLSTAT : Nat := 0x200018
/-- R242 -/
def GN_NAVDROP : Nat := 0x20001C
/-- R261 -/
def GN_SOLDROP : Nat := 0x200020
/-- R229; indirect space of slot 12 -/
def GN_BAND_CFG : Nat := 0xD0000000
/-- R232; indirect space of slot 12 -/
def GN_LO : Nat := 0xD0000004
/-- R253; indirect space of slot 12 -/
def GN_ANTDLY : Nat := 0xD0000008
/-- R254; indirect space of slot 12 -/
def GN_ANTUNC : Nat := 0xD000000C
/-- R253; indirect space of slot 12 -/
def GN_RXDLY : Nat := 0xD0000010
/-- R254; indirect space of slot 12 -/
def GN_RXUNC : Nat := 0xD0000014
/-- R264; indirect space of slot 12 -/
def GN_JNCFG : Nat := 0xD0000018
/-- R264; indirect space of slot 12 -/
def GN_JNSTAT : Nat := 0xD000001C
/-- R232; indirect space of slot 12 -/
def GN_SIGEN : Nat := 0xD0000040
/-- R232; indirect space of slot 12 -/
def GN_SIGSTAT : Nat := 0xD0000044
/-- R237; indirect space of slot 12 -/
def GN_ELMASK : Nat := 0xD0000048
/-- R250; indirect space of slot 12 -/
def GN_EPOCH : Nat := 0xD000004C
/-- R251; indirect space of slot 12 -/
def GN_POSCFG : Nat := 0xD0000050
/-- R251; indirect space of slot 12 -/
def GN_POS : Nat := 0xD0000054
/-- R251; indirect space of slot 12 -/
def GN_POS_Z_HI : Nat := 0xD0000068
/-- R251; indirect space of slot 12 -/
def GN_POSUNC : Nat := 0xD000006C
/-- R234; indirect space of slot 12 -/
def GN_LEAP : Nat := 0xD0000070
/-- R265; indirect space of slot 12 -/
def GN_FSCFG : Nat := 0xD0000074
/-- R265; indirect space of slot 12 -/
def GN_FSSTAT : Nat := 0xD0000078
/-- R235; indirect space of slot 12 -/
def GN_WEEKBASE : Nat := 0xD000007C
/-- R255; indirect space of slot 12 -/
def GN_ISB_EST : Nat := 0xD0000080
/-- R255; indirect space of slot 12 -/
def GN_ISB_BC : Nat := 0xD0000084
/-- R255; indirect space of slot 12 -/
def GN_ISB_BUNC : Nat := 0xD0000088
/-- R255; indirect space of slot 12 -/
def GN_ISB_STAT : Nat := 0xD000008C
/-- R263; indirect space of slot 12 -/
def GN_NOTCHUNC : Nat := 0xD00000C0
/-- R260; indirect space of slot 12 -/
def GN_UNCMAX : Nat := 0xD00000C4
/-- R253; indirect space of slot 12 -/
def GN_SIGBIAS : Nat := 0xD0000100
/-- R254; indirect space of slot 12 -/
def GN_SIGUNC : Nat := 0xD0000104
/-- R236, R237; indirect space of slot 12 -/
def CH_CFG : Nat := 0xD0010000
/-- R236; indirect space of slot 12 -/
def CH_STAT : Nat := 0xD0010004
/-- R236; indirect space of slot 12 -/
def CH_DOP : Nat := 0xD0010008
/-- R236; indirect space of slot 12 -/
def CH_EVT : Nat := 0xD001000C
/-- R248; indirect space of slot 12 -/
def SOL_CFG0 : Nat := 0xD0020000
/-- R248; indirect space of slot 12 -/
def SOL_CFG1 : Nat := 0xD0020100
/-- R248; indirect space of slot 12 -/
def SOL_CFG2 : Nat := 0xD0020200
/-- R248, R249; indirect space of slot 12 -/
def SOL_CFG3 : Nat := 0xD0020300
/-- R259; indirect space of slot 12 -/
def SOL_STAT : Nat := 0xD0020004
/-- R261; indirect space of slot 12 -/
def SOL_DELTA_LO : Nat := 0xD0020008
/-- R261; indirect space of slot 12 -/
def SOL_DELTA_HI : Nat := 0xD002000C
/-- R261; indirect space of slot 12 -/
def SOL_RATE_LO : Nat := 0xD0020010
/-- R261; indirect space of slot 12 -/
def SOL_RATE_HI : Nat := 0xD0020014
/-- R257; indirect space of slot 12 -/
def SOL_UNC : Nat := 0xD0020018
/-- R254; indirect space of slot 12 -/
def SOL_PATHUNC : Nat := 0xD002001C
/-- R260; indirect space of slot 12 -/
def SOL_WCAUSE : Nat := 0xD0020020
/-- R250, R256; indirect space of slot 12 -/
def SOL_EVT : Nat := 0xD0020024
/-- R262; indirect space of slot 12 -/
def NT_CFG : Nat := 0xD0030000
/-- R262; indirect space of slot 12 -/
def NT_FREQ : Nat := 0xD0030004
/-- R262; indirect space of slot 12 -/
def NT_STAT : Nat := 0xD0030008
/-- R240; indirect space of slot 12 -/
def SLOT_CFG : Nat := 0xD0040000
/-- R240; indirect space of slot 12 -/
def SLOT_STAT : Nat := 0xD0040004
/-- R268 -/
def MAC_PCS : Nat := 0x280010
/-- R274 -/
def MAC_MAXLEN : Nat := 0x280014
/-- R273 -/
def MAC_ADDR_LO : Nat := 0x280018
/-- R273 -/
def MAC_ADDR_HI : Nat := 0x28001C
/-- R273 -/
def MAC_RXCFG : Nat := 0x280020
/-- R273 -/
def MAC_PCPMAP : Nat := 0x280024
/-- R276, R277 -/
def MAC_TXCFG : Nat := 0x280028
/-- R278 -/
def MAC_LHORIZ : Nat := 0x28002C
/-- R283, R285 -/
def MAC_FC : Nat := 0x280030
/-- R285 -/
def MAC_FCTH : Nat := 0x280034
/-- R283 -/
def MAC_FCSTAT : Nat := 0x280038
/-- R272 -/
def MAC_SYNCE : Nat := 0x28003C
/-- R279 -/
def MAC_GCL_CTRL : Nat := 0x280040
/-- R279 -/
def MAC_GCL_BSEC_LO : Nat := 0x280044
/-- R279 -/
def MAC_GCL_BSEC_HI : Nat := 0x280048
/-- R279 -/
def MAC_GCL_BNS : Nat := 0x28004C
/-- R279 -/
def MAC_GCL_CNUM : Nat := 0x280050
/-- R279 -/
def MAC_GCL_CDEN : Nat := 0x280054
/-- R280 -/
def MAC_GCL_COMMIT : Nat := 0x280058
/-- R280 -/
def MAC_GCL_OPER : Nat := 0x28005C
/-- R279 -/
def MAC_GCL_CUR : Nat := 0x280060
/-- R276 -/
def MAC_LQ : Nat := 0x280064
/-- R291 -/
def MAC_FLT : Nat := 0x280068
/-- R287, R289 -/
def MAC_PRP : Nat := 0x28006C
/-- R275 -/
def MAC_CNT : Nat := 0x280100
/-- R279 -/
def GCL_GATES : Nat := 0x281000
/-- R279 -/
def GCL_INT : Nat := 0x281004
/-- R279 -/
def GCL_OGATES : Nat := 0x282000
/-- R279 -/
def GCL_OINT : Nat := 0x282004
/-- R333 -/
def TOL_LOFS : Nat := 0x340010
/-- R329 -/
def TOL_EPOCHLEN : Nat := 0x340014
/-- R329 -/
def TOL_EPOCH : Nat := 0x340018
/-- R329 -/
def TOL_EPOCHAGE : Nat := 0x34001C
/-- R329 -/
def TOL_CMD : Nat := 0x340020
/-- R340 -/
def TOL_QMAX : Nat := 0x340024
/-- R335 -/
def TOL_XEF : Nat := 0x340028
/-- R336 -/
def TOL_MINT : Nat := 0x34002C
/-- R338 -/
def TOL_CACHE : Nat := 0x340030
/-- R336 -/
def TOL_MINTCNT : Nat := 0x340034
/-- R336 -/
def TOL_MINTDROP : Nat := 0x340038
/-- R335 -/
def TOL_XNONE : Nat := 0x34003C
/-- R332 -/
def TOL_REF : Nat := 0x340080
/-- R339 -/
def TOL_CNT : Nat := 0x340100
/-- R322 -/
def TOL_IP_ADDR : Nat := 0x340400
/-- R322 -/
def TOL_IP_CFG : Nat := 0x340410
/-- R304 -/
def PT_LOFS : Nat := 0x380010
/-- R311 -/
def PT_RATEMAX : Nat := 0x380014
/-- R311 -/
def PT_GRANTS : Nat := 0x380018
/-- R311 -/
def PT_GMAXDUR : Nat := 0x38001C
/-- R312 -/
def PT_UTC : Nat := 0x380020
/-- R307 -/
def PT_EVRING : Nat := 0x380024
/-- R307 -/
def PT_EVDROP : Nat := 0x380028
/-- R305 -/
def PT_AUTH : Nat := 0x38002C
/-- R298 -/
def PT_CALCMD : Nat := 0x380030
/-- R305 -/
def PT_AUTHFAIL : Nat := 0x380034
/-- R58, R311 -/
def PT_GRD_SEL : Nat := 0x380040
/-- R58, R311 -/
def PT_GRD_DATA : Nat := 0x380080
/-- R319 -/
def PT_OUTC : Nat := 0x380100
/-- R298 -/
def PT_PCAL : Nat := 0x381000
/-- R297 -/
def PT_TXDLY : Nat := 0x381004
/-- R297 -/
def PT_RXDLY : Nat := 0x381008
/-- R298 -/
def PT_CALUNC : Nat := 0x38100C
/-- R298 -/
def PT_UCAL : Nat := 0x381010
/-- R308 -/
def PT_DOM : Nat := 0x382000
/-- R320 -/
def PT_DCFG : Nat := 0x382004
/-- R320 -/
def PT_DPRI : Nat := 0x382008
/-- R307 -/
def PT_DVLAN : Nat := 0x38200C
/-- R312, R314 -/
def PT_DSTAT : Nat := 0x382010
/-- R315 -/
def PT_TCFG : Nat := 0x383000
/-- R315 -/
def PT_TADDR : Nat := 0x383004
/-- R315 -/
def PT_TADDR3 : Nat := 0x383010
/-- R300 -/
def PT_TASYM : Nat := 0x383014
/-- R300 -/
def PT_TAUNC : Nat := 0x383018
/-- R318 -/
def PT_TSTAT : Nat := 0x38301C
/-- R316 -/
def PT_TMPD_LO : Nat := 0x383020
/-- R316 -/
def PT_TMPD_HI : Nat := 0x383024
/-- R316 -/
def PT_TOFS_LO : Nat := 0x383028
/-- R316 -/
def PT_TOFS_HI : Nat := 0x38302C
/-- R317 -/
def PT_TEVT : Nat := 0x383030
/-- R316 -/
def PT_TDLY : Nat := 0x383034
/-- R359 -/
def QMG_CELLS : Nat := 0x3C0010
/-- R359 -/
def QMG_LOADBUF : Nat := 0x3C0014
/-- R359 -/
def QMG_CCNT : Nat := 0x3C0018
/-- R359 -/
def QMG_PBUF : Nat := 0x3C0040
/-- R351 -/
def QMG_IMAP : Nat := 0x3C1000
/-- R351 -/
def QMG_ISTAT : Nat := 0x3C1400
/-- R354 -/
def QR_CFG_TX : Nat := 0x3C4000
/-- R354 -/
def QR_CFG_RX : Nat := 0x3C5000
/-- R352 -/
def QR_IMOD : Nat := 0x3C4004
/-- R354 -/
def QR_BASE_LO : Nat := 0x3C4008
/-- R354 -/
def QR_BASE_HI : Nat := 0x3C400C
/-- R354 -/
def QR_WB_LO : Nat := 0x3C4010
/-- R354 -/
def QR_WB_HI : Nat := 0x3C4014
/-- R354 -/
def QR_IDX : Nat := 0x3C4018
/-- R355, R361 -/
def QR_STAT : Nat := 0x3C401C
/-- R360 -/
def QR_CNT : Nat := 0x3C4020
/-- R359 -/
def QR_QUOTA : Nat := 0x3C4038
/-- R374 -/
def KEY_CMD : Nat := 0x400010
/-- R374 -/
def KEY_RES : Nat := 0x400014
/-- R375 -/
def KEY_NODE : Nat := 0x400018
/-- R375 -/
def KEY_DATA : Nat := 0x400020
/-- R388 -/
def KEY_NONCE : Nat := 0x400040
/-- R391 -/
def KEY_FMAC_LEN : Nat := 0x400050
/-- R381 -/
def KEY_HOLD : Nat := 0x400060
/-- R381 -/
def KEY_HOLDV : Nat := 0x400064
/-- R381 -/
def KEY_HOLDCFG : Nat := 0x400068
/-- R383 -/
def KEY_HTEST : Nat := 0x40006C
/-- R385 -/
def KEY_TAMPER : Nat := 0x400070
/-- R386 -/
def KEY_ZCOUNT : Nat := 0x400074
/-- R387 -/
def KEY_TCFG : Nat := 0x400078
/-- R368 -/
def KEY_ID : Nat := 0x40007C
/-- R379 -/
def KEY_WK : Nat := 0x400080
/-- R58 -/
def KEY_NRD_SEL : Nat := 0x4000A0
/-- R58, R371 -/
def KEY_NRD : Nat := 0x4000A4
/-- R371 -/
def KEY_TREE : Nat := 0x4000A8
/-- R388 -/
def KEY_OUT : Nat := 0x401000
/-- R391 -/
def KEY_MSG : Nat := 0x402000
/-- R415 -/
def AUD_CLK : Nat := 0x440010
/-- R415 -/
def AUD_CSTAT : Nat := 0x440014
/-- R414 -/
def WCK_CFG : Nat := 0x440020
/-- R414 -/
def WCK_STAT : Nat := 0x440024
/-- R414 -/
def WCK_EVT : Nat := 0x440028
/-- R414 -/
def AIN_CFG : Nat := 0x441000
/-- R412 -/
def AIN_STAT : Nat := 0x441004
/-- R414 -/
def AIN_EVT : Nat := 0x441008
/-- R420 -/
def AOUT_CFG : Nat := 0x442000
/-- R420 -/
def AOUT_TONE : Nat := 0x442004
/-- R425 -/
def AOUT_UWP : Nat := 0x442008
/-- R425 -/
def AOUT_URP : Nat := 0x44200C
/-- R421 -/
def AOUT_STAT : Nat := 0x442010
/-- R420 -/
def AOUT_EVT : Nat := 0x442014
/-- R424; indirect space of slot 18 -/
def AUD_ICS : Nat := 0x130000000
/-- R424; indirect space of slot 18 -/
def AUD_ICRC : Nat := 0x130000018
/-- R424; indirect space of slot 18 -/
def AUD_IBELL : Nat := 0x13000001C
/-- R424; indirect space of slot 18 -/
def AUD_TPL : Nat := 0x130001000
/-- R425; indirect space of slot 18 -/
def AUD_UBUF : Nat := 0x130010000
/-- R398 -/
def TWN_CFG : Nat := 0x480010
/-- R394 -/
def TWN_VER : Nat := 0x480014
/-- R394 -/
def TWN_VAGREE : Nat := 0x480018
/-- R407, R410 -/
def TWN_CMD : Nat := 0x48001C
/-- R410 -/
def TWN_SWAP_BELL_LO : Nat := 0x480020
/-- R410 -/
def TWN_SWAP_BELL_HI : Nat := 0x480024
/-- R21 -/
def TWN_DRILL_AGE : Nat := 0x480028
/-- R396 -/
def TWN_ASYM : Nat := 0x48002C
/-- R397 -/
def TWN_AUNC : Nat := 0x480030
/-- R396 -/
def TWN_THETA_LO : Nat := 0x480034
/-- R396 -/
def TWN_THETA_HI : Nat := 0x480038
/-- R396 -/
def TWN_RTT : Nat := 0x48003C
/-- R397 -/
def TWN_RTW : Nat := 0x480040
/-- R406 -/
def TWN_SNAP_LO : Nat := 0x480044
/-- R406 -/
def TWN_SNAP_HI : Nat := 0x480048
/-- R405 -/
def TWN_SNAPSTAT : Nat := 0x48004C
/-- R399 -/
def TWN_HB : Nat := 0x480050
/-- R407 -/
def TWN_CAUSE : Nat := 0x480054
/-- R408 -/
def TWN_EVT : Nat := 0x480058
/-- R395 -/
def TWN_MSGERR : Nat := 0x48005C
/-- R363 -/
def HAL_OUT : Nat := 0x4C0010
/-- R367 -/
def HAL_BCUT : Nat := 0x4C0014
/-- R363, R366 -/
def HAL_M_CFG : Nat := 0x4C0100
/-- R363 -/
def HAL_M_ISSUED_LO : Nat := 0x4C0104
/-- R363 -/
def HAL_M_ISSUED_HI : Nat := 0x4C0108
/-- R363 -/
def HAL_M_RETURNED_LO : Nat := 0x4C010C
/-- R116, R117; indirect space of slot 21 -/
def BKD_NV : Nat := 0x160000000

def rowsGen : List Row := [
  ⟨GEN_BELLCNT_LO, [], [⟨31, 0, .ro, 0⟩]⟩,
  ⟨GEN_BELLCNT_HI, [], [⟨31, 0, .ro, 0⟩]⟩,
  ⟨GEN_BELL_CTRL, [], [⟨15, 8, .rw, 0⟩, ⟨1, 1, .rw, 0⟩, ⟨0, 0, .rw, 0⟩]⟩,
  ⟨GEN_BELL_STAT, [], [⟨31, 16, .rc, 0⟩, ⟨3, 3, .rc, 0⟩, ⟨2, 2, .rc, 0⟩, ⟨1, 1, .rc, 0⟩, ⟨0, 0, .rc, 0⟩]⟩,
  ⟨GEN_VER_OFFER, [], [⟨31, 16, .rw, 0x100⟩, ⟨15, 0, .rw, 0x100⟩]⟩,
  ⟨GEN_VER_AGREE, [], [⟨17, 17, .ro, 0⟩, ⟨16, 16, .ro, 0⟩, ⟨15, 0, .ro, 0x100⟩]⟩,
  ⟨GEN_VER_INFO, [], [⟨31, 16, .ro, 0⟩, ⟨15, 0, .ro, 0⟩]⟩,
  ⟨GEN_VER_RANGE, [], [⟨31, 16, .ro, 0x103⟩, ⟨15, 0, .ro, 0x100⟩]⟩,
  ⟨GEN_MODE, [], [⟨8, 8, .ro, 0⟩, ⟨6, 4, .ro, 0⟩, ⟨2, 0, .ro, 1⟩]⟩,
  ⟨GEN_IDENT, [], [⟨31, 16, .ro, 0x8816⟩, ⟨7, 0, .ro, 177⟩]⟩]

def rowsRst : List Row := [
  ⟨RST_CMD, [], [⟨31, 24, .wo, 0⟩, ⟨23, 16, .wo, 0⟩, ⟨15, 8, .wo, 0⟩, ⟨3, 0, .wo, 0⟩]⟩,
  ⟨RST_QTIMEOUT, [], [⟨16, 0, .rw, 0x3e8⟩]⟩,
  ⟨RST_LAST, [], [⟨31, 31, .ro, 0⟩, ⟨23, 16, .ro, 0⟩, ⟨15, 8, .ro, 0⟩, ⟨2, 0, .ro, 0⟩]⟩,
  ⟨RST_CNT, [(0x4, 8)], [⟨15, 0, .ro, 0⟩]⟩,
  ⟨RST_FORCED, [], [⟨15, 0, .ro, 0⟩]⟩,
  ⟨RST_ATTEMPT, [], [⟨31, 31, .ro, 0⟩, ⟨29, 24, .ro, 0⟩, ⟨23, 16, .ro, 0⟩, ⟨10, 8, .ro, 0⟩, ⟨2, 0, .ro, 0⟩]⟩,
  ⟨FALLBACK_REASON, [], [⟨15, 8, .ro, 0⟩, ⟨7, 0, .ro, 0⟩]⟩,
  ⟨RST_WDOG, [], [⟨31, 31, .rw, 0⟩, ⟨23, 16, .wo, 0⟩, ⟨15, 0, .rw, 0x3e8⟩]⟩,
  ⟨RST_BROWN, [], [⟨31, 16, .rc, 0⟩, ⟨0, 0, .ro, 0⟩]⟩,
  ⟨RST_VCORE, [], [⟨25, 16, .rc, 0⟩, ⟨9, 0, .ro, 0⟩]⟩,
  ⟨RST_FAILDOM, [], [⟨31, 0, .ro, 0⟩]⟩,
  ⟨RST_PINRST, [(0x4, 8)], [⟨31, 0, .ro, 0⟩]⟩]

def rowsFlt : List Row := [
  ⟨FLT_LEVEL, [], [⟨6, 0, .ro, 0⟩]⟩,
  ⟨FLT_ACK, [], [⟨31, 0, .wo, 0⟩]⟩,
  ⟨FLT_NEXTSEQ, [], [⟨31, 0, .ro, 1⟩]⟩,
  ⟨FLT_ENT, [(0x4, 8)], [⟨31, 0, .ro, 0⟩]⟩,
  ⟨FLT_LOST_LO, [], [⟨31, 0, .ro, 0⟩]⟩,
  ⟨FLT_LOST_HI, [], [⟨15, 0, .ro, 0⟩]⟩,
  ⟨FLT_LATCH, [], [⟨31, 0, .ro, 0⟩]⟩,
  ⟨FLT_SRC_SEL, [], [⟨15, 0, .rw, 0⟩]⟩,
  ⟨FLT_SRC_DATA, [(0x4, 8)], [⟨31, 0, .ro, 0⟩]⟩,
  ⟨FLT_SRC_DATA8, [], [⟨27, 24, .ro, 0⟩, ⟨18, 18, .ro, 0⟩, ⟨17, 17, .ro, 0⟩, ⟨16, 16, .ro, 0⟩, ⟨15, 0, .ro, 0⟩]⟩,
  ⟨FLT_INJ, [], [⟨31, 31, .wo, 0⟩, ⟨29, 28, .wo, 0⟩, ⟨15, 0, .wo, 0⟩]⟩,
  ⟨FLT_INJ_DETAIL, [], [⟨31, 0, .rw, 0⟩]⟩]

def rowsTal : List Row := [
  ⟨TAL_RING, [], [⟨31, 31, .rw, 0⟩, ⟨5, 0, .rw, 0⟩]⟩,
  ⟨TAL_DROP, [], [⟨31, 0, .rc, 0⟩]⟩,
  ⟨TAL_CMD, [], [⟨0, 0, .s, 0⟩]⟩,
  ⟨TAL_SNAP_BELL_LO, [], [⟨31, 0, .ro, 0⟩]⟩,
  ⟨TAL_SNAP_BELL_HI, [], [⟨31, 0, .ro, 0⟩]⟩,
  ⟨TAL_CNT_LO, [(0x8, 384)], [⟨31, 0, .ro, 0⟩]⟩,
  ⟨TAL_CNT_HI, [(0x8, 384)], [⟨31, 31, .ro, 0⟩, ⟨15, 0, .ro, 0⟩]⟩,
  ⟨TAL_SNAP_LO, [(0x8, 384)], [⟨31, 0, .ro, 0⟩]⟩,
  ⟨TAL_SNAP_HI, [(0x8, 384)], [⟨31, 31, .ro, 0⟩, ⟨15, 0, .ro, 0⟩]⟩,
  ⟨TAL_CFG, [(0x10, 384)], [⟨31, 31, .s, 0⟩, ⟨29, 28, .s, 0⟩, ⟨27, 16, .s, 0⟩, ⟨9, 8, .s, 0⟩, ⟨7, 0, .s, 0⟩]⟩,
  ⟨TAL_ALO, [(0x10, 384)], [⟨23, 0, .s, 0⟩]⟩,
  ⟨TAL_AHI, [(0x10, 384)], [⟨23, 0, .s, 0⟩]⟩]

def rowsCht : List Row := [
  ⟨CHT_CMD, [], [⟨15, 8, .wo, 0⟩, ⟨3, 0, .wo, 0⟩]⟩,
  ⟨CHT_ERR, [], [⟨31, 16, .ro, 0⟩, ⟨7, 0, .ro, 0⟩]⟩,
  ⟨CHT_ID_LO, [], [⟨31, 0, .ro, 0⟩]⟩,
  ⟨CHT_ID_HI, [], [⟨31, 0, .ro, 0⟩]⟩,
  ⟨CHT_DELTA_BELL_LO, [], [⟨31, 0, .rw, 0⟩]⟩,
  ⟨CHT_DELTA_BELL_HI, [], [⟨31, 0, .rw, 0⟩]⟩,
  ⟨CHT_LOAD_DATA, [], [⟨31, 0, .wo, 0⟩]⟩,
  ⟨CHT_LOAD_CNT, [], [⟨22, 0, .ro, 0⟩]⟩,
  ⟨CHT_BOOT, [], [⟨2, 2, .ro, 0⟩, ⟨1, 1, .ro, 0⟩, ⟨0, 0, .rw, 0⟩]⟩,
  ⟨CHT_INFO, [], [⟨31, 16, .ro, 0⟩, ⟨15, 8, .ro, 0⟩, ⟨7, 0, .ro, 0⟩]⟩,
  ⟨CHT_DIGEST, [(0x4, 12)], [⟨31, 0, .ro, 0⟩]⟩]

def rowsTsc : List Row := [
  ⟨TSC_OUTSEL, [], [⟨8, 8, .ro, 0⟩, ⟨0, 0, .s, 0⟩]⟩,
  ⟨TSC_AUDIT, [], [⟨9, 8, .ro, 0⟩, ⟨2, 2, .ro, 0⟩, ⟨1, 1, .ro, 0⟩, ⟨0, 0, .ro, 0⟩]⟩,
  ⟨TSC_LRING, [], [⟨31, 31, .rw, 0⟩, ⟨5, 0, .rw, 0⟩]⟩,
  ⟨TSC_LDROP, [], [⟨31, 0, .rc, 0⟩]⟩,
  ⟨TSC_FREE_LO, [], [⟨31, 0, .ro, 0⟩]⟩,
  ⟨TSC_FREE_HI, [], [⟨31, 0, .ro, 0⟩]⟩,
  ⟨TSC_AUD_SEC_LO, [], [⟨31, 0, .ro, 0⟩]⟩,
  ⟨TSC_AUD_SEC_HI, [], [⟨31, 0, .ro, 0⟩]⟩,
  ⟨TSC_AUD_NS, [], [⟨29, 0, .ro, 0⟩]⟩,
  ⟨TSC_CKPT, [], [⟨31, 16, .ro, 0⟩, ⟨7, 7, .ro, 0⟩, ⟨4, 0, .ro, 0⟩]⟩,
  ⟨TSC_LRD_SEL, [], [⟨12, 12, .rw, 0⟩, ⟨11, 0, .rw, 0⟩]⟩,
  ⟨TSC_LRD_DATA, [(0x4, 8)], [⟨31, 0, .ro, 0⟩]⟩,
  ⟨SC_CTRL, [(0x100, 2)], [⟨1, 1, .ro, 0⟩, ⟨0, 0, .s, 0⟩]⟩,
  ⟨SC_FADJ_LO, [(0x100, 2)], [⟨31, 0, .sc, 0⟩]⟩,
  ⟨SC_FADJ_HI, [(0x100, 2)], [⟨31, 0, .sg, 0⟩]⟩,
  ⟨SC_STEP_LO, [(0x100, 2)], [⟨31, 0, .sc, 0⟩]⟩,
  ⟨SC_STEP_HI, [(0x100, 2)], [⟨31, 0, .sg, 0⟩]⟩,
  ⟨SC_SET_SEC_LO, [(0x100, 2)], [⟨31, 0, .sc, 0⟩]⟩,
  ⟨SC_SET_SEC_HI, [(0x100, 2)], [⟨31, 0, .sc, 0⟩]⟩,
  ⟨SC_SET_NS, [(0x100, 2)], [⟨29, 0, .sg, 0⟩]⟩,
  ⟨SC_SET_FRAC, [(0x100, 2)], [⟨15, 0, .sc, 0⟩]⟩,
  ⟨SC_INC_LO, [(0x100, 2)], [⟨31, 0, .ro, 0⟩]⟩,
  ⟨SC_INC_HI, [(0x100, 2)], [⟨23, 0, .ro, 0x10000⟩]⟩,
  ⟨SC_NOW_SEC_LO, [(0x100, 2)], [⟨31, 0, .ro, 0⟩]⟩,
  ⟨SC_NOW_SEC_HI, [(0x100, 2)], [⟨31, 0, .ro, 0⟩]⟩,
  ⟨SC_NOW_NS, [(0x100, 2)], [⟨29, 0, .ro, 0⟩]⟩,
  ⟨SC_NOW_FRAC, [(0x100, 2)], [⟨31, 0, .ro, 0⟩]⟩,
  ⟨SC_NOW_T_LO, [(0x100, 2)], [⟨31, 0, .ro, 0⟩]⟩,
  ⟨SC_NOW_T_HI, [(0x100, 2)], [⟨31, 0, .ro, 0⟩]⟩,
  ⟨SC_SUM_LO, [(0x100, 2)], [⟨31, 0, .ro, 0⟩]⟩,
  ⟨SC_SUM_HI, [(0x100, 2)], [⟨31, 0, .ro, 0⟩]⟩,
  ⟨SC_LWP, [(0x100, 2)], [⟨31, 0, .ro, 0⟩]⟩,
  ⟨SC_ANC_SEC_LO, [(0x100, 2)], [⟨31, 0, .ro, 0⟩]⟩,
  ⟨SC_ANC_SEC_HI, [(0x100, 2)], [⟨31, 0, .ro, 0⟩]⟩,
  ⟨SC_ANC_NS, [(0x100, 2)], [⟨29, 0, .ro, 0⟩]⟩,
  ⟨SC_ANC_FRAC, [(0x100, 2)], [⟨15, 0, .ro, 0⟩]⟩]

def rowsScl : List Row := [
  ⟨SCL_COND, [], [⟨17, 17, .ro, 0⟩, ⟨16, 16, .ro, 0⟩, ⟨11, 8, .ro, 0⟩, ⟨3, 0, .ro, 0⟩]⟩,
  ⟨SCL_XCTRL, [], [⟨31, 31, .rw, 0⟩, ⟨30, 30, .rw, 0⟩, ⟨5, 0, .rw, 0⟩]⟩,
  ⟨SCL_XDROP, [], [⟨31, 0, .rc, 0⟩]⟩,
  ⟨SCL_STAMP_LO, [(0x8, 6)], [⟨31, 0, .ro, 0⟩]⟩,
  ⟨SCL_STAMP_HI, [(0x8, 6)], [⟨31, 0, .ro, 0⟩]⟩,
  ⟨SS_CTRL, [(0x100, 2)], [⟨8, 5, .s, 0⟩, ⟨4, 4, .s, 0⟩, ⟨1, 0, .s, 0⟩]⟩,
  ⟨SS_HSTAT, [(0x100, 2)], [⟨8, 8, .ro, 0⟩, ⟨7, 7, .ro, 0⟩, ⟨6, 6, .ro, 0⟩, ⟨5, 5, .ro, 0⟩, ⟨4, 4, .ro, 0⟩, ⟨3, 3, .ro, 0⟩, ⟨2, 2, .ro, 0⟩, ⟨1, 1, .ro, 0⟩, ⟨0, 0, .ro, 0⟩]⟩,
  ⟨SS_TOTAL_LO, [(0x100, 2)], [⟨31, 0, .ro, 0⟩]⟩,
  ⟨SS_TOTAL_HI, [(0x100, 2)], [⟨31, 0, .ro, 0⟩]⟩,
  ⟨SS_COMP, [(0x100, 2), (0x4, 14)], [⟨31, 0, .ro, 0⟩]⟩,
  ⟨SS_HOLD_LIMIT_LO, [(0x100, 2)], [⟨31, 0, .rw, 0xffffffff⟩]⟩,
  ⟨SS_HOLD_LIMIT_HI, [(0x100, 2)], [⟨31, 0, .rw, 0xffffffff⟩]⟩,
  ⟨SS_HOLD_MAXTIME, [(0x100, 2)], [⟨31, 0, .rw, 0xffffffff⟩]⟩,
  ⟨SS_HOLDTIME, [(0x100, 2)], [⟨31, 0, .ro, 0⟩]⟩,
  ⟨SS_ALARM_LO, [(0x100, 2)], [⟨31, 0, .rw, 0x3e80000⟩]⟩,
  ⟨SS_ALARM_HI, [(0x100, 2)], [⟨31, 0, .rw, 0⟩]⟩,
  ⟨SS_SETUNC_LO, [(0x100, 2)], [⟨31, 0, .rw, 0⟩]⟩,
  ⟨SS_SETUNC_HI, [(0x100, 2)], [⟨31, 0, .rw, 0⟩]⟩,
  ⟨SS_LEARN_TIME, [(0x100, 2)], [⟨31, 0, .ro, 0⟩]⟩,
  ⟨SS_MODEL, [(0x100, 2), (0x4, 12)], [⟨31, 0, .ro, 0⟩]⟩,
  ⟨SS_MODEL_N, [(0x100, 2)], [⟨31, 0, .ro, 0⟩]⟩,
  ⟨SS_MODEL_T0, [(0x100, 2)], [⟨31, 0, .ro, 0⟩]⟩]

def rowsRef : List Row := [
  ⟨REF_DTOL, [], [⟨31, 0, .s, 0x225c1⟩]⟩,
  ⟨REF_QUAL, [], [⟨31, 0, .ro, 0x80000000⟩]⟩,
  ⟨REF_PRES, [], [⟨31, 0, .ro, 0x80000000⟩]⟩,
  ⟨REF_LOSS, [], [⟨31, 0, .rc, 0⟩]⟩,
  ⟨REF_LOCKOUT, [], [⟨31, 0, .rw, 0⟩]⟩,
  ⟨REF_CFG, [(0x40, 10)], [⟨27, 16, .s, 10⟩, ⟨14, 12, .s, 7⟩, ⟨9, 9, .s, 0⟩, ⟨8, 8, .s, 0⟩, ⟨7, 7, .s, 0⟩, ⟨3, 0, .s, 0⟩]⟩,
  ⟨REF_CFG_10, [(0x40, 6)], [⟨27, 16, .s, 10⟩, ⟨14, 12, .s, 7⟩, ⟨9, 9, .s, 0⟩, ⟨8, 8, .s, 0⟩, ⟨7, 7, .s, 0⟩, ⟨3, 0, .ro, 5⟩]⟩,
  ⟨REF_CFG_16, [(0x40, 8)], [⟨27, 16, .s, 10⟩, ⟨14, 12, .s, 7⟩, ⟨9, 9, .s, 0⟩, ⟨8, 8, .s, 0⟩, ⟨7, 7, .s, 0⟩, ⟨3, 0, .ro, 6⟩]⟩,
  ⟨REF_CFG_24, [(0x40, 4)], [⟨27, 16, .s, 10⟩, ⟨14, 12, .s, 7⟩, ⟨9, 9, .s, 0⟩, ⟨8, 8, .s, 0⟩, ⟨7, 7, .s, 0⟩, ⟨3, 0, .ro, 7⟩]⟩,
  ⟨REF_CFG_28, [(0x40, 2)], [⟨27, 16, .s, 10⟩, ⟨14, 12, .s, 7⟩, ⟨9, 9, .s, 0⟩, ⟨8, 8, .s, 0⟩, ⟨7, 7, .s, 0⟩, ⟨3, 0, .ro, 8⟩]⟩,
  ⟨REF_CFG_30, [], [⟨27, 16, .s, 10⟩, ⟨14, 12, .s, 7⟩, ⟨9, 9, .s, 0⟩, ⟨8, 8, .s, 0⟩, ⟨7, 7, .s, 0⟩, ⟨3, 0, .ro, 9⟩]⟩,
  ⟨REF_CFG_31, [], [⟨27, 16, .s, 10⟩, ⟨14, 12, .s, 7⟩, ⟨9, 9, .s, 0⟩, ⟨8, 8, .s, 0⟩, ⟨7, 7, .s, 0⟩, ⟨3, 0, .ro, 10⟩]⟩,
  ⟨REF_FNUM, [(0x40, 32)], [⟨31, 0, .s, 0⟩]⟩,
  ⟨REF_FDEN, [(0x40, 32)], [⟨15, 0, .s, 1⟩]⟩,
  ⟨REF_FTOL, [(0x40, 32)], [⟨31, 0, .s, 0x40000000⟩]⟩,
  ⟨REF_UNC, [(0x40, 32)], [⟨31, 0, .s, 0x3e80000⟩]⟩,
  ⟨REF_FUNC, [(0x40, 32)], [⟨31, 0, .s, 0x10000⟩]⟩,
  ⟨REF_CDLY, [(0x40, 32)], [⟨31, 0, .s, 0⟩]⟩,
  ⟨REF_CUNC, [(0x40, 32)], [⟨31, 0, .s, 0⟩]⟩,
  ⟨REF_STAT, [(0x40, 32)], [⟨31, 20, .ro, 0⟩, ⟨15, 12, .ro, 0⟩, ⟨1, 0, .ro, 0⟩]⟩,
  ⟨REF_UD, [(0x40, 32)], [⟨31, 0, .ro, 0⟩]⟩,
  ⟨REF_PHASE_LO, [(0x40, 32)], [⟨31, 0, .ro, 0⟩]⟩,
  ⟨REF_PHASE_HI, [(0x40, 32)], [⟨31, 0, .ro, 0⟩]⟩,
  ⟨REF_FREQ_LO, [(0x40, 32)], [⟨31, 0, .ro, 0⟩]⟩,
  ⟨REF_FREQ_HI, [(0x40, 32)], [⟨31, 0, .ro, 0⟩]⟩,
  ⟨REF_EVT, [(0x40, 32)], [⟨31, 16, .rc, 0⟩, ⟨15, 0, .rc, 0⟩]⟩,
  ⟨SEL_CTRL, [(0x20, 32)], [⟨23, 16, .s, 0⟩, ⟨12, 8, .s, 0⟩, ⟨0, 0, .s, 0⟩]⟩,
  ⟨SEL_STAT, [(0x20, 32)], [⟨29, 29, .ro, 0⟩, ⟨28, 24, .ro, 0⟩, ⟨21, 21, .ro, 0⟩, ⟨20, 16, .ro, 0⟩, ⟨5, 4, .ro, 0⟩, ⟨3, 3, .ro, 0⟩, ⟨2, 2, .ro, 0⟩, ⟨1, 1, .ro, 0⟩, ⟨0, 0, .ro, 0⟩]⟩,
  ⟨SEL_DISP, [(0x20, 32)], [⟨31, 0, .ro, 0⟩]⟩,
  ⟨SEL_DCLR, [(0x20, 32)], [⟨31, 0, .wo, 0⟩]⟩,
  ⟨SEL_VIEW, [(0x20, 32)], [⟨31, 0, .ro, 0⟩]⟩,
  ⟨SEL_PAIR, [(0x20, 32)], [⟨31, 31, .ro, 0⟩, ⟨12, 8, .ro, 0⟩, ⟨4, 0, .ro, 0⟩]⟩,
  ⟨SEL_CNT, [(0x20, 32)], [⟨31, 16, .rc, 0⟩, ⟨15, 0, .rc, 0⟩]⟩]

def rowsStl : List Row := [
  ⟨SL_LOOP, [(0x800, 32)], [⟨24, 24, .ro, 0⟩, ⟨21, 16, .s, 35⟩, ⟨13, 8, .s, 7⟩, ⟨4, 0, .s, 8⟩]⟩,
  ⟨SL_SRC, [(0x800, 32)], [⟨12, 8, .x, 31⟩, ⟨1, 0, .x, 0⟩]⟩,
  ⟨SL_HOLD, [(0x800, 32)], [⟨17, 16, .s, 0⟩, ⟨11, 8, .s, 2⟩, ⟨3, 0, .s, 6⟩]⟩,
  ⟨SL_LOCKTH, [(0x800, 32)], [⟨31, 0, .s, 0x10000⟩]⟩,
  ⟨SL_FREE_LO, [(0x800, 32)], [⟨31, 0, .sc, 0⟩]⟩,
  ⟨SL_FREE_HI, [(0x800, 32)], [⟨31, 0, .sg, 0⟩]⟩,
  ⟨SL_E_LO, [(0x800, 32)], [⟨31, 0, .ro, 0⟩]⟩,
  ⟨SL_E_HI, [(0x800, 32)], [⟨31, 0, .ro, 0⟩]⟩,
  ⟨SL_Y_LO, [(0x800, 32)], [⟨31, 0, .ro, 0⟩]⟩,
  ⟨SL_Y_HI, [(0x800, 32)], [⟨31, 0, .ro, 0⟩]⟩,
  ⟨SL_HFREQ_LO, [(0x800, 32)], [⟨31, 0, .ro, 0⟩]⟩,
  ⟨SL_HFREQ_HI, [(0x800, 32)], [⟨31, 0, .ro, 0⟩]⟩,
  ⟨SL_UPD, [(0x800, 32)], [⟨4, 0, .ro, 0⟩]⟩,
  ⟨SL_FU, [(0x800, 32)], [⟨31, 0, .ro, 0⟩]⟩,
  ⟨SL_EVT, [(0x800, 32)], [⟨31, 16, .rc, 0⟩, ⟨15, 0, .rc, 0⟩]⟩]

def rowsApl : List Row := [
  ⟨AP_CFG, [(0x100, 4)], [⟨12, 12, .x, 0⟩, ⟨9, 8, .x, 1⟩, ⟨5, 5, .x, 0⟩, ⟨4, 4, .x, 0⟩, ⟨3, 0, .x, 0⟩]⟩,
  ⟨AP_NINT, [(0x100, 4)], [⟨11, 0, .x, 0⟩]⟩,
  ⟨AP_NFRAC_LO, [(0x100, 4)], [⟨31, 0, .x, 0⟩]⟩,
  ⟨AP_NFRAC_HI, [(0x100, 4)], [⟨15, 0, .x, 0⟩]⟩,
  ⟨AP_POFS, [(0x100, 4)], [⟨31, 0, .s, 0⟩]⟩,
  ⟨AP_SLEW, [(0x100, 4)], [⟨23, 0, .rw, 0x3e8⟩]⟩,
  ⟨AP_STAT, [(0x100, 4)], [⟨31, 16, .ro, 0⟩, ⟨6, 6, .ro, 0⟩, ⟨5, 5, .ro, 0⟩, ⟨4, 4, .ro, 0⟩, ⟨3, 3, .ro, 0⟩, ⟨2, 2, .ro, 0⟩, ⟨1, 1, .ro, 0⟩, ⟨0, 0, .ro, 0⟩]⟩,
  ⟨AP_PREM_LO, [(0x100, 4)], [⟨31, 0, .ro, 0⟩]⟩,
  ⟨AP_PREM_HI, [(0x100, 4)], [⟨31, 0, .ro, 0⟩]⟩,
  ⟨AP_WORD_LO, [(0x100, 4)], [⟨31, 0, .ro, 0⟩]⟩,
  ⟨AP_WORD_HI, [(0x100, 4)], [⟨27, 0, .ro, 0⟩]⟩,
  ⟨AP_EVT, [(0x100, 4)], [⟨31, 16, .rc, 0⟩, ⟨15, 0, .rc, 0⟩]⟩,
  ⟨OUT_CFG, [(0x20, 24)], [⟨28, 28, .x, 0⟩, ⟨26, 24, .x, 0⟩, ⟨23, 0, .x, 0⟩]⟩,
  ⟨OUT_SKEW, [(0x20, 24)], [⟨5, 0, .x, 0⟩]⟩,
  ⟨OUT_MUTE, [(0x20, 24)], [⟨0, 0, .s, 0⟩]⟩,
  ⟨OUT_STAT, [(0x20, 24)], [⟨3, 1, .ro, 0⟩, ⟨0, 0, .ro, 0⟩]⟩]

def rowsOut : List Row := [
  ⟨OUT_CAPRING, [], [⟨31, 31, .rw, 0⟩, ⟨5, 0, .rw, 0⟩]⟩,
  ⟨OUT_CAPDROP, [], [⟨31, 0, .rc, 0⟩]⟩,
  ⟨PL_CFG, [(0x40, 8)], [⟨2, 2, .s, 0⟩, ⟨1, 1, .s, 0⟩, ⟨0, 0, .s, 0⟩]⟩,
  ⟨PL_PNUM, [(0x40, 8)], [⟨31, 0, .s, 1⟩]⟩,
  ⟨PL_PDEN, [(0x40, 8)], [⟨31, 0, .s, 1⟩]⟩,
  ⟨PL_OFS_LO, [(0x40, 8)], [⟨31, 0, .sc, 0⟩]⟩,
  ⟨PL_OFS_HI, [(0x40, 8)], [⟨31, 0, .sg, 0⟩]⟩,
  ⟨PL_WIDTH, [(0x40, 8)], [⟨31, 0, .s, 0x5f5e100⟩]⟩,
  ⟨PL_STAT, [(0x40, 8)], [⟨4, 4, .ro, 0⟩, ⟨3, 3, .ro, 0⟩, ⟨2, 2, .ro, 0⟩, ⟨1, 1, .ro, 0⟩, ⟨0, 0, .ro, 0⟩]⟩,
  ⟨PL_EVT, [(0x40, 8)], [⟨31, 16, .rc, 0⟩, ⟨15, 0, .rc, 0⟩]⟩,
  ⟨PL_NEXT_SEC_LO, [(0x40, 8)], [⟨31, 0, .ro, 0⟩]⟩,
  ⟨PL_NEXT_SEC_HI, [(0x40, 8)], [⟨31, 0, .ro, 0⟩]⟩,
  ⟨PL_NEXT_NS, [(0x40, 8)], [⟨29, 0, .ro, 0⟩]⟩,
  ⟨GR_CFG, [(0x80, 8)], [⟨31, 16, .s, 0x4e20⟩, ⟨15, 0, .s, 1⟩]⟩,
  ⟨GR_PNUM, [(0x80, 8)], [⟨31, 0, .s, 1⟩]⟩,
  ⟨GR_PDEN, [(0x80, 8)], [⟨31, 0, .s, 50⟩]⟩,
  ⟨GR_DIV, [(0x80, 8)], [⟨23, 0, .s, 1⟩]⟩,
  ⟨GR_CNT_LO, [(0x80, 8)], [⟨31, 0, .ro, 0⟩]⟩,
  ⟨GR_CNT_HI, [(0x80, 8)], [⟨31, 0, .ro, 0⟩]⟩,
  ⟨GR_BND_SEC_LO, [(0x80, 8)], [⟨31, 0, .ro, 0⟩]⟩,
  ⟨GR_BND_SEC_HI, [(0x80, 8)], [⟨31, 0, .ro, 0⟩]⟩,
  ⟨GR_BND_NS, [(0x80, 8)], [⟨29, 0, .ro, 0⟩]⟩,
  ⟨GR_BND_FRAC, [(0x80, 8)], [⟨15, 0, .ro, 0⟩]⟩,
  ⟨GR_PER_LO, [(0x80, 8)], [⟨31, 0, .ro, 0⟩]⟩,
  ⟨GR_PER_HI, [(0x80, 8)], [⟨31, 0, .ro, 0⟩]⟩,
  ⟨GR_STAT, [(0x80, 8)], [⟨3, 3, .ro, 0⟩, ⟨2, 2, .ro, 0⟩, ⟨1, 1, .ro, 0⟩, ⟨0, 0, .ro, 0⟩]⟩,
  ⟨GR_EVT, [(0x80, 8)], [⟨31, 16, .rc, 0⟩, ⟨15, 0, .rc, 0⟩]⟩,
  ⟨GR_SKIP, [(0x80, 8)], [⟨31, 0, .rc, 0⟩]⟩,
  ⟨TR_CFG, [(0x80, 16)], [⟨6, 6, .s, 0⟩, ⟨5, 4, .s, 0⟩, ⟨1, 1, .s, 0⟩, ⟨0, 0, .s, 0⟩]⟩,
  ⟨TR_EVERY, [(0x80, 16)], [⟨31, 0, .s, 1⟩]⟩,
  ⟨TR_PHASE, [(0x80, 16)], [⟨31, 0, .s, 0⟩]⟩,
  ⟨TR_OFS_LO, [(0x80, 16)], [⟨31, 0, .sc, 0⟩]⟩,
  ⟨TR_OFS_HI, [(0x80, 16)], [⟨31, 0, .sg, 0⟩]⟩,
  ⟨TR_WIDTH, [(0x80, 16)], [⟨31, 0, .s, 0x3e8⟩]⟩,
  ⟨TR_CNT_LO, [(0x80, 16)], [⟨31, 0, .rw, 0⟩]⟩,
  ⟨TR_CNT_HI, [(0x80, 16)], [⟨31, 0, .rw, 0⟩]⟩,
  ⟨TR_STAT, [(0x80, 16)], [⟨12, 8, .ro, 0⟩, ⟨0, 0, .ro, 0⟩]⟩,
  ⟨TR_EVT, [(0x80, 16)], [⟨31, 16, .rc, 0⟩, ⟨15, 0, .rc, 0⟩]⟩,
  ⟨TR_CAP, [(0x80, 16), (0x4, 8)], [⟨31, 0, .ro, 0⟩]⟩]

def rowsTdc : List Row := [
  ⟨TDC_WINDOW, [], [⟨13, 0, .x, 0x3e8⟩]⟩,
  ⟨TDC_RING, [], [⟨31, 31, .rw, 0⟩, ⟨5, 0, .rw, 0⟩]⟩,
  ⟨TDC_DROP, [], [⟨31, 0, .rc, 0⟩]⟩,
  ⟨TDC_CALSTAT, [], [⟨23, 16, .ro, 0⟩, ⟨9, 9, .ro, 0⟩, ⟨8, 8, .ro, 0⟩, ⟨7, 4, .ro, 0⟩, ⟨3, 0, .ro, 0⟩]⟩,
  ⟨TDC_RES, [(0x4, 8)], [⟨31, 0, .ro, 0⟩]⟩,
  ⟨TDC_CFG, [(0x10, 8)], [⟨31, 31, .s, 0⟩, ⟨29, 28, .s, 0⟩, ⟨12, 0, .s, 0⟩]⟩,
  ⟨TDC_EVT, [(0x10, 8)], [⟨31, 16, .rc, 0⟩, ⟨15, 0, .rc, 0⟩]⟩,
  ⟨TDC_CALAGE, [(0x10, 8)], [⟨31, 0, .ro, 0⟩]⟩,
  ⟨TDC_INTP, [(0x10, 8)], [⟨3, 0, .ro, 0⟩]⟩]

def indRowsTdc : List Row := [
  ⟨TDC_TABLE, [(0x2000, 9), (0x4, 2048)], [⟨20, 0, .ro, 0⟩]⟩]

def rowsGns : List Row := [
  ⟨GN_RINGS, [], [⟨31, 31, .rw, 0⟩, ⟨30, 30, .rw, 0⟩, ⟨29, 29, .rw, 0⟩, ⟨21, 16, .rw, 0⟩, ⟨13, 8, .rw, 0⟩, ⟨5, 0, .rw, 0⟩]⟩,
  ⟨GN_JN, [], [⟨25, 16, .ro, 0⟩, ⟨9, 0, .ro, 0⟩]⟩,
  ⟨GN_SOLSTAT, [], [⟨27, 24, .ro, 0⟩, ⟨19, 16, .ro, 0⟩, ⟨11, 8, .ro, 0⟩, ⟨3, 0, .ro, 0⟩]⟩,
  ⟨GN_NAVDROP, [], [⟨31, 0, .rc, 0⟩]⟩,
  ⟨GN_SOLDROP, [], [⟨31, 0, .rc, 0⟩]⟩]

def indRowsGns_1 : List Row := [
  ⟨GN_BAND_CFG, [(0x20, 2)], [⟨31, 31, .x, 0⟩, ⟨30, 30, .x, 0⟩, ⟨29, 28, .x, 0⟩, ⟨27, 27, .x, 0⟩, ⟨26, 26, .x, 0⟩]⟩,
  ⟨GN_LO, [(0x20, 2)], [⟨31, 0, .x, 0⟩]⟩,
  ⟨GN_ANTDLY, [(0x20, 2)], [⟨31, 0, .s, 0⟩]⟩,
  ⟨GN_ANTUNC, [(0x20, 2)], [⟨31, 0, .s, 0⟩]⟩,
  ⟨GN_RXDLY, [(0x20, 2)], [⟨31, 0, .s, 0⟩]⟩,
  ⟨GN_RXUNC, [(0x20, 2)], [⟨31, 0, .s, 0⟩]⟩,
  ⟨GN_JNCFG, [(0x20, 2)], [⟨31, 31, .wo, 0⟩, ⟨25, 16, .s, 0x190⟩, ⟨9, 0, .s, 200⟩]⟩,
  ⟨GN_JNSTAT, [(0x20, 2)], [⟨31, 31, .ro, 0⟩, ⟨30, 30, .ro, 0⟩, ⟨25, 16, .ro, 0⟩, ⟨9, 0, .ro, 0⟩]⟩,
  ⟨GN_SIGEN, [], [⟨7, 0, .s, 255⟩]⟩,
  ⟨GN_SIGSTAT, [], [⟨7, 0, .ro, 0⟩]⟩,
  ⟨GN_ELMASK, [], [⟨6, 0, .s, 10⟩]⟩,
  ⟨GN_EPOCH, [], [⟨1, 0, .s, 0⟩]⟩,
  ⟨GN_POSCFG, [], [⟨31, 8, .s, 0x5460⟩, ⟨1, 0, .s, 0⟩]⟩,
  ⟨GN_POS, [(0x4, 5)], [⟨31, 0, .sc, 0⟩]⟩,
  ⟨GN_POS_Z_HI, [], [⟨31, 0, .sg, 0⟩]⟩,
  ⟨GN_POSUNC, [], [⟨31, 0, .s, 0⟩]⟩,
  ⟨GN_LEAP, [], [⟨31, 31, .ro, 0⟩, ⟨30, 29, .ro, 0⟩, ⟨15, 0, .rw, 0⟩]⟩,
  ⟨GN_FSCFG, [], [⟨31, 16, .s, 30⟩, ⟨15, 0, .s, 0x12c⟩]⟩,
  ⟨GN_FSSTAT, [], [⟨12, 8, .ro, 0⟩, ⟨3, 0, .ro, 0⟩]⟩,
  ⟨GN_WEEKBASE, [], [⟨31, 0, .ro, 0⟩]⟩,
  ⟨GN_ISB_EST, [(0x10, 3)], [⟨31, 0, .ro, 0⟩]⟩,
  ⟨GN_ISB_BC, [(0x10, 3)], [⟨31, 0, .ro, 0⟩]⟩,
  ⟨GN_ISB_BUNC, [(0x10, 3)], [⟨31, 0, .s, 0x140000⟩]⟩,
  ⟨GN_ISB_STAT, [(0x10, 3)], [⟨2, 2, .ro, 0⟩, ⟨1, 1, .ro, 0⟩, ⟨0, 0, .ro, 0⟩]⟩,
  ⟨GN_NOTCHUNC, [], [⟨31, 0, .s, 0x3e8⟩]⟩,
  ⟨GN_UNCMAX, [], [⟨31, 0, .s, 0x640000⟩]⟩,
  ⟨GN_SIGBIAS, [(0x8, 8)], [⟨31, 0, .s, 0⟩]⟩,
  ⟨GN_SIGUNC, [(0x8, 8)], [⟨31, 0, .s, 0⟩]⟩,
  ⟨CH_CFG, [(0x40, 160)], [⟨31, 31, .s, 0⟩, ⟨26, 24, .s, 0⟩, ⟨21, 16, .s, 0⟩, ⟨15, 12, .s, 8⟩, ⟨11, 8, .s, 0⟩]⟩,
  ⟨CH_STAT, [(0x40, 160)], [⟨31, 24, .ro, 0⟩, ⟨21, 16, .ro, 0⟩, ⟨10, 8, .ro, 0⟩, ⟨5, 5, .ro, 0⟩, ⟨4, 4, .ro, 0⟩, ⟨3, 3, .ro, 0⟩, ⟨2, 0, .ro, 0⟩]⟩,
  ⟨CH_DOP, [(0x40, 160)], [⟨31, 0, .ro, 0⟩]⟩,
  ⟨CH_EVT, [(0x40, 160)], [⟨15, 0, .rc, 0⟩]⟩,
  ⟨SOL_CFG0, [], [⟨31, 31, .s, 0⟩, ⟨30, 30, .s, 1⟩, ⟨27, 24, .s, 15⟩, ⟨23, 16, .s, 30⟩, ⟨15, 12, .s, 3⟩, ⟨11, 8, .s, 4⟩]⟩,
  ⟨SOL_CFG1, [], [⟨31, 31, .s, 0⟩, ⟨30, 30, .s, 1⟩, ⟨27, 24, .s, 6⟩, ⟨23, 16, .s, 30⟩, ⟨15, 12, .s, 3⟩, ⟨11, 8, .s, 4⟩]⟩,
  ⟨SOL_CFG2, [], [⟨31, 31, .s, 0⟩, ⟨30, 30, .ro, 0⟩, ⟨27, 24, .s, 15⟩, ⟨23, 16, .s, 30⟩, ⟨15, 12, .s, 3⟩, ⟨11, 8, .s, 4⟩]⟩,
  ⟨SOL_CFG3, [], [⟨31, 31, .s, 0⟩, ⟨30, 30, .ro, 1⟩, ⟨27, 24, .ro, 1⟩, ⟨23, 16, .ro, 50⟩, ⟨15, 12, .ro, 3⟩, ⟨11, 8, .ro, 4⟩]⟩,
  ⟨SOL_STAT, [(0x100, 4)], [⟨31, 24, .ro, 0⟩, ⟨23, 16, .ro, 0⟩, ⟨15, 8, .ro, 0⟩, ⟨3, 3, .ro, 0⟩, ⟨2, 0, .ro, 0⟩]⟩,
  ⟨SOL_DELTA_LO, [(0x100, 4)], [⟨31, 0, .ro, 0⟩]⟩,
  ⟨SOL_DELTA_HI, [(0x100, 4)], [⟨31, 0, .ro, 0⟩]⟩,
  ⟨SOL_RATE_LO, [(0x100, 4)], [⟨31, 0, .ro, 0⟩]⟩]

def indRowsGns_2 : List Row := [
  ⟨SOL_RATE_HI, [(0x100, 4)], [⟨31, 0, .ro, 0⟩]⟩,
  ⟨SOL_UNC, [(0x100, 4)], [⟨31, 0, .ro, 0⟩]⟩,
  ⟨SOL_PATHUNC, [(0x100, 4)], [⟨31, 0, .ro, 0⟩]⟩,
  ⟨SOL_WCAUSE, [(0x100, 4)], [⟨7, 0, .ro, 0⟩]⟩,
  ⟨SOL_EVT, [(0x100, 4)], [⟨31, 24, .rc, 0⟩, ⟨23, 12, .rc, 0⟩, ⟨11, 0, .rc, 0⟩]⟩,
  ⟨NT_CFG, [(0x40, 2), (0x10, 4)], [⟨15, 8, .s, 12⟩, ⟨5, 4, .s, 1⟩, ⟨1, 0, .s, 2⟩]⟩,
  ⟨NT_FREQ, [(0x40, 2), (0x10, 4)], [⟨31, 0, .s, 0⟩]⟩,
  ⟨NT_STAT, [(0x40, 2), (0x10, 4)], [⟨31, 8, .ro, 0⟩, ⟨1, 1, .ro, 0⟩, ⟨0, 0, .ro, 0⟩]⟩,
  ⟨SLOT_CFG, [(0x10, 8)], [⟨31, 31, .s, 0⟩, ⟨26, 24, .s, 0⟩, ⟨21, 16, .s, 0⟩, ⟨3, 0, .s, 0⟩]⟩,
  ⟨SLOT_STAT, [(0x10, 8)], [⟨21, 16, .ro, 0⟩, ⟨15, 0, .ro, 0⟩]⟩]

def indRowsGns : List Row := indRowsGns_1 ++ indRowsGns_2

def rowsMac : List Row := [
  ⟨MAC_PCS, [(0x10000, 6)], [⟨19, 16, .ro, 0⟩, ⟨10, 8, .ro, 0⟩, ⟨5, 5, .x, 0⟩, ⟨4, 4, .x, 0⟩]⟩,
  ⟨MAC_MAXLEN, [(0x10000, 6)], [⟨13, 0, .x, 0x5f2⟩]⟩,
  ⟨MAC_ADDR_LO, [(0x10000, 6)], [⟨31, 0, .rw, 0⟩]⟩,
  ⟨MAC_ADDR_HI, [(0x10000, 6)], [⟨15, 0, .rw, 0⟩]⟩,
  ⟨MAC_RXCFG, [(0x10000, 6)], [⟨9, 9, .rw, 1⟩, ⟨8, 8, .rw, 0⟩, ⟨2, 0, .rw, 0⟩]⟩,
  ⟨MAC_PCPMAP, [(0x10000, 6)], [⟨23, 0, .rw, 0xfac688⟩]⟩,
  ⟨MAC_TXCFG, [(0x10000, 6)], [⟨8, 8, .rw, 1⟩, ⟨2, 0, .rw, 7⟩]⟩,
  ⟨MAC_LHORIZ, [(0x10000, 6)], [⟨19, 0, .rw, 0x186a0⟩]⟩,
  ⟨MAC_FC, [(0x10000, 6)], [⟨31, 16, .rw, 0xffff⟩, ⟨5, 5, .rw, 0⟩, ⟨4, 4, .rw, 0⟩, ⟨1, 0, .x, 0⟩]⟩,
  ⟨MAC_FCTH, [(0x10000, 6)], [⟨31, 16, .rw, 128⟩, ⟨15, 0, .rw, 0x100⟩]⟩,
  ⟨MAC_FCSTAT, [(0x10000, 6)], [⟨15, 8, .ro, 0⟩, ⟨7, 0, .ro, 0⟩]⟩,
  ⟨MAC_SYNCE, [(0x10000, 6)], [⟨8, 8, .ro, 0⟩, ⟨2, 0, .rw, 0⟩]⟩,
  ⟨MAC_GCL_CTRL, [(0x10000, 6)], [⟨25, 16, .rw, 0⟩, ⟨0, 0, .rw, 0⟩]⟩,
  ⟨MAC_GCL_BSEC_LO, [(0x10000, 6)], [⟨31, 0, .rw, 0⟩]⟩,
  ⟨MAC_GCL_BSEC_HI, [(0x10000, 6)], [⟨31, 0, .rw, 0⟩]⟩,
  ⟨MAC_GCL_BNS, [(0x10000, 6)], [⟨29, 0, .rw, 0⟩]⟩,
  ⟨MAC_GCL_CNUM, [(0x10000, 6)], [⟨31, 0, .rw, 1⟩]⟩,
  ⟨MAC_GCL_CDEN, [(0x10000, 6)], [⟨31, 0, .rw, 0x3e8⟩]⟩,
  ⟨MAC_GCL_COMMIT, [(0x10000, 6)], [⟨0, 0, .s, 0⟩]⟩,
  ⟨MAC_GCL_OPER, [(0x10000, 6)], [⟨31, 31, .rc, 0⟩, ⟨25, 16, .ro, 0⟩, ⟨0, 0, .ro, 0⟩]⟩,
  ⟨MAC_GCL_CUR, [(0x10000, 6)], [⟨23, 16, .ro, 0⟩, ⟨8, 0, .ro, 0⟩]⟩,
  ⟨MAC_LQ, [(0x10000, 6)], [⟨12, 0, .ro, 0⟩]⟩,
  ⟨MAC_FLT, [(0x10000, 6)], [⟨16, 16, .ro, 0⟩, ⟨15, 8, .ro, 0⟩, ⟨3, 0, .ro, 0⟩]⟩,
  ⟨MAC_PRP, [(0x10000, 6)], [⟨31, 16, .ro, 0⟩, ⟨15, 0, .x, 0x190⟩]⟩,
  ⟨MAC_CNT, [(0x10000, 6), (0x4, 21)], [⟨31, 0, .rc, 0⟩]⟩,
  ⟨GCL_GATES, [(0x10000, 6), (0x8, 512)], [⟨7, 0, .rw, 0⟩]⟩,
  ⟨GCL_INT, [(0x10000, 6), (0x8, 512)], [⟨29, 0, .rw, 0⟩]⟩,
  ⟨GCL_OGATES, [(0x10000, 6), (0x8, 512)], [⟨7, 0, .ro, 0⟩]⟩,
  ⟨GCL_OINT, [(0x10000, 6), (0x8, 512)], [⟨29, 0, .ro, 0⟩]⟩]

def rowsTol : List Row := [
  ⟨TOL_LOFS, [], [⟨14, 0, .rw, 0xfa0⟩]⟩,
  ⟨TOL_EPOCHLEN, [], [⟨23, 0, .s, 0xe10⟩]⟩,
  ⟨TOL_EPOCH, [], [⟨31, 0, .ro, 0⟩]⟩,
  ⟨TOL_EPOCHAGE, [], [⟨31, 0, .ro, 0⟩]⟩,
  ⟨TOL_CMD, [], [⟨0, 0, .wo, 0⟩]⟩,
  ⟨TOL_QMAX, [], [⟨9, 0, .rw, 50⟩]⟩,
  ⟨TOL_XEF, [], [⟨15, 0, .rw, 0xf4a7⟩]⟩,
  ⟨TOL_MINT, [], [⟨31, 31, .rw, 0⟩, ⟨21, 16, .rw, 0⟩, ⟨5, 0, .rw, 0⟩]⟩,
  ⟨TOL_CACHE, [], [⟨9, 9, .ro, 0⟩, ⟨8, 8, .ro, 0⟩, ⟨3, 0, .ro, 0⟩]⟩,
  ⟨TOL_MINTCNT, [], [⟨31, 16, .rc, 0⟩, ⟨15, 0, .rc, 0⟩]⟩,
  ⟨TOL_MINTDROP, [], [⟨31, 0, .rc, 0⟩]⟩,
  ⟨TOL_XNONE, [], [⟨31, 0, .rc, 0⟩]⟩,
  ⟨TOL_REF, [(0x4, 7)], [⟨31, 0, .rc, 0⟩]⟩,
  ⟨TOL_CNT, [(0x40, 2), (0x4, 12)], [⟨31, 0, .ro, 0⟩]⟩,
  ⟨TOL_IP_ADDR, [(0x20, 16), (0x4, 4)], [⟨31, 0, .rw, 0⟩]⟩,
  ⟨TOL_IP_CFG, [(0x20, 16)], [⟨31, 31, .rw, 0⟩, ⟨21, 16, .rw, 0⟩, ⟨9, 9, .rw, 0⟩, ⟨8, 8, .rw, 0⟩]⟩]

def rowsPtp : List Row := [
  ⟨PT_LOFS, [], [⟨14, 0, .rw, 0xfa0⟩]⟩,
  ⟨PT_RATEMAX, [], [⟨31, 0, .rw, 0xb71b00⟩]⟩,
  ⟨PT_GRANTS, [], [⟨16, 0, .ro, 0⟩]⟩,
  ⟨PT_GMAXDUR, [], [⟨9, 0, .rw, 0x12c⟩]⟩,
  ⟨PT_UTC, [], [⟨31, 31, .rw, 0⟩, ⟨15, 0, .rw, 0⟩]⟩,
  ⟨PT_EVRING, [], [⟨31, 31, .rw, 0⟩, ⟨5, 0, .rw, 0⟩]⟩,
  ⟨PT_EVDROP, [], [⟨31, 0, .rc, 0⟩]⟩,
  ⟨PT_AUTH, [], [⟨15, 8, .rw, 0⟩, ⟨7, 0, .rw, 0⟩]⟩,
  ⟨PT_CALCMD, [], [⟨17, 17, .rc, 0⟩, ⟨16, 16, .ro, 0⟩, ⟨8, 8, .wo, 0⟩, ⟨2, 0, .rw, 0⟩]⟩,
  ⟨PT_AUTHFAIL, [], [⟨31, 0, .rc, 0⟩]⟩,
  ⟨PT_GRD_SEL, [], [⟨15, 0, .rw, 0⟩]⟩,
  ⟨PT_GRD_DATA, [(0x4, 16)], [⟨31, 0, .ro, 0⟩]⟩,
  ⟨PT_OUTC, [(0x40, 4), (0x4, 10)], [⟨31, 0, .ro, 0⟩]⟩,
  ⟨PT_PCAL, [(0x40, 6)], [⟨1, 1, .ro, 0⟩, ⟨0, 0, .ro, 0⟩]⟩,
  ⟨PT_TXDLY, [(0x40, 6)], [⟨31, 0, .rw, 0⟩]⟩,
  ⟨PT_RXDLY, [(0x40, 6)], [⟨31, 0, .rw, 0⟩]⟩,
  ⟨PT_CALUNC, [(0x40, 6)], [⟨31, 0, .rw, 0⟩]⟩,
  ⟨PT_UCAL, [(0x40, 6)], [⟨31, 0, .ro, 0⟩]⟩,
  ⟨PT_DOM, [(0x40, 16)], [⟨31, 31, .ro, 0⟩, ⟨27, 24, .ro, 0⟩, ⟨20, 20, .ro, 0⟩, ⟨17, 16, .ro, 0⟩, ⟨14, 12, .ro, 0⟩, ⟨10, 8, .ro, 0⟩, ⟨7, 0, .ro, 0⟩]⟩,
  ⟨PT_DCFG, [(0x40, 16)], [⟨31, 24, .s, 0⟩, ⟨23, 16, .s, 0⟩, ⟨15, 8, .s, 0⟩, ⟨7, 7, .s, 1⟩, ⟨6, 6, .s, 0⟩, ⟨5, 5, .s, 0⟩, ⟨4, 4, .s, 0⟩, ⟨3, 3, .s, 0⟩, ⟨2, 2, .s, 0⟩, ⟨1, 0, .s, 0⟩]⟩,
  ⟨PT_DPRI, [(0x40, 16)], [⟨31, 24, .rw, 3⟩, ⟨23, 16, .rw, 128⟩, ⟨15, 8, .rw, 128⟩, ⟨7, 0, .rw, 128⟩]⟩,
  ⟨PT_DVLAN, [(0x40, 16)], [⟨31, 31, .rw, 0⟩, ⟨15, 13, .rw, 0⟩, ⟨11, 0, .rw, 0⟩]⟩,
  ⟨PT_DSTAT, [(0x40, 16)], [⟨25, 25, .ro, 0⟩, ⟨24, 24, .ro, 0⟩, ⟨23, 16, .ro, 0⟩, ⟨15, 8, .ro, 0⟩, ⟨7, 0, .ro, 0⟩]⟩,
  ⟨PT_TCFG, [(0x40, 8)], [⟨31, 31, .s, 0⟩, ⟨10, 10, .s, 0⟩, ⟨9, 9, .s, 0⟩, ⟨8, 8, .s, 0⟩, ⟨3, 0, .s, 0⟩]⟩,
  ⟨PT_TADDR, [(0x40, 8), (0x4, 3)], [⟨31, 0, .sc, 0⟩]⟩,
  ⟨PT_TADDR3, [(0x40, 8)], [⟨31, 0, .sg, 0⟩]⟩,
  ⟨PT_TASYM, [(0x40, 8)], [⟨31, 0, .s, 0⟩]⟩,
  ⟨PT_TAUNC, [(0x40, 8)], [⟨31, 0, .s, 0⟩]⟩,
  ⟨PT_TSTAT, [(0x40, 8)], [⟨31, 24, .ro, 0⟩, ⟨23, 16, .ro, 0⟩, ⟨15, 8, .ro, 0⟩, ⟨3, 1, .ro, 0⟩, ⟨0, 0, .ro, 0⟩]⟩,
  ⟨PT_TMPD_LO, [(0x40, 8)], [⟨31, 0, .ro, 0⟩]⟩,
  ⟨PT_TMPD_HI, [(0x40, 8)], [⟨31, 0, .ro, 0⟩]⟩,
  ⟨PT_TOFS_LO, [(0x40, 8)], [⟨31, 0, .ro, 0⟩]⟩,
  ⟨PT_TOFS_HI, [(0x40, 8)], [⟨31, 0, .ro, 0⟩]⟩,
  ⟨PT_TEVT, [(0x40, 8)], [⟨31, 16, .rc, 0⟩, ⟨15, 0, .rc, 0⟩]⟩,
  ⟨PT_TDLY, [(0x40, 8)], [⟨31, 16, .s, 100⟩, ⟨3, 0, .s, 4⟩]⟩]

def rowsQmg : List Row := [
  ⟨QMG_CELLS, [], [⟨15, 0, .ro, 0⟩]⟩,
  ⟨QMG_LOADBUF, [], [⟨15, 0, .ro, 0⟩]⟩,
  ⟨QMG_CCNT, [(0x4, 6)], [⟨31, 0, .ro, 0⟩]⟩,
  ⟨QMG_PBUF, [(0x4, 6)], [⟨15, 0, .rw, 0x800⟩]⟩,
  ⟨QMG_IMAP, [(0x4, 256)], [⟨31, 31, .rw, 0⟩, ⟨30, 30, .rw, 0⟩, ⟨29, 29, .rw, 0⟩, ⟨7, 0, .rw, 0⟩]⟩,
  ⟨QMG_ISTAT, [(0x4, 8)], [⟨31, 0, .ro, 0⟩]⟩,
  ⟨QR_CFG_TX, [(0x40, 64)], [⟨31, 31, .rw, 0⟩, ⟨23, 16, .rw, 1⟩, ⟨9, 9, .rw, 0⟩, ⟨8, 8, .rw, 0⟩, ⟨4, 0, .x, 3⟩]⟩,
  ⟨QR_CFG_RX, [(0x40, 64)], [⟨31, 31, .rw, 0⟩, ⟨23, 16, .rw, 1⟩, ⟨9, 9, .rw, 0⟩, ⟨8, 8, .rw, 0⟩, ⟨4, 0, .x, 3⟩]⟩,
  ⟨QR_IMOD, [(0x1000, 2), (0x40, 64)], [⟨15, 0, .rw, 0⟩]⟩,
  ⟨QR_BASE_LO, [(0x1000, 2), (0x40, 64)], [⟨31, 12, .x, 0⟩]⟩,
  ⟨QR_BASE_HI, [(0x1000, 2), (0x40, 64)], [⟨31, 0, .x, 0⟩]⟩,
  ⟨QR_WB_LO, [(0x1000, 2), (0x40, 64)], [⟨31, 2, .rw, 0⟩]⟩,
  ⟨QR_WB_HI, [(0x1000, 2), (0x40, 64)], [⟨31, 0, .rw, 0⟩]⟩,
  ⟨QR_IDX, [(0x1000, 2), (0x40, 64)], [⟨31, 16, .ro, 0⟩, ⟨15, 0, .ro, 0⟩]⟩,
  ⟨QR_STAT, [(0x1000, 2), (0x40, 64)], [⟨31, 16, .ro, 0⟩, ⟨4, 4, .ro, 0⟩, ⟨3, 3, .rc, 0⟩, ⟨2, 2, .rc, 0⟩, ⟨1, 1, .ro, 0⟩, ⟨0, 0, .ro, 0⟩]⟩,
  ⟨QR_CNT, [(0x1000, 2), (0x40, 64), (0x4, 6)], [⟨31, 0, .ro, 0⟩]⟩,
  ⟨QR_QUOTA, [(0x1000, 2), (0x40, 64)], [⟨15, 0, .rw, 64⟩]⟩]

def rowsKey : List Row := [
  ⟨KEY_CMD, [], [⟨25, 16, .wo, 0⟩, ⟨6, 4, .wo, 0⟩, ⟨3, 0, .wo, 0⟩]⟩,
  ⟨KEY_RES, [], [⟨31, 31, .ro, 0⟩, ⟨7, 4, .ro, 0⟩, ⟨3, 0, .ro, 0⟩]⟩,
  ⟨KEY_NODE, [], [⟨31, 31, .rw, 0⟩, ⟨30, 30, .rw, 0⟩, ⟨29, 28, .rw, 0⟩, ⟨25, 16, .rw, 0⟩, ⟨15, 11, .rw, 0⟩, ⟨9, 0, .rw, 0⟩]⟩,
  ⟨KEY_DATA, [(0x4, 8)], [⟨31, 0, .wo, 0⟩]⟩,
  ⟨KEY_NONCE, [(0x4, 4)], [⟨31, 0, .rw, 0⟩]⟩,
  ⟨KEY_FMAC_LEN, [], [⟨12, 0, .rw, 0⟩]⟩,
  ⟨KEY_HOLD, [], [⟨31, 31, .ro, 0⟩, ⟨15, 0, .ro, 0⟩]⟩,
  ⟨KEY_HOLDV, [], [⟨31, 16, .ro, 0⟩, ⟨15, 0, .ro, 0⟩]⟩,
  ⟨KEY_HOLDCFG, [], [⟨23, 16, .ro, 0⟩, ⟨15, 0, .ro, 0⟩]⟩,
  ⟨KEY_HTEST, [], [⟨31, 31, .wo, 0⟩, ⟨15, 0, .rw, 0xe10⟩]⟩,
  ⟨KEY_TAMPER, [], [⟨16, 16, .rc, 0⟩, ⟨8, 0, .rc, 0⟩]⟩,
  ⟨KEY_ZCOUNT, [], [⟨31, 16, .ro, 0⟩, ⟨15, 0, .ro, 0⟩]⟩,
  ⟨KEY_TCFG, [], [⟨31, 31, .rw, 0⟩, ⟨15, 8, .rw, 0⟩, ⟨7, 4, .rw, 0⟩, ⟨3, 0, .rw, 0⟩]⟩,
  ⟨KEY_ID, [], [⟨0, 0, .ro, 0⟩]⟩,
  ⟨KEY_WK, [(0x4, 5)], [⟨31, 31, .ro, 0⟩, ⟨30, 30, .ro, 0⟩, ⟨9, 0, .ro, 0⟩]⟩,
  ⟨KEY_NRD_SEL, [], [⟨9, 0, .rw, 0⟩]⟩,
  ⟨KEY_NRD, [], [⟨31, 24, .ro, 0⟩, ⟨22, 20, .ro, 0⟩, ⟨19, 10, .ro, 0⟩, ⟨9, 9, .ro, 0⟩, ⟨8, 4, .ro, 0⟩, ⟨3, 2, .ro, 0⟩, ⟨1, 0, .ro, 0⟩]⟩,
  ⟨KEY_TREE, [], [⟨26, 16, .ro, 0⟩, ⟨10, 0, .ro, 0⟩]⟩,
  ⟨KEY_OUT, [(0x4, 138)], [⟨31, 0, .ro, 0⟩]⟩,
  ⟨KEY_MSG, [(0x4, 1024)], [⟨31, 0, .rw, 0⟩]⟩]

/-- Bit 8 of AIN0–2_CFG, DARS of input 3 only, is held as input 3's is and acts on nothing (DESIGN CHOICE, log 43). -/
def rowsAud : List Row := [
  ⟨AUD_CLK, [], [⟨8, 8, .s, 0⟩, ⟨6, 4, .s, 0⟩, ⟨2, 0, .s, 2⟩]⟩,
  ⟨AUD_CSTAT, [], [⟨31, 4, .ro, 0⟩, ⟨2, 0, .ro, 0⟩]⟩,
  ⟨WCK_CFG, [], [⟨31, 31, .s, 0⟩, ⟨2, 0, .s, 2⟩]⟩,
  ⟨WCK_STAT, [], [⟨31, 4, .ro, 0⟩, ⟨0, 0, .ro, 0⟩]⟩,
  ⟨WCK_EVT, [], [⟨15, 8, .rc, 0⟩, ⟨7, 0, .rc, 0⟩]⟩,
  ⟨AIN_CFG, [(0x40, 4)], [⟨31, 31, .s, 0⟩, ⟨8, 8, .s, 0⟩, ⟨2, 0, .s, 2⟩]⟩,
  ⟨AIN_STAT, [(0x40, 4)], [⟨31, 4, .ro, 0⟩, ⟨2, 2, .ro, 0⟩, ⟨1, 1, .ro, 0⟩, ⟨0, 0, .ro, 0⟩]⟩,
  ⟨AIN_EVT, [(0x40, 4)], [⟨31, 24, .rc, 0⟩, ⟨23, 16, .rc, 0⟩, ⟨15, 8, .rc, 0⟩, ⟨7, 0, .rc, 0⟩]⟩,
  ⟨AOUT_CFG, [(0x40, 4)], [⟨31, 31, .s, 0⟩, ⟨30, 30, .rw, 0⟩, ⟨29, 29, .s, 0⟩, ⟨18, 16, .s, 0⟩, ⟨13, 12, .s, 0⟩, ⟨9, 8, .s, 0⟩, ⟨1, 0, .s, 3⟩]⟩,
  ⟨AOUT_TONE, [(0x40, 4)], [⟨22, 16, .s, 20⟩, ⟨14, 0, .s, 0x3e5⟩]⟩,
  ⟨AOUT_UWP, [(0x40, 4)], [⟨11, 0, .rw, 0⟩]⟩,
  ⟨AOUT_URP, [(0x40, 4)], [⟨11, 0, .ro, 0⟩]⟩,
  ⟨AOUT_STAT, [(0x40, 4)], [⟨3, 3, .ro, 0⟩, ⟨2, 2, .ro, 0⟩, ⟨1, 1, .ro, 0⟩, ⟨0, 0, .ro, 0⟩]⟩,
  ⟨AOUT_EVT, [(0x40, 4)], [⟨31, 16, .rc, 0⟩, ⟨15, 8, .rc, 0⟩, ⟨7, 0, .rc, 0⟩]⟩]

def indRowsAud : List Row := [
  ⟨AUD_ICS, [(0x20, 4), (0x4, 6)], [⟨31, 0, .ro, 0⟩]⟩,
  ⟨AUD_ICRC, [(0x20, 4)], [⟨1, 1, .rc, 0⟩, ⟨0, 0, .ro, 0⟩]⟩,
  ⟨AUD_IBELL, [(0x20, 4)], [⟨31, 0, .ro, 0⟩]⟩,
  ⟨AUD_TPL, [(0x20, 4), (0x4, 6)], [⟨31, 0, .s, 0⟩]⟩,
  ⟨AUD_UBUF, [(0x1000, 4), (0x4, 1024)], [⟨31, 0, .rw, 0⟩]⟩]

def rowsTwn : List Row := [
  ⟨TWN_CFG, [], [⟨1, 1, .x, 0⟩, ⟨0, 0, .x, 0⟩]⟩,
  ⟨TWN_VER, [], [⟨31, 16, .x, 0x201⟩, ⟨15, 0, .x, 0x100⟩]⟩,
  ⟨TWN_VAGREE, [], [⟨16, 16, .ro, 0⟩, ⟨15, 0, .ro, 0⟩]⟩,
  ⟨TWN_CMD, [], [⟨1, 1, .wo, 0⟩, ⟨0, 0, .wo, 0⟩]⟩,
  ⟨TWN_SWAP_BELL_LO, [], [⟨31, 0, .rw, 0⟩]⟩,
  ⟨TWN_SWAP_BELL_HI, [], [⟨31, 0, .rw, 0⟩]⟩,
  ⟨TWN_DRILL_AGE, [], [⟨31, 0, .ro, 0⟩]⟩,
  ⟨TWN_ASYM, [], [⟨31, 0, .s, 0⟩]⟩,
  ⟨TWN_AUNC, [], [⟨31, 0, .s, 0⟩]⟩,
  ⟨TWN_THETA_LO, [], [⟨31, 0, .ro, 0⟩]⟩,
  ⟨TWN_THETA_HI, [], [⟨31, 0, .ro, 0⟩]⟩,
  ⟨TWN_RTT, [], [⟨31, 0, .ro, 0⟩]⟩,
  ⟨TWN_RTW, [], [⟨31, 0, .ro, 0⟩]⟩,
  ⟨TWN_SNAP_LO, [], [⟨31, 0, .ro, 0⟩]⟩,
  ⟨TWN_SNAP_HI, [], [⟨31, 0, .ro, 0⟩]⟩,
  ⟨TWN_SNAPSTAT, [], [⟨31, 31, .ro, 0⟩, ⟨21, 0, .ro, 0⟩]⟩,
  ⟨TWN_HB, [], [⟨9, 9, .ro, 0⟩, ⟨8, 8, .ro, 0⟩, ⟨5, 0, .ro, 0⟩]⟩,
  ⟨TWN_CAUSE, [], [⟨23, 16, .ro, 0⟩, ⟨15, 8, .ro, 0⟩, ⟨7, 0, .ro, 0⟩]⟩,
  ⟨TWN_EVT, [], [⟨31, 24, .rc, 0⟩, ⟨23, 16, .rc, 0⟩, ⟨15, 8, .rc, 0⟩, ⟨7, 0, .rc, 0⟩]⟩,
  ⟨TWN_MSGERR, [], [⟨31, 0, .rc, 0⟩]⟩]

def rowsHal : List Row := [
  ⟨HAL_OUT, [], [⟨8, 0, .ro, 0⟩]⟩,
  ⟨HAL_BCUT, [], [⟨28, 24, .ro, 0⟩, ⟨20, 16, .ro, 0⟩, ⟨11, 8, .ro, 0⟩, ⟨3, 0, .ro, 0⟩]⟩,
  ⟨HAL_M_CFG, [(0x10, 12)], [⟨9, 8, .rw, 0⟩, ⟨5, 0, .rw, 32⟩]⟩,
  ⟨HAL_M_ISSUED_LO, [(0x10, 12)], [⟨31, 0, .ro, 0⟩]⟩,
  ⟨HAL_M_ISSUED_HI, [(0x10, 12)], [⟨31, 16, .ro, 0⟩, ⟨15, 0, .ro, 0⟩]⟩,
  ⟨HAL_M_RETURNED_LO, [(0x10, 12)], [⟨31, 0, .ro, 0⟩]⟩]

def rowsBkd : List Row := []

def indRowsBkd : List Row := [
  ⟨BKD_NV, [(0x4, 65536)], [⟨31, 0, .ro, 0⟩]⟩]

/-- The registers of a slot in BAR0. -/
def slotRows : Nat → List Row
  | 0 => rowsGen
  | 1 => rowsRst
  | 2 => rowsFlt
  | 3 => rowsTal
  | 4 => rowsCht
  | 5 => rowsTsc
  | 6 => rowsScl
  | 7 => rowsRef
  | 8 => rowsStl
  | 9 => rowsApl
  | 10 => rowsOut
  | 11 => rowsTdc
  | 12 => rowsGns
  | 13 => rowsMac
  | 14 => rowsTol
  | 15 => rowsPtp
  | 16 => rowsQmg
  | 17 => rowsKey
  | 18 => rowsAud
  | 19 => rowsTwn
  | 20 => rowsHal
  | 21 => rowsBkd
  | _ => []

/-- The registers of a slot's indirect space. -/
def slotIndRows : Nat → List Row
  | 11 => indRowsTdc
  | 12 => indRowsGns
  | 18 => indRowsAud
  | 21 => indRowsBkd
  | _ => []

/-- The base offsets of the 22 slots of Table 3.1 (R455). -/
def slotBases : List Nat := [0x0, 0x10000, 0x20000, 0x30000, 0x40000, 0x80000, 0xa0000, 0xc0000, 0x100000, 0x140000, 0x180000, 0x1c0000, 0x200000, 0x280000, 0x340000, 0x380000, 0x3c0000, 0x400000, 0x440000, 0x480000, 0x4c0000, 0x500000]

/-- The end of the last window; from here to 0x0080_0000 the map is reserved (Table 3.1). -/
def windowsEnd : Nat := 0x540000

/-- The slot whose window holds a BAR0 offset below the alias region (Table 3.1, R455). -/
def slotOf (off : Nat) : Option Nat :=
  if windowsEnd ≤ off then none
  else some ((slotBases.filter (· ≤ off)).length - 1)

/-- Base offset of a slot's window. -/
def slotBase (slot : Nat) : Nat := slotBases.getD slot 0

/-- Does a row's array hold an element at this distance from its base? -/
def dimsHit : List (Nat × Nat) → Nat → Bool
  | [], r => r == 0
  | (stride, count) :: rest, r => r / stride < count && dimsHit rest (r % stride)

def Row.hit (row : Row) (key : Nat) : Bool := row.base ≤ key && dimsHit row.dims (key - row.base)

def findRow (rows : List Row) (key : Nat) : Option Row := rows.find? (·.hit key)

/-- The base of the window or channel window that holds an offset: stalls at steps of 0x800, ports at steps of 0x1_0000 (Table 3.1). The parts of STL and MAC past their last channel belong to no channel window (R54). -/
def windowOf (off : Nat) : Nat :=
  match slotOf off with
  | some 8 => if off < 0x110000 then off - off % 0x800 else 0x110000
  | some 13 => if off < 0x2E0000 then off - off % 0x10000 else 0x2E0000
  | some s => slotBase s
  | none => windowsEnd

/-- Does a slot have an indirect window (Table 3.1)? -/
def hasInd (slot : Nat) : Bool := slot == 11 || slot == 12 || slot == 18 || slot == 21

/-- Block-specific fields of CTRL (R55): TDC (Table 10.2), GNS (Table 11.9), CHT, TOL. -/
def ctrlFields : Nat → List Field
  | 4 => [⟨1, 1, .rw, 0⟩, ⟨0, 0, .rw, 0⟩]
  | 11 => [⟨7, 7, .x, 0⟩, ⟨6, 5, .x, 0⟩, ⟨4, 4, .rw, 1⟩, ⟨3, 3, .x, 0⟩, ⟨2, 1, .x, 0⟩, ⟨0, 0, .rw, 0⟩]
  | 12 => [⟨2, 2, .rw, 1⟩, ⟨1, 1, .rw, 1⟩, ⟨0, 0, .rw, 0⟩]
  | 14 => [⟨1, 1, .rw, 0⟩, ⟨0, 0, .rw, 0⟩]
  | _ => [⟨0, 0, .rw, 0⟩]

/-- RC bits of STAT above bit 15 by slot; PEND, LATE and WIGN are common (R55). -/
def statRc : Nat → List Nat
  | 0 => [17] | 1 => [17, 18] | 2 => [16, 17, 20] | 4 => [20, 21] | 5 => [16, 17, 18, 19, 20]
  | 6 => [16] | 7 => [16] | 9 => [20, 21, 22, 23] | 10 => [16, 17, 19] | 11 => [18, 19]
  | 12 => [19, 20] | 13 => [19, 20] | 14 => [16, 17, 18, 19] | 15 => [16, 17, 18, 19]
  | 16 => [16, 17, 18, 19] | 17 => [18] | 18 => [17, 20, 21, 22] | 19 => [19, 20] | 20 => [16]
  | _ => []

/-- RO bits of STAT above bit 15 by slot. -/
def statRo : Nat → List Nat
  | 0 => [16] | 1 => [16] | 2 => [18, 19] | 4 => [16, 17, 18, 19] | 5 => [21] | 6 => [17, 18]
  | 7 => [17, 18] | 8 => [16, 17, 18, 19] | 9 => [16, 17, 18, 19, 24, 25, 26, 27] | 10 => [18]
  | 11 => [16, 17, 20] | 12 => [16, 17, 18] | 13 => [16, 17, 18, 21, 24, 25, 26] | 17 => [16, 17, 19, 20]
  | 18 => [16, 18, 19] | 19 => [16, 17, 18, 21, 24, 25, 26] | 20 => [17]
  | _ => []

def statFields (slot : Nat) : List Field :=
  (statRc slot).map (fun b => ⟨b, b, .rc, 0⟩) ++ (statRo slot).map (fun b => ⟨b, b, .ro, 0⟩)
    ++ [⟨2, 2, .ro, 0⟩, ⟨1, 1, .rc, 0⟩, ⟨0, 0, .rc, 0⟩]

/-- The header of a window and, for a slot that has one, its indirect window (R55, R62). -/
def headerRow (slot rel : Nat) : Option (List Field) :=
  if rel == 0 then some [⟨31, 0, .ro, 0⟩]
  else if rel == 4 then some (ctrlFields slot)
  else if rel == 8 then some (statFields slot)
  else if rel == 0xC then some [⟨31, 31, .ro, 0⟩, ⟨23, 0, .ro, 0⟩]
  else if hasInd slot && rel == 0x40 then some [⟨31, 31, .rw, 0⟩, ⟨23, 2, .rw, 0⟩]
  else if hasInd slot && rel == 0x44 then some [⟨31, 0, .rw, 0⟩]
  else if hasInd slot && rel == 0x48 then some [⟨2, 2, .rc, 0⟩, ⟨1, 1, .rc, 0⟩, ⟨0, 0, .ro, 0⟩]
  else none

/-- The fields of the word at a key; none where no chapter names it (R54). -/
def fieldsAt (key : Nat) : Option (List Field) :=
  if 2 ^ 28 ≤ key then (findRow (slotIndRows (key / 2 ^ 28 - 1)) key).map (·.fields)
  else match slotOf key with
    | none => none
    | some slot =>
      if key % 4 != 0 then none
      else if windowOf key == 0x110000 || windowOf key == 0x2E0000 then none
      else match headerRow slot (key - windowOf key) with
        | some f => some f
        | none => (findRow (slotRows slot) key).map (·.fields)

/-- Mask of the bits hi..lo. -/
def fieldMask (f : Field) : Nat := (2 ^ (f.hi - f.lo + 1) - 1) * 2 ^ f.lo

/-- Mask of the bits of the given classes. -/
def clsMask (fs : List Field) (p : Cls → Bool) : Word :=
  BitVec.ofNat 32 ((fs.filter (fun f => p f.cls)).foldl (fun a f => a + fieldMask f) 0)

/-- The reset word that the fields give. -/
def fieldsReset (fs : List Field) : Word :=
  BitVec.ofNat 32 (fs.foldl (fun a f => a + f.reset * 2 ^ f.lo) 0)

/-- What a key that the register file does not list reads as: the reset value of its table (R8). QMG_IMAPi resets to i in VEC (R351), and the priority of a Hall master as Table 15.11 gives it (R366). -/
def resetWord (key : Nat) : Word :=
  if QMG_IMAP ≤ key && key < QMG_IMAP + 1024 then BitVec.ofNat 32 ((key - QMG_IMAP) / 4)
  else if HAL_M_CFG ≤ key && key < HAL_M_CFG + 192 && key % 16 == 0 then
    let m := (key - HAL_M_CFG) / 16
    BitVec.ofNat 32 (32 + 256 * (if m == 10 || m == 11 then 3 else if m == 3 || m == 4 || m == 6 then 2 else 1))
  else match fieldsAt key with
    | some fs => fieldsReset fs
    | none => 0

end Sys2Proof.Machine
end

