-- ==== Sys2Proof/Machine/Ops.lean ====
section
/-! DEFINITION. The named operations over the register file, the staged writes, the Tally counters, the free values and the device's outputs. -/
namespace Sys2Proof.Machine
open Sys2Proof

/-! ### Sparse stores -/

/-- The value at a key; an unlisted key reads as the default. -/
def sparseGet (dflt : Nat → β) : List (Nat × β) → Nat → β
  | [], k => dflt k
  | (a, x) :: r, k => if a = k then x else sparseGet dflt r k

/-- Put an entry before the first key that is not below its own. -/
def sparseInsert : List (Nat × β) → Nat → β → List (Nat × β)
  | [], k, v => [(k, v)]
  | (a, x) :: r, k, v => if a < k then (a, x) :: sparseInsert r k v else (k, v) :: (a, x) :: r

/-- Write a key, keeping the canonical form: the key's entry goes, and comes back where the value is not the default. -/
def sparseSet [DecidableEq β] (dflt : Nat → β) (l : List (Nat × β)) (k : Nat) (v : β) : List (Nat × β) :=
  let r := l.filter (fun e => e.1 != k)
  if v = dflt k then r else sparseInsert r k v

/-- The canonical form: keys strictly rising, no entry equal to the default. -/
def sparseWf [DecidableEq β] (dflt : Nat → β) : List (Nat × β) → Bool
  | [] => true
  | [(a, x)] => decide (x ≠ dflt a)
  | (a, x) :: (b, y) :: r => decide (a < b) && decide (x ≠ dflt a) && sparseWf dflt ((b, y) :: r)

/-! ### The register file -/

/-- A register word as last written or as hardware left it (R8, R37). -/
def rg (d : Dev) (k : Nat) : Word := sparseGet resetWord d.regs k

def rgf (d : Dev) (k hi lo : Nat) : Nat := bits (rg d k) hi lo

def rgb (d : Dev) (k b : Nat) : Bool := bit (rg d k) b

def setReg (d : Dev) (k : Nat) (w : Word) : Dev := { d with regs := sparseSet resetWord d.regs k w }

/-- A class S word as in effect (R33 to R38). -/
def ef (d : Dev) (k : Nat) : Word := sparseGet resetWord d.eff k

def eff (d : Dev) (k hi lo : Nat) : Nat := bits (ef d k) hi lo

def efb (d : Dev) (k b : Nat) : Bool := bit (ef d k) b

def setEff (d : Dev) (k : Nat) (w : Word) : Dev := { d with eff := sparseSet resetWord d.eff k w }

/-- Write a register both as last written and as in effect. -/
def setBoth (d : Dev) (k : Nat) (w : Word) : Dev := setEff (setReg d k w) k w

/-- The 64-bit value of an _LO, _HI pair in effect, unsigned and signed. -/
def efPair (d : Dev) (lo : Nat) : Nat := dword (ef d (lo + 4)) (ef d lo)
def efPairS (d : Dev) (lo : Nat) : Int := sext 64 (efPair d lo)

/-- The same of a pair as last written. -/
def rgPair (d : Dev) (lo : Nat) : Nat := dword (rg d (lo + 4)) (rg d lo)

/-- A signed 32-bit word in effect. -/
def efS (d : Dev) (k : Nat) : Int := sext 32 (ef d k).toNat

/-- CTRL.EN of a window (R55). -/
def enOf (d : Dev) (win : Nat) : Bool := rgb d (win + 4) 0

def setEn (d : Dev) (win : Nat) (v : Bool) : Dev := setReg d (win + 4) (putBit (rg d (win + 4)) 0 v)

/-- Hardware sets an RC bit of a window's STAT (R8, R56). -/
def statSet (d : Dev) (win b : Nat) : Dev := setReg d (win + 8) (putBit (rg d (win + 8)) b true)

/-- Add to an RC or RO count in bits hi..lo of a register, saturating (R56). -/
def countUp (d : Dev) (k hi lo n : Nat) : Dev :=
  let w := rg d k
  let v := min (bits w hi lo + n) (2 ^ (hi - lo + 1) - 1)
  setReg d k (w32 (w.toNat - bits w hi lo * 2 ^ lo + v * 2 ^ lo))

/-- Write a field of a register. -/
def putField (d : Dev) (k hi lo v : Nat) : Dev :=
  let w := rg d k
  setReg d k (w32 (w.toNat - bits w hi lo * 2 ^ lo + (v % 2 ^ (hi - lo + 1)) * 2 ^ lo))

/-- Clear the registers with keys in a range, as last written and in effect, back to their reset values. -/
def wipeRange (d : Dev) (a b : Nat) : Dev :=
  { d with regs := d.regs.filter (fun e => !(a ≤ e.1 && e.1 < b)),
           eff := d.eff.filter (fun e => !(a ≤ e.1 && e.1 < b)) }

/-! ### Slots, windows and keys -/

def baseTsc : Nat := 0x80000
def baseScl : Nat := 0xA0000
def baseRef : Nat := 0xC0000
def baseStl : Nat := 0x100000
def baseApl : Nat := 0x140000
def baseOut : Nat := 0x180000
def baseTdc : Nat := 0x1C0000
def baseGns : Nat := 0x200000
def baseMac : Nat := 0x280000
def baseTol : Nat := 0x340000
def basePtp : Nat := 0x380000
def baseQmg : Nat := 0x3C0000
def baseKey : Nat := 0x400000
def baseAud : Nat := 0x440000
def baseTwn : Nat := 0x480000
def baseHal : Nat := 0x4C0000
def baseRst : Nat := 0x10000
def baseFlt : Nat := 0x20000
def baseTal : Nat := 0x30000
def baseCht : Nat := 0x40000

/-- The windows of stall n and port n. -/
def stlWin (n : Nat) : Nat := baseStl + n * 0x800
def macWin (n : Nat) : Nat := baseMac + n * 0x10000

/-- The window a key belongs to: its own, or that of the block whose indirect space holds it. -/
def keyWin (key : Nat) : Nat := if 2 ^ 28 ≤ key then slotBase (key / 2 ^ 28 - 1) else windowOf key

/-- Slot of a key. -/
def keySlot (key : Nat) : Nat := if 2 ^ 28 ≤ key then key / 2 ^ 28 - 1 else (slotOf key).getD 24

/-- The ring register set that holds an offset: RX or TX, and the ring (Table 15.13). -/
def ringOf (off : Nat) : Option (Bool × Nat) :=
  if 0x3C4000 ≤ off && off < 0x3C5000 then some (false, (off - 0x3C4000) / 0x40)
  else if 0x3C5000 ≤ off && off < 0x3C6000 then some (true, (off - 0x3C5000) / 0x40)
  else none

/-- The EN that governs class X and class S at a key (R9, R38): the ring's for the ring registers of QMG. -/
def keyEn (d : Dev) (key : Nat) : Bool :=
  match ringOf key with
  | some (false, n) => rgb d (0x3C4000 + n * 0x40) 31
  | some (true, n) => rgb d (0x3C5000 + n * 0x40) 31
  | none => enOf d (keyWin key)

/-! ### Requesters (R58, R62, R65) -/

def reqOf (d : Dev) : Requester → ReqState
  | .pcie0 => d.pcie0
  | .pcie1 => d.pcie1
  | .cores => d.cores
  | .mspi => d.mspi

def setReqState (d : Dev) (r : Requester) (q : ReqState) : Dev :=
  match r with
  | .pcie0 => { d with pcie0 := q }
  | .pcie1 => { d with pcie1 := q }
  | .cores => { d with cores := q }
  | .mspi => { d with mspi := q }

/-- Warden privilege: every requester but PCIe function 0 (R65). -/
def isWarden : Requester → Bool
  | .pcie0 => false
  | _ => true

/-- The Hall master a requester reaches the Hall as (Table 2.1). -/
def reqMaster : Requester → Nat
  | .pcie0 => 0
  | .pcie1 => 0
  | .cores => 1
  | .mspi => 9

/-- Requester code of DETAIL (Table 20.10). -/
def reqCode : Requester → Nat
  | .pcie0 => 0
  | .pcie1 => 1
  | .cores => 2
  | .mspi => 3

/-- A held word of a requester (R58). -/
def heldWord (q : ReqState) (k : Nat) : Word := sparseGet (fun _ => 0) q.held k

def holdWord (q : ReqState) (k : Nat) (w : Word) : ReqState := { q with held := sparseSet (fun _ => (0 : Word)) q.held k w }

def holdWords (q : ReqState) (k : Nat) : List Word → ReqState
  | [] => q
  | w :: ws => holdWords (holdWord q k w) (k + 4) ws

/-- Answer an access. -/
def answer (d : Dev) (ws : List Word) : Dev := { d with resp := ⟨.ok, ws⟩ }

/-! ### Outputs and free values -/

def emit (d : Dev) (e : Emit) : Dev := { d with out := d.out ++ [e] }

/-- Draw a free value below n (for n > 0): one that nothing constrains (log 2). -/
def drawBelow (d : Dev) (n : Nat) : Nat × Dev := (Config.free d.freeIdx % n, { d with freeIdx := d.freeIdx + 1 })

/-- Draw n free bytes. -/
def drawBytes (d : Dev) (n : Nat) : List Byte × Dev :=
  (leBytes n (Config.free d.freeIdx), { d with freeIdx := d.freeIdx + 1 })

/-- A quotient whose rounding the spec does not state: exact where it is exact, else one of the two neighbours, freely (log 2). -/
def freeDiv (d : Dev) (a : Int) (b : Nat) : Int × Dev :=
  if a % b == 0 then (a / b, d) else (a / b + (Config.free d.freeIdx % 2 : Nat), { d with freeIdx := d.freeIdx + 1 })

/-! ### Configurable pins (R76, R470) -/

/-- The entry of the PINMUX in effect that names a pin. -/
def pinEntry (d : Dev) (pin : Nat) : Option PinEntry :=
  match d.cht.cur with
  | some c => c.fabric.pins.find? (·.pin == pin)
  | none => none

/-- The function of a pin, 0 where no entry names it. -/
def pinFunc (d : Dev) (pin : Nat) : Nat :=
  match pinEntry d pin with
  | some e => e.func
  | none => 0

/-! ### The Tally (R463, R464) -/

/-- What an access event says of itself: privilege, master, offset. -/
structure Access where
  warden : Bool
  master : Nat
  off : Nat
  deriving DecidableEq, Repr

def accOf (r : Requester) (off : Nat) : Access := ⟨isWarden r, reqMaster r, off⟩

/-- Do a counter's configuration and filters let an event through? An event without an access passes every filter (R464). -/
def tallyHit (cfg alo ahi : Word) (cls ev : Nat) (acc : Option Access) : Bool :=
  bit cfg 31 && max 1 (bits cfg 9 8) == cls && (bits cfg 7 0 == 0xFF || bits cfg 7 0 == ev) &&
    match acc with
    | none => true
    | some a =>
      (match bits cfg 29 28 with
        | 1 => !a.warden
        | 2 => a.warden
        | _ => true)
      && (bits cfg 27 16 == 0 || (bits cfg 27 16).testBit a.master)
      && (ahi.toNat == 0 || ahi.toNat < alo.toNat || (alo.toNat ≤ a.off && a.off ≤ ahi.toNat))

def tallyGet (d : Dev) (c : Nat) : Nat := sparseGet (fun _ => 0) d.tal.live c

/-- Set a live counter. -/
def tallyPut (d : Dev) (c n : Nat) : Dev :=
  { d with tal := { d.tal with live := sparseSet (fun _ => (0 : Nat)) d.tal.live c n } }

/-- Count an event of a slot in each of its 16 counters that admits it (R463). -/
def tally (d : Dev) (slot cls ev : Nat) (acc : Option Access) : Dev :=
  if enOf d baseTal && slot < 24 then
    (List.range 16).foldl (fun d i =>
      let c := slot * 16 + i
      if tallyHit (ef d (TAL_CFG + 16 * c)) (ef d (TAL_ALO + 16 * c)) (ef d (TAL_AHI + 16 * c)) cls ev acc
      then tallyPut d c (min (tallyGet d c + 1) (2 ^ 48 - 1)) else d) d
  else d

/-- Tally events of class 1 (Table 20.4). -/
def evRead : Nat := 1
def evWrite : Nat := 2
def evAlias : Nat := 3
def evInd : Nat := 4
def evWign : Nat := 5
def evLate : Nat := 6
def evStaged : Nat := 7

/-! ### Ignored and late writes -/

/-- A write ignored under R9 or discarded under R39: WIGN, and WIGN_ADDR if WIGN was clear. -/
def wign (d : Dev) (key : Nat) (acc : Option Access) : Dev :=
  let win := keyWin key
  let d1 := if rgb d (win + 8) 0 then d
    else setReg d (win + 0xC) (if 2 ^ 28 ≤ key then w32 (2 ^ 31 + key % 2 ^ 24) else w32 key)
  tally (statSet d1 win 0) (keySlot key) 1 evWign acc

/-- A class S write missed its boundary (R33, R34): STAT.LATE, and LATE_ANY of GEN_BELL_STAT. -/
def markLate (d : Dev) (key : Nat) (acc : Option Access) : Dev :=
  let d1 := statSet d (keyWin key) 1
  tally (setReg d1 GEN_BELL_STAT (putBit (rg d1 GEN_BELL_STAT) 3 true)) (keySlot key) 1 evLate acc

/-! ### Time of the scales (R24, R29, R95 to R100) -/

/-- One nanosecond and one second in the unit of a scale's value, 2⁻⁴⁸ ns. -/
def nsUnit : Nat := 2 ^ 48
def secUnit : Nat := 1000000000 * nsUnit

/-- INC of TS-O and of a working scale, 2⁻⁴⁸ ns per TCLK: the nominal 1 ns and the offset. -/
def incOf (f : Int) : Nat := (nsUnit + f).toNat

/-- TCLKs until TS-O wraps into its next second: the smallest n ≥ 1 that carries the value past the second. -/
def ticksToWrap (d : Dev) : Nat :=
  let inc := incOf d.tsc.oF
  if inc == 0 then 0 else max 1 (ceilDiv (secUnit - d.tsc.o % secUnit) inc)

/-- The wrap that n TCLKs from now reach lies less than 500 ms of TS-O after the previous Bell, so it is no Bell (R31). -/
def wrapSuppressed (d : Dev) (n : Nat) : Bool :=
  d.tsc.hadBell && d.tsc.o + n * incOf d.tsc.oF < d.tsc.lastBellO + 500000000 * nsUnit
    && d.tsc.lastBellO ≤ d.tsc.o + n * incOf d.tsc.oF

/-- TCLKs until the next Bell; none while the counters stand. -/
def ticksToBell (d : Dev) : Option Nat :=
  if d.tsc.running then
    let n := ticksToWrap d
    if wrapSuppressed d n then
      some (n + ceilDiv (secUnit - (d.tsc.o + n * incOf d.tsc.oF) % secUnit) (incOf d.tsc.oF))
    else some n
  else none

/-- A write that reaches its block now misses the coming Bell (R33, R35). -/
def lateForBell (d : Dev) : Bool :=
  match ticksToBell d with
  | some n => d.tsc.armedDone || n < 2000
  | none => false

/-- Seconds, nanoseconds and fraction of a value. -/
def secOf (v : Nat) : Nat := v / secUnit
def nsOf (v : Nat) : Nat := v / nsUnit % 1000000000
def fracOf (v : Nat) : Nat := v % nsUnit

/-- A value in 2⁻¹⁶ ns, as stamps carry it (R24, R25). -/
def stampOf (v : Nat) : Nat := v / 2 ^ 32

/-- The value of scale 0 TS-O, 1 TS-A, 2 TS-B (the coding of STAMP_SCALE, Table 4.7). -/
def scaleVal (d : Dev) : Nat → Nat
  | 1 => d.tsc.a.v
  | 2 => d.tsc.b.v
  | _ => d.tsc.o

def ms : Nat := 1000000
def us : Nat := 1000

/-! ### Built pitches -/

/-- The built pitch of a kind and index (R69). -/
def pitchOf (d : Dev) (kind index : Nat) : Option Pitch :=
  match d.cht.cur with
  | some c => c.fabric.pitches.find? (fun p => p.kind == kind && p.index == index)
  | none => none

def built (d : Dev) (kind index : Nat) : Bool := (pitchOf d kind index).isSome

def pitchFunc (d : Dev) (kind index : Nat) : Nat := ((pitchOf d kind index).map (·.func)).getD 0

/-- The link of a type of a built pitch. -/
def linkOf (d : Dev) (kind index type : Nat) : Option Link :=
  (pitchOf d kind index).bind (fun p => p.links.find? (·.type == type))

/-- The stamping scale of a pitch, 0 TS-O, 1 TS-A, 2 TS-B (R25, Table 4.7). -/
def stampScale (d : Dev) (kind index : Nat) : Nat := ((linkOf d kind index 9).map (·.arg)).getD 0

/-! ### Staged writes (R33 to R38) -/

/-- The boundary of the class S fields at a key, but for those of AOUT_CFG that follow the output's blocks. -/
def boundaryOf (key : Nat) : Boundary :=
  if AUD_TPL ≤ key && key < AUD_TPL + 0x80 then .audioBlock ((key - AUD_TPL) / 0x20)
  else if 0x280000 ≤ key && key < 0x2E0000 && key % 0x10000 == 0x58 then .gclCycle ((key - 0x280000) / 0x10000)
  else if 0x182000 ≤ key && key < 0x182400 then .gridPeriod ((key - 0x182000) / 0x80)
  else .bell

/-- The boundary of a key now: a trigger's fields follow the grid it names (R203), a gate list commit the Bell while the operational list is off (R280). -/
def boundaryFor (d : Dev) (key : Nat) : Boundary :=
  if 0x280000 ≤ key && key < 0x2E0000 && key % 0x10000 == 0x58
      && !((d.ports[(key - 0x280000) / 0x10000]?).any (·.oper.gen)) then .bell
  else if 0x183000 ≤ key && key < 0x183800 then
    match linkOf d 6 ((key - 0x183000) / 0x80) 6 with
    | some l => .gridPeriod l.arg
    | none => .bell
  else boundaryOf key

/-- The audio output whose AOUT_CFG a key is. -/
def aoutOf (key : Nat) : Option Nat :=
  if AOUT_CFG ≤ key && key < AOUT_CFG + 0x100 && key % 0x40 == 0 then some ((key - AOUT_CFG) / 0x40) else none

/-- The bits of a word that a boundary governs: EN, CONTENT, LOOPSRC and CHMASK of an AES3 output take effect at its block boundary, TOD and RAMP at the Bell (R34, R421, R423). -/
def boundaryMask (key : Nat) (b : Boundary) : Word :=
  match aoutOf key, b with
  | some _, .audioBlock _ => 0x80003303
  | some _, _ => ~~~ 0x80003303
  | none, _ => BitVec.allOnes 32

/-- The words that the write of a staging word captures (R37). -/
def groupOf (key : Nat) : List Nat :=
  if key == GN_POS_Z_HI then [key - 20, key - 16, key - 12, key - 8, key - 4, key]
  else if PT_TADDR3 ≤ key && key < PT_TADDR3 + 0x200 then [key - 12, key - 8, key - 4, key]
  else if key == SC_SET_NS || key == SC_SET_NS + 0x100 then [key - 8, key - 4, key, key + 4]
  else [key - 4, key]

/-- Put words into effect under a boundary's mask. -/
def effWords (d : Dev) (b : Boundary) : RegFile → Dev
  | [] => d
  | (k, w) :: r =>
    let m := boundaryMask k b
    effWords (setEff d k ((w &&& m) ||| (ef d k &&& ~~~ m))) b r

def sameKeys (a b : RegFile) : Bool := a.map (·.1) == b.map (·.1)

/-- Two writes to the same words that wait for the same boundary. -/
def sameStaged (x e : Staged) : Bool := x.boundary == e.boundary && x.late == e.late && sameKeys x.words e.words

/-- A write that 2 µs have passed over since it reached its block, so that any boundary from now on takes it or a later one (R34). -/
def ripe (d : Dev) (e : Staged) : Bool := e.armed || e.reachedT.toNat + 2000 ≤ d.t.toNat

/-- Does a new write displace an earlier one to the same words? Of the Bell's, one that is not armed (R35). Of a boundary of another period, one that a later write has become ripe behind, for what lies 2 µs before that boundary is not known until it comes (R34, R35). -/
def displaces (d : Dev) (e x : Staged) : Bool :=
  sameStaged x e && (if e.boundary == .bell then !x.armed
    else d.staged.any (fun y => sameStaged y x && x.reachedT.toNat < y.reachedT.toNat && ripe d y))

/-- Add a staged write (R35). -/
def addStaged (d : Dev) (e : Staged) : Dev :=
  { d with staged := d.staged.filter (fun x => !displaces d e x) ++ [e] }

/-- A class S value takes effect: event STAGED (Table 20.4). -/
def tallyStaged (d : Dev) (e : Staged) : Dev :=
  let key := (e.words.getLast?.map (·.1)).getD e.window
  tally d (keySlot key) 1 evStaged (e.by_.map (fun x => ⟨x.1, x.2, key⟩))

/-- Stage the words of a value to one boundary. -/
def stageTo (d : Dev) (key : Nat) (keys : List Nat) (b : Boundary) (acc : Option Access) : Dev :=
  let late := b == .bell && lateForBell d
  let d1 := addStaged d ⟨keyWin key, b, keys.map (fun k => (k, rg d k)), d.t, false, late, acc.map (fun a => (a.warden, a.master))⟩
  if late then markLate d1 key acc else d1

/-- Settings, steps and the selection of the scales, which act only at a Bell, with EN = 0 too (R17, R105). -/
def scaleWord (key : Nat) : Bool :=
  key == SC_SET_NS || key == SC_SET_NS + 0x100 || key == SC_STEP_HI || key == SC_STEP_HI + 0x100 || key == TSC_OUTSEL

/-- A class S write has reached its block (R33 to R38): at once while EN = 0, else staged. -/
def stageWrite (d : Dev) (key : Nat) (keys : List Nat) (acc : Option Access) : Dev :=
  if keyEn d key || scaleWord key then
    let d1 := stageTo d key keys (boundaryFor d key) acc
    match aoutOf key with
    | some n => stageTo d1 key keys (.audioBlock n) acc
    | none => d1
  else
    let d1 := tally (effWords d (boundaryFor d key) (keys.map (fun k => (k, rg d k)))) (keySlot key) 1 evStaged acc
    match aoutOf key with
    | some n => effWords d1 (.audioBlock n) (keys.map (fun k => (k, rg d k)))
    | none => d1

/-- Is a class S write to a window waiting (STAT.PEND, R37)? -/
def pendOf (d : Dev) (win : Nat) : Bool := d.staged.any (·.window == win)

/-- A reset of a block discards its staged writes (R38). -/
def discardStaged (d : Dev) (p : Nat → Bool) : Dev :=
  { d with staged := d.staged.filter (fun e => !p e.window) }

/-- A word write by the class of each field (R8, R9, R37, R38), once privilege and mapping have let it through. -/
def classWrite (d : Dev) (key : Nat) (val : Word) (acc : Option Access) : Dev :=
  match fieldsAt key with
  | none => d
  | some fs =>
    let old := rg d key
    let mRw := clsMask fs (fun c => c == .rw || c == .s || c == .sc || c == .sg)
    let mX := clsMask fs (· == .x)
    let en := keyEn d key
    let xBad := en && (old &&& mX) != (val &&& mX)
    let mW := if en then mRw else mRw ||| mX
    let d1 := setReg d key ((old &&& ~~~ mW) ||| (val &&& mW))
    let d2 := if xBad then wign d1 key acc else d1
    if clsMask fs (· == .sg) != 0 then stageWrite d2 key (groupOf key) acc
    else if clsMask fs (· == .s) != 0 then stageWrite d2 key [key] acc
    else d2

/-! ### Ring buffers of records (R356 to R358) -/

def rxRing (d : Dev) (q : Nat) : Ring := d.qmg.rxq.getD q {}
def txRing (d : Dev) (q : Nat) : Ring := d.qmg.txq.getD q {}
def updRx (d : Dev) (q : Nat) (f : Ring → Ring) : Dev := { d with qmg := { d.qmg with rxq := upd d.qmg.rxq q f } }
def updTx (d : Dev) (q : Nat) (f : Ring → Ring) : Dev := { d with qmg := { d.qmg with txq := upd d.qmg.txq q f } }

def cfgTx (q : Nat) : Nat := 0x3C4000 + q * 0x40
def cfgRx (q : Nat) : Nat := 0x3C5000 + q * 0x40
def rxEn (d : Dev) (q : Nat) : Bool := rgb d (cfgRx q) 31
def txEn (d : Dev) (q : Nat) : Bool := rgb d (cfgTx q) 31

/-- A receive completion (Table 15.8). -/
def rxComp (stamp : List Byte) (len rxerr port tc tci rflags kind : Nat) : List Byte :=
  padTo 14 stamp ++ leBytes 2 len ++ leBytes 2 rxerr ++ leBytes 1 port ++ leBytes 1 tc ++ leBytes 2 tci
    ++ leBytes 1 rflags ++ leBytes 1 kind ++ zeros 7 ++ leBytes 1 0x80

/-- Buffers of less than 64 bytes at the front of a receive ring are completed with LEN 0 and carry nothing (R357). -/
def skipShort : Nat → Ring → Ring
  | 0, r => r
  | n + 1, r =>
    match r.posted with
    | x :: rest =>
      if x.bufLen < 64 then
        skipShort n { r with posted := rest, filled := r.filled ++ [⟨[], x.addr, rxComp [] 0 0 0 0 0 0 0, 0, none⟩] }
      else r
    | [] => r

/-- Deliver a device record to RXQ q: whether it was delivered (R357, R358). A record longer than the next buffer sets SMALL. -/
def deliver (d : Dev) (q kind : Nat) (body : List Byte) : Dev × Bool :=
  if rxEn d q && !(rxRing d q).stop then
    let d1 := updRx d q (fun r => skipShort r.posted.length r)
    match (rxRing d1 q).posted with
    | [] => (d1, false)
    | x :: rest =>
      if x.bufLen / 64 * 64 < body.length then
        (statSet (setReg d1 (cfgRx q + 0x1C) (putBit (rg d1 (cfgRx q + 0x1C)) 3 true)) baseQmg 19, false)
      else
        (updRx d1 q (fun r => { r with
          posted := rest, filled := r.filled ++ [⟨body, x.addr, rxComp [] body.length 0 0 0 0 0 kind, 0, none⟩] }), true)
  else (d, false)

/-- A transmit completion (Table 15.7). -/
def txComp (stamp : List Byte) (valid : Bool) (status : Nat) : List Byte :=
  padTo 14 stamp ++ zeros 16 ++ leBytes 1 status ++ leBytes 1 (0x80 + b2n valid)

/-- The completions at the front of a transmit ring's fetched descriptors that are ready move on, strictly in order (R354). -/
def drainTx : List (Nat × Nat × Option (List Byte)) → List Done × List (Nat × Nat × Option (List Byte))
  | (n, c, some w) :: r => let (a, b) := drainTx r; (⟨[], 0, w, c, none⟩ :: a, b)
  | l => ([], l)

/-- Mark the descriptors of a frame complete; only the last carries the stamp, and the frame's cells are given back (R356, R359). -/
def markTx (no : Nat) (w wLast : List Byte) : List (Nat × Nat × Option (List Byte)) → List (Nat × Nat × Option (List Byte))
  | [] => []
  | (n, c, o) :: r =>
    if n == no then (n, 0, some (if r.any (·.1 == no) then w else wLast)) :: markTx no w wLast r
    else (n, c, o) :: markTx no w wLast r

/-! ### Cells (R359) -/

def cellsOf (len : Nat) : Nat := (len + 255) / 256

def takeCells (d : Dev) (n : Nat) : Dev :=
  { d with qmg := { d.qmg with granted := d.qmg.granted + n, held := d.qmg.held + n } }

def giveCells (d : Dev) (n : Nat) : Dev :=
  { d with qmg := { d.qmg with consumed := d.qmg.consumed + n, held := d.qmg.held - n } }

/-- A frame of TXQ q has completed with a status, and a stamp where TSREQ asked for one (R356). -/
def txDone (d : Dev) (q no status : Nat) (stamp : Option (List Byte)) : Dev :=
  let cells := sumN (((txRing d q).fetched.filter (·.1 == no)).map (·.2.1))
  updTx (giveCells d cells) q fun r =>
    let l := markTx no (txComp [] false status) (txComp (stamp.getD []) stamp.isSome status) r.fetched
    let (a, b) := drainTx l
    { r with fetched := b, filled := r.filled ++ a }

/-! ### The NV store (R116, R246, R298) -/

/-- What a byte of the NV store that nothing has written reads as: erased (DESIGN CHOICE, log 4). -/
def nvBlank (_ : Nat) : Byte := 0xFF

def nvGet (d : Dev) (a : Nat) : Byte := sparseGet nvBlank d.nv a

def nvPut (d : Dev) (a : Nat) : List Byte → Dev
  | [] => d
  | b :: r => nvPut { d with nv := sparseSet nvBlank d.nv a b } (a + 1) r

def nvRead (d : Dev) (a n : Nat) : List Byte := (List.range n).map (fun i => nvGet d (a + i))

/-! ### Bindings of transmit rings (R358) -/

/-- The port and traffic class whose RING link names a TXQ (R73). -/
def linkedTo (d : Dev) (q : Nat) : Option (Nat × Nat) :=
  (List.range 6).findSome? fun p =>
    (pitchOf d 7 p).bind fun x =>
      (x.links.find? (fun l => l.type == 8 && l.value.toNat / 256 % 64 == q)).map (fun l => (p, l.arg))

/-- A register names a TXQ for a record consumer: bound, or refused with BINDCONF where the ring has another consumer. -/
def bindTx (d : Dev) (en : Bool) (q : Nat) (other : Option Nat) : Option Nat × Dev :=
  if !en then (none, d)
  else if (linkedTo d q).isSome || other == some q then (none, statSet d baseQmg 18)
  else (some q, d)

/-- The rings the two consumers read: as bound, while the register still names the ring and no charter's link has taken it. -/
def aidRing (d : Dev) : Option Nat :=
  d.qmg.aidBound.filter (fun q => rgb d GN_RINGS 29 && rgf d GN_RINGS 21 16 == q && (linkedTo d q).isNone)
def mintRing (d : Dev) : Option Nat :=
  d.qmg.mintBound.filter (fun q => rgb d TOL_MINT 31 && rgf d TOL_MINT 21 16 == q && (linkedTo d q).isNone)

/-- GN_RINGS has been written. -/
def bindAid (d : Dev) : Dev :=
  let (b, d1) := bindTx d (rgb d GN_RINGS 29) (rgf d GN_RINGS 21 16) (mintRing d)
  { d1 with qmg := { d1.qmg with aidBound := b } }

/-- TOL_MINT has been written. -/
def bindMint (d : Dev) : Dev :=
  let (b, d1) := bindTx d (rgb d TOL_MINT 31) (rgf d TOL_MINT 21 16) (aidRing d)
  { d1 with qmg := { d1.qmg with mintBound := b } }

/-! ### Modes and energy -/

def modeCode : Mode → Nat
  | .off => 0
  | .bringup => 1
  | .minimal => 2
  | .standby => 3
  | .active => 4
  | .factory => 5

/-- A mode change (R43, R47): PREV, and STAT.MODECHG. -/
def setMode (d : Dev) (m : Mode) : Dev :=
  if d.gen.mode == m then d
  else statSet { d with gen := { d.gen with prevMode := modeCode d.gen.mode, mode := m } } 0 17

/-- In service: the guarantees apply (R10). -/
def inService (d : Dev) : Bool := d.gen.mode == .active || d.gen.mode == .standby

/-- FACTORY with a built fabric, ACTIVE or STANDBY: the fabric runs. -/
def fabricRuns (d : Dev) : Bool :=
  d.cht.cur.isSome && (d.gen.mode == .active || d.gen.mode == .standby || d.gen.mode == .factory)

/-- The stall that steers a target: ARG 0 TS-A, 1 TS-B, 0x10 + n APLL n (R70, Table 4.7). -/
def steeringStall (d : Dev) (arg : Nat) : Option Nat :=
  (List.range 32).find? (fun n => (linkOf d 1 n 2).any (·.arg == arg))

/-- The stall of FUNC 0x04, which serves the audio block (R70). -/
def audioStall (d : Dev) : Option Nat := (List.range 32).find? (fun n => pitchFunc d 1 n == 4)

/-- The working scale TS-O copies: false TS-A, true TS-B (R100, R107). -/
def selScale (d : Dev) : Bool := d.tsc.cur

def scaleOf (d : Dev) (b : Bool) : Scale := if b then d.tsc.b else d.tsc.a

def updScale (d : Dev) (b : Bool) (f : Scale → Scale) : Dev :=
  if b then { d with tsc := { d.tsc with b := f d.tsc.b } } else { d with tsc := { d.tsc with a := f d.tsc.a } }

def sclOf (d : Dev) (b : Bool) : Scl := if b then d.sclB else d.sclA

/-- The bound is void: through a condition of R14, or through LEDGER_BREACH, which ends only at a reset of TSC or of the chip (R16). -/
def voidOf (s : Scl) : Bool := s.isVoid || s.voidBreach

def updScl (d : Dev) (b : Bool) (f : Scl → Scl) : Dev :=
  if b then { d with sclB := f d.sclB } else { d with sclA := f d.sclA }

def updRef (d : Dev) (r : Nat) (f : RefMon → RefMon) : Dev := { d with refs := upd d.refs r f }
def updSel (d : Dev) (n : Nat) (f : Sel → Sel) : Dev := { d with sels := upd d.sels n f }
def updStall (d : Dev) (n : Nat) (f : Stall → Stall) : Dev := { d with stalls := upd d.stalls n f }
def updApll (d : Dev) (n : Nat) (f : Apll → Apll) : Dev := { d with apls := upd d.apls n f }
def updOut (d : Dev) (n : Nat) (f : Output → Output) : Dev := { d with outs := upd d.outs n f }
def updPort (d : Dev) (n : Nat) (f : Port → Port) : Dev := { d with ports := upd d.ports n f }

/-- The fuse shadows, or the blank array until they are valid (R435). -/
def fuses (d : Dev) : FuseImage :=
  if d.start.shadowsValid then d.start.fuses else ⟨false, false, 0, List.replicate 8 0, false, 0, [], 0, 0, 0, [], 0⟩

/-- A hold-up check: E covers a need of n µJ, from a sample no older than 1 ms, and no brownout hold is in force (R382, R432). -/
def energyFor (d : Dev) (n : Nat) : Bool :=
  d.key.eValid && d.t.toNat ≤ d.key.sampleT.toNat + 1000000 && n ≤ d.key.e && !d.power.hold

/-- TWN is configured: the charter names a partner (R21, R398). The twin link is configured while TWN CTRL.EN = 1. -/
def twinConfigured (d : Dev) : Bool := enOf d baseTwn

/-- This chip holds the Floor (R46, R400). -/
def holdsFloor (d : Dev) : Bool := d.gen.mode == .active && (!twinConfigured d || d.twn.pull)

end Sys2Proof.Machine
end

