-- ==== Sys2Proof/Machine/Report.lean ====
section
/-! DEFINITION. Fault sources, the log, consequential reports (R455 to R457, R461), and the outcome counters and queues that a fault's reaction discards. -/
namespace Sys2Proof.Machine
open Sys2Proof

/-! ### Sources (Table 20.1): slot in bits 15:8, number in bits 7:0 -/

def srcClockFail : Nat := 0x0101
def srcClockLoss : Nat := 0x0102
def srcBrownoutHold : Nat := 0x0103
def srcRstForced : Nat := 0x0104
def srcFltCons : Nat := 0x0201
def srcCharterAlt : Nat := 0x0401
def srcCharterSkip : Nat := 0x0402
def srcLedgerBreach : Nat := 0x0501
def srcRefLoss : Nat := 0x0701
def srcRefMarked : Nat := 0x0702
def srcRefDispute : Nat := 0x0703
def srcApllUnlock : Nat := 0x0901
def srcApllRefloss : Nat := 0x0902
def srcApllRealign : Nat := 0x0903
def srcGridFly : Nat := 0x0A01
def srcTdcCalFail : Nat := 0x0B01
def srcGnssGclk : Nat := 0x0C01
def srcGnssWithdraw : Nat := 0x0C02
def srcGnssJam : Nat := 0x0C03
def srcGnssFalsesig : Nat := 0x0C04
def srcPortLink : Nat := 0x0D01
def srcPortEccC : Nat := 0x0D02
def srcPortEccU : Nat := 0x0D03
def srcPortUnderrun : Nat := 0x0D04
def srcPortDeskew : Nat := 0x0D05
def srcPortLoopback : Nat := 0x0D06
def srcPortStuck : Nat := 0x0D07
def srcTolCons : Nat := 0x0E01
def srcPtpCons : Nat := 0x0F01
def srcQmgCons : Nat := 0x1001
def srcQmgDoorbell : Nat := 0x1002
def srcQmgDma : Nat := 0x1003
def srcTrngFail : Nat := 0x1101
def srcKeyCorrupt : Nat := 0x1102
def srcKeyJournal : Nat := 0x1103
def srcHoldupDegraded : Nat := 0x1104
def srcKeyTamper : Nat := 0x1105
def srcAudLoss : Nat := 0x1201
def srcAudSlip : Nat := 0x1202
def srcTwinVersion : Nat := 0x1301
def srcTwinSide : Nat := 0x1302
def srcTwinDualfloor : Nat := 0x1303
def srcTwinAuth : Nat := 0x1304
def srcTwinNopartner : Nat := 0x1305
def srcTwinSilent : Nat := 0x1306
def srcTwinFloorglitch : Nat := 0x1307
def srcTwinCfgdiff : Nat := 0x1308
def srcDrillOverdue : Nat := 0x1309
def srcHallCons : Nat := 0x1401
def srcBurstCut : Nat := 0x1402
def srcPrivDeny : Nat := 0x1403
def srcLockstep : Nat := 0x1601

/-- The source IND_TIMEOUT of a block with an indirect window (R455). -/
def srcIndTimeout (slot : Nat) : Nat := slot * 256 + 0xF0

/-- Class of a source (Table 20.1); none for a code that names no source. -/
def srcClass (code : Nat) : Option FaultClass :=
  if code % 256 == 0xF0 && hasInd (code / 256) then some .c
  else if [srcClockFail, srcBrownoutHold, srcRstForced, srcCharterAlt, srcCharterSkip, srcRefLoss, srcRefMarked,
      srcRefDispute, srcApllUnlock, srcApllRefloss, srcApllRealign, srcGridFly, srcTdcCalFail, srcGnssGclk,
      srcGnssWithdraw, srcGnssJam, srcGnssFalsesig, srcPortLink, srcPortEccC, srcQmgDoorbell, srcHoldupDegraded,
      srcAudLoss, srcAudSlip, srcTwinVersion, srcTwinSide, srcTwinAuth, srcTwinNopartner, srcTwinSilent,
      srcTwinFloorglitch, srcTwinCfgdiff, srcDrillOverdue, srcBurstCut, srcPrivDeny].contains code then some .c
  else if [srcPortEccU, srcPortUnderrun, srcPortDeskew, srcTolCons, srcPtpCons, srcQmgCons, srcQmgDma,
      srcKeyCorrupt, srcKeyJournal, srcTwinDualfloor].contains code then some .d
  else if [srcClockLoss, srcFltCons, srcLedgerBreach, srcPortLoopback, srcPortStuck, srcTrngFail, srcKeyTamper,
      srcHallCons, srcLockstep].contains code then some .u
  else none

/-! ### The log (R456, R457) -/

/-- The counters of a source (R457). -/
def fltSourceOf (d : Dev) (code : Nat) : FltSource :=
  (d.flt.sources.find? (·.code == code)).getD { code := code }

def putSource (l : List FltSource) (x : FltSource) : List FltSource :=
  if l.any (·.code == x.code) then l.map (fun y => if y.code == x.code then x else y) else l ++ [x]

def fltChanOf (d : Dev) (code chan : Nat) : FltChan :=
  (d.flt.chans.find? (fun c => c.code == code && c.chan == chan)).getD { code := code, chan := chan }

def putChan (l : List FltChan) (x : FltChan) : List FltChan :=
  if l.any (fun y => y.code == x.code && y.chan == x.chan) then
    l.map (fun y => if y.code == x.code && y.chan == x.chan then x else y)
  else l ++ [x]

def setChan (d : Dev) (x : FltChan) : Dev := { d with flt := { d.flt with chans := putChan d.flt.chans x } }

/-- Is a report of a block consequential to a reaction, one that waits for its turn included, and to which (R461)? It is stamped now; the checks of one Bell's audit end one after the other (R110). -/
def conseqOf (d : Dev) (code chan : Nat) : Option Reaction :=
  (d.flt.reactions ++ d.flt.waiting).find? fun r =>
    r.reach.testBit (code / 256)
      && (match r.ended with
          | none => true
          | some e => d.t.toNat ≤ e.toNat + 5 * ms)
      && (if r.startT == d.t && r.cls != .d then
            r.code / 256 < code / 256 || (r.code / 256 == code / 256
              && (r.chan < chan || (r.code == srcLedgerBreach && code == srcLedgerBreach)))
          else true)

/-- What the log made of a report. -/
structure Logged where
  dev : Dev
  seq : Word
  entrySeq : Word

/-- Does a report coalesce into an entry (R457)? -/
def coalesces (code chan : Nat) (cls : FaultClass) (conseq : Bool) (e : FltEntry) : Bool :=
  e.source == code && bits e.detail 31 24 == chan && e.cls == cls && e.conseq == conseq && e.count < 65535

/-- Bring the first coalescing entry up to date. -/
def coalesceInto (t : Tick) (code chan : Nat) (cls : FaultClass) (conseq : Bool) : List FltEntry → List FltEntry
  | [] => []
  | e :: r =>
    if coalesces code chan cls conseq e then { e with count := e.count + 1, tLast := t } :: r
    else e :: coalesceInto t code chan cls conseq r

/-- Take a report into the log: it gets its SEQ, and is coalesced, written or LOST (R456, R457). -/
def logTake (d : Dev) (code chan detail : Nat) (cls : FaultClass) (cause : Option Reaction) (inj : Bool) : Logged :=
  let seq := d.flt.nextSeq
  let src := fltSourceOf d code
  let conseq := cause.isSome
  let d := tally d (code / 256) 3 0x2F none
  match d.flt.log.find? (coalesces code chan cls conseq) with
  | some e =>
    ⟨{ d with flt := { d.flt with
        nextSeq := seq + 1,
        log := coalesceInto d.t code chan cls conseq d.flt.log,
        sources := putSource d.flt.sources { src with raised := src.raised + 1, coalesced := src.coalesced + 1 } } },
     seq, e.seq⟩
  | none =>
    if d.flt.log.length < 64 then
      let e : FltEntry := ⟨d.t, d.t, seq, w32 (chan * 2 ^ 24 + detail % 2 ^ 24), code, 1,
        ((cause.map (fun r => bits r.seq 15 0)).getD 0), cls, conseq, false, false, d.flt.lostBefore, inj⟩
      let d1 := { d with flt := { d.flt with
        nextSeq := seq + 1, log := d.flt.log ++ [e], lostBefore := false,
        sources := putSource d.flt.sources { src with raised := src.raised + 1, written := src.written + 1 } } }
      ⟨statSet d1 baseFlt 16, seq, seq⟩
    else
      let d1 := { d with flt := { d.flt with
        nextSeq := seq + 1, lostBefore := true,
        sources := putSource d.flt.sources { src with raised := src.raised + 1, lost := src.lost + 1 } } }
      ⟨statSet d1 baseFlt 17, seq, seq⟩

/-- A report of a class C source: logged, and nothing more happens (R458). -/
def logC (d : Dev) (code chan detail : Nat) : Dev :=
  (logTake d code chan detail .c (conseqOf d code chan) false).dev

/-! ### Outcome counters (R319, R339) -/

def bump (l : List Nat) (i : Nat) : List Nat := l.modify i (· + 1)
def unbump (l : List Nat) (i : Nat) : List Nat := l.modify i (· - 1)

/-- A message of the Crier falls due in a grant class. -/
def ptpDue (d : Dev) (cls : Nat) : Dev :=
  { d with ptp := { d.ptp with outc := d.ptp.outc.modify cls (fun l => bump (bump l 0) 4) } }

/-- A due message gets its outcome: 1 sent, 2 refused, 3 dropped at launch. -/
def ptpOutcome (d : Dev) (cls k : Nat) : Dev :=
  { d with ptp := { d.ptp with outc := d.ptp.outc.modify cls (fun l => unbump (bump l k) 4) } }

/-- The Tollgate takes a request of a class: 0 NTPv4, 1 NTS. -/
def tolTaken (d : Dev) (cls : Nat) : Dev :=
  { d with tol := { d.tol with outc := d.tol.outc.modify cls (fun l => bump (bump l 0) 5) } }

/-- A request gets its outcome: 1 answered, 2 refused, 3 dropped at launch, 4 dropped for overload (STAT.LDROP, OVERLOAD). -/
def tolOutcome (d : Dev) (cls k : Nat) : Dev :=
  let d1 := { d with tol := { d.tol with outc := d.tol.outc.modify cls (fun l => unbump (bump l k) 5) } }
  if k == 3 then statSet d1 baseTol 18 else if k == 4 then statSet d1 baseTol 17 else d1

/-! ### Port counters and discards (R278, R281, R282, Table 12.8) -/

def cntRxGood : Nat := 0
def cntRxFcs : Nat := 1
def cntRxRunt : Nat := 2
def cntRxOver : Nat := 3
def cntRxAlign : Nat := 4
def cntRxCode : Nat := 5
def cntRxNocredit : Nat := 6
def cntRxFiltered : Nat := 7
def cntRxPause : Nat := 8
def cntTxGood : Nat := 9
def cntTxPause : Nat := 10
def cntLMissed : Nat := 11
def cntLHorizon : Nat := 12
def cntLFull : Nat := 13
def cntTxDisc : Nat := 14
def cntPrpDup : Nat := 15
def cntPrpWronglan : Nat := 16
def cntLinkLoss : Nat := 19
def cntFecCorr : Nat := 17
def cntFecUncorr : Nat := 18
def cntRetries : Nat := 20

def macReg (port rel : Nat) : Nat := macWin port + rel

def macCount (d : Dev) (port i : Nat) : Dev := countUp d (MAC_CNT + port * 0x10000 + 4 * i) 31 0 1

def portOf (d : Dev) (p : Nat) : Port := d.ports.getD p {}

/-- A launch-time frame is dropped under R278: 1 missed, 2 horizon, 3 full. It is reported to its engine as a drop for a missed launch. -/
def dropLaunch (d : Dev) (port : Nat) (f : TxFrame) (k : Nat) : Dev :=
  let d1 := statSet (macCount d port (if k == 1 then cntLMissed else if k == 2 then cntLHorizon else cntLFull)) (macWin port) 20
  match f.src with
  | .ring q => txDone d1 q f.seq k none
  | .crier c => ptpOutcome d1 c 3
  | .tollgate c => tolOutcome d1 c 3
  | .plain => d1

/-- A frame of a class queue is discarded: because the port is not UP (R282), or because it can never pass (R281). -/
def discardFrame (d : Dev) (port : Nat) (f : TxFrame) (notUp : Bool) : Dev :=
  let d1 := macCount d port cntTxDisc
  match f.src with
  | .ring q => txDone d1 q f.seq 4 none
  | .crier c => ptpOutcome d1 c (if notUp then 2 else 3)
  | .tollgate c => tolOutcome d1 c 3
  | .plain => d1

/-- Discard everything a port holds to send (R282, R291, R293). -/
def discardQueued (d : Dev) (port : Nat) : Dev :=
  let p := portOf d port
  let d1 := p.queues.foldl (fun d q => q.foldl (fun d f => discardFrame d port f true) d) d
  let d2 := (p.launchQ ++ p.toLaunch).foldl (fun d f => dropLaunch d port f 1) d1
  updPort d2 port fun p => { p with
    queues := List.replicate 8 [], launchQ := [], toLaunch := [], busyUntil := none, fcPend := [] }

/-! ### The Hall's masters (R367) -/

/-- The master that a block reset of a slot resets. -/
def slotMaster : Nat → Option Nat
  | 16 => some 2
  | 14 => some 3
  | 15 => some 4
  | 12 => some 5
  | 19 => some 6
  | 3 => some 7
  | 4 => some 8
  | 2 => some 10
  | 5 => some 11
  | _ => none

/-- Cut the bursts of a master, one report each: how many beats the target had accepted is a free value (log 2). -/
def cutBursts (d : Dev) (m : Nat) : List HallReq → Dev
  | [] => d
  | r :: rest =>
    if r.master == m && 0 < r.beats then
      let (k, d1) := if r.write then drawBelow d r.beats else (0, d)
      let d2 := statSet (setReg d1 HAL_BCUT (w32 (m + r.target * 2 ^ 8 + k * 2 ^ 16 + (r.beats - k) * 2 ^ 24))) baseHal 16
      cutBursts (logC d2 srcBurstCut m (r.target * 2 ^ 16 + k * 2 ^ 8 + (r.beats - k))) m rest
    else cutBursts d m rest

/-- Reset a master of the Hall in the middle of whatever it has there (R367). -/
def resetMaster (d : Dev) (m : Nat) : Dev :=
  let d1 := cutBursts d m (d.hal.granted ++ d.hal.tagged)
  let left := d1.hal.granted.any (·.master == m) || d1.hal.tagged.any (·.master == m)
  { d1 with hal := { d1.hal with
      waiting := d1.hal.waiting.filter (·.master != m),
      draining := if left then m :: d1.hal.draining.filter (· != m) else d1.hal.draining } }

end Sys2Proof.Machine
end

