-- ==== Sys2Proof/Machine/Twinlink.lean ====
section
/-! DEFINITION. Forming and sending twin messages, and abdication (R395, R398, R407). -/
namespace Sys2Proof.Machine
open Sys2Proof

/-- SIDE and PROT of TWN_CFG. -/
def twinSide (d : Dev) : Nat := rgf d TWN_CFG 0 0
def twinProt (d : Dev) : Bool := rgb d TWN_CFG 1

/-- Messages but HELLO are protected: version 0x0201 and PROT on both sides (R398). -/
def twinProtected (d : Dev) (type : Nat) : Bool :=
  type != 1 && d.twn.agreed == 0x0201 && twinProt d && d.twn.partnerProt

/-- The 16-byte header of a message (R395); PROT tells the partner this side's setting (log 18). -/
def twinHeader (type mflags len seq bell : Nat) : List Byte :=
  beBytes 1 type ++ beBytes 1 mflags ++ beBytes 2 len ++ beBytes 4 seq ++ beBytes 8 bell

/-- The nonce of R398: SIDE in 4 bytes, then SEQ extended to 64 bits. -/
def twinNonce (side seq : Nat) : List Byte := beBytes 4 side ++ beBytes 8 seq

/-- The key in the Twin working register (Table 16.1, bit 2). -/
def twinKey (d : Dev) : Option (List Byte) :=
  let w := d.key.work.getD 2 {}
  if w.node.isSome then some w.key else none

/-- A message that needs a key the register does not hold, or fails its tag (R398). -/
def twinAuthFail (d : Dev) (type : Nat) : Dev :=
  logC (statSet (countUp d TWN_MSGERR 31 0 1) baseTwn 20) srcTwinAuth 0 (type % 256)

/-- Send a message: header, payload, then a CRC-32, or the protected payload and its tag (R395, R398). SEQ counts the messages of the sender. -/
def twinSend (d : Dev) (type : Nat) (payload : List Byte) : Dev :=
  let prot := twinProtected d type
  let flags := b2n d.twn.pull + 2 * twinSide d + 4 * b2n (twinProt d)
  let hdr := twinHeader type flags payload.length (d.twn.txSeq % 2 ^ 32) d.bellCnt.toNat
  if prot then
    match twinKey d with
    | none => twinAuthFail d type
    | some k =>
      let ct := leBytes (payload.length + 16) (Config.gcmSeal k (twinNonce (twinSide d) d.twn.txSeq) hdr payload)
      { emit d (.twin type (hdr ++ ct)) with twn := { d.twn with txSeq := d.twn.txSeq + 1 } }
  else
    { emit d (.twin type (hdr ++ payload ++ beBytes 4 (crc32 (hdr ++ payload)).toNat)) with
      twn := { d.twn with txSeq := d.twn.txSeq + 1 } }

/-- TWFLOOR is released or pulled by this chip; the FLOOR pin follows (R399). -/
def setPull (d : Dev) (v : Bool) : Dev := { d with twn := { d.twn with pull := v, floorLow := v || d.twn.floorLow } }

/-- This chip releases TWFLOOR: the line rises unless the partner pulls it. -/
def releaseFloor (d : Dev) : Dev := { d with twn := { d.twn with pull := false, floorLow := d.twn.partnerFloor } }

/-- The Floor changed hands: TWN_DRILL_AGE restarts (R21). -/
def floorMoved (d : Dev) : Dev := { d with twn := { d.twn with drillAge := 0 } }

/-- Discard a partial snapshot (R406, R411). -/
def dropPartial (d : Dev) : Dev :=
  if d.twn.partSnap.isSome then countUp { d with twn := { d.twn with partSnap := none } } TWN_EVT 7 0 1 else d

/-- The twin key is gone while messages are protected: the partial snapshot is discarded and the twin lock is lost (R398, R411). -/
def keyFollow (d : Dev) : Dev :=
  if twinProtected d 4 && (twinKey d).isNone then
    { dropPartial d with twn := { (dropPartial d).twn with locked := false, rtts := [], departs := 0 } }
  else d

/-- The partner is READY as this chip learns it: the link is UP, its HELLO carries no FLOOR, and it has acknowledged the snapshot of one of the last 2 Bells (R401). -/
def partnerReady (d : Dev) : Bool :=
  d.twn.link == .up && !d.twn.partnerFloor && (match d.twn.ackBell with
    | some b => d.bellCnt.toNat ≤ b.toNat + 1
    | none => false)

/-- Abdicate with a cause (R407): whether the chip did. Without a READY partner it logs TWIN_NOPARTNER and keeps the Floor. `fault`: a fault that stays latched made it abdicate, so the chip is not READY until a reset. -/
def abdicate (d : Dev) (cause : Nat) (fault : Bool) : Dev × Bool :=
  if holdsFloor d && twinConfigured d then
    if partnerReady d then
      let d1 := releaseFloor d
      let d2 := twinSend d1 8 (beBytes 1 cause ++ zeros 3)
      let d3 := countUp (setMode (floorMoved d2) .standby) TWN_EVT 23 16 1
      ({ d3 with twn := { d3.twn with
          causeTx := cause, abdFault := d3.twn.abdFault || fault, abdicateSeen := false, loaded := true,
          swapTarget := none, swapAccepted := false, selWait := true, selLate := d3.tsc.armedDone } }, true)
    else (logC d srcTwinNopartner 0 cause, false)
  else (d, false)

end Sys2Proof.Machine
end

