-- ==== Sys2Proof/Machine/Reset.lean ====
section
/-! DEFINITION. Resets of the chip and of a block, the start's beginning, failure and MINIMAL (R428 to R454, R293, R120, R267, R344, R362, R393, R426). -/
namespace Sys2Proof.Machine
open Sys2Proof

/-! ### Chip-level resets -/

/-- What of the key store lies in backup SRAM and in fuses (Table 19.2, R368). -/
def keyKept (k : Key) : Key :=
  { root := k.root, idRoot := k.idRoot, nodes := k.nodes, slots := k.slots, select := k.select, seq := k.seq,
    tamper := k.tamper, zcount := k.zcount, rootGen := k.rootGen, tcfg := k.tcfg }

/-- The NV writes that had started complete on hold-up energy (R382, R434). -/
def finishNv (d : Dev) : Dev :=
  let d1 := match d.tsc.ckptFrame with
    | some (i, l) => nvPut d (0x20000 + 4096 * i) l
    | none => d
  match d1.ptp.storing with
  | some (p, l) => nvPut d1 (0xC000 + 16 * p) l
  | none => d1

/-- A domain that failed stays failed until a cold reset (R436). -/
def keptDomain : DomainState → DomainState
  | .failed => .failed
  | _ => .waiting

/-- A reset cuts a flash write short: the slot fails verification from then on (R94). -/
def cutWrite (c : Cht) : Cht :=
  let cut := if c.st == .writing then c.slot.toList else []
  { c with aOk := c.aOk && !cut.contains 0, bOk := c.bOk && !cut.contains 1, torn := cut ++ c.torn.filter (fun s => !cut.contains s) }

/-- What of the loader outlasts a reset of chip reach: what is known of the flash slots. -/
def flashKept (c : Cht) : Cht := let k := cutWrite c; { aOk := k.aOk, bOk := k.bOk, torn := k.torn }

/-- The device after a reset of chip reach: the backup domain, the NV store and, in a warm reset, the fuse shadows stay (Table 19.6). The structure in effect goes: the start that follows has none until it has loaded one (R82; R90 leaves it as it is, DESIGN CHOICE, log 52). -/
def chipCleared (d : Dev) (cold : Bool) : Dev :=
  { power := d.power
    backup := d.backup
    nv := (finishNv d).nv
    gnsStore := d.gnsStore
    freeIdx := d.freeIdx
    jtag := d.jtag
    out := d.out
    resp := d.resp
    start := if cold then { minimalDue := d.start.minimalDue }
      else { shadowsValid := d.start.shadowsValid, fuses := d.start.fuses, minimalDue := d.start.minimalDue,
             domains := d.start.domains.map keptDomain }
    key := keyKept d.key
    cht := flashKept d.cht
    regs := sparseSet resetWord [] CHT_BOOT (rg d CHT_BOOT &&& 1)
    tol := { e := d.tol.e } }

/-- LIMIT (R444). -/
def limitOf (d : Dev) : Nat := let n := (fuses d).startLimit; if n == 0 then 3 else n

/-- The 60th Bell in service has cleared ATTEMPT and IN_ATTEMPT (R444). -/
def startSuccess (d : Dev) : Dev :=
  if d.backup.inAttempt && 60 ≤ d.backup.bells then { d with backup := { d.backup with attempt := 0, inAttempt := false } }
  else d

/-- A reset while IN_ATTEMPT = 1 counts as a failed attempt with reason 0x09 (R444); a reset in MINIMAL clears the counter (R447). The next start compares ATTEMPT with LIMIT once its trim load completes. -/
def earlyReset (d0 : Dev) (detail : Nat) : Dev :=
  let d := startSuccess d0
  if d.gen.mode == .minimal then
    { d with backup := { d.backup with attempt := 0, inAttempt := false, lastFail := 0 } }
  else if d.backup.inAttempt then
    let n := min 7 (d.backup.attempt + 1)
    { d with
      backup := { d.backup with attempt := n, inAttempt := false, bells := 0, lastFail := 9, failDetail := detail },
      start := { d.start with minimalDue := true } }
  else d

/-- Count a reset source (R449) and record it (R448). -/
def countReset (d : Dev) (src : Nat) : Dev :=
  { d with backup := { d.backup with
      rstCnt := d.backup.rstCnt.modify src (fun n => min 65535 (n + 1)), lastSrc := src } }

/-- Gate every output, take every port down, disable every solution (R267, R446). -/
def quietDown (d : Dev) : Dev :=
  { d with
    gen := { d.gen with coresRun := false }
    outs := d.outs.map (fun _ => { run := false, cause := 5 }),
    ports := d.ports.map (fun _ => {}),
    pulses := d.pulses.map (fun _ => {}), grids := d.grids.map (fun _ => {}), trigs := d.trigs.map (fun _ => {}),
    gns := { d.gns with sols := d.gns.sols.map (fun _ => {}), chans := d.gns.chans.map (fun _ => {}) }
    aud := {} }

/-- Entry into MINIMAL (R445, R446). -/
def enterMinimal (d : Dev) : Dev :=
  let d1 := setMode (quietDown d) .minimal
  { d1 with
    backup := { d1.backup with fallback := d1.backup.lastFail, fallbackDetail := d1.backup.failDetail },
    start := { d1.start with phase := .done, minimalDue := false },
    cht := { d1.cht with st := .idle, startSlot := none } }

/-- A start begins: the trim load, or clock bring-up where the shadows are valid (R435), or MINIMAL at once where ATTEMPT has reached LIMIT (R444). -/
def beginStart (d : Dev) : Dev :=
  if d.start.shadowsValid then
    if d.start.minimalDue && limitOf d ≤ d.backup.attempt then enterMinimal d
    else { d with start := { d.start with phase := .clocks, minimalDue := false } }
  else { d with start := { d.start with phase := .trimLoad } }

/-- The device held in a reset of chip reach: nothing moves until its release. -/
def holdReset (d : Dev) (cold : Bool) : Dev :=
  let d1 := chipCleared d cold
  { d1 with start := { d1.start with phase := .held } }

/-- A warm reset by a source of Table 19.6 that releases by itself: the watchdog, an escalation, software (R448). -/
def warmReset (d : Dev) (src : Nat) : Dev :=
  beginStart (chipCleared (countReset (earlyReset d src) src) false)

/-- A start fails in BRINGUP (R444): LASTFAIL, ATTEMPT, then MINIMAL at the limit, else a warm reset that is no reset source. In FACTORY nothing changes (R489). -/
def startFail (d : Dev) (reason detail : Nat) : Dev :=
  if d.gen.mode == .factory then d
  else
    let n := min 7 (d.backup.attempt + 1)
    let d1 := { d with backup := { d.backup with attempt := n, lastFail := reason, failDetail := detail } }
    if limitOf d ≤ n then enterMinimal d1 else beginStart (chipCleared d1 false)

/-- Entry into ACTIVE or STANDBY (R443, R444). -/
def enterService (d : Dev) (m : Mode) : Dev :=
  let d1 := setMode d m
  { d1 with
    gen := { d1.gen with kickT := d1.t },
    start := { d1.start with phase := .done, minimalDue := false },
    backup := { d1.backup with inAttempt := true, bells := 0 } }

/-! ### Block resets (R450 to R452) -/

/-- Blocks that RST_CMD refuses: GEN, RST, HAL, KEY, BKD (R450). -/
def resetRefused (slot : Nat) : Bool := slot == 0 || slot == 1 || slot == 17 || slot == 20 || slot == 21

/-- The slot whose BLK_ID.CODE a TARGET names: the base offset shifted right by 16 (R55, R450). -/
def slotOfCode (code : Nat) : Option Nat := (List.range 22).find? (fun s => slotBase s / 65536 == code)

/-- End of a slot's window. -/
def slotEnd (slot : Nat) : Nat := slotBases.getD (slot + 1) windowsEnd

/-- Does a key belong to a slot, or to one channel of it (0xFF: all)? -/
def inTarget (slot chan key : Nat) : Bool :=
  keySlot key == slot && (chan == 0xFF || (slot != 8 && slot != 13)
    || keyWin key == (if slot == 8 then stlWin chan else macWin chan))

/-- What a requester has of its own in a target (R58, R62): held words and selections, and IND_ADDR and IND_STAT where the whole block is reset. -/
def wipeReq (slot chan : Nat) (q : ReqState) : ReqState :=
  { q with
    held := q.held.filter (fun e => !inTarget slot chan e.1)
    sel := q.sel.filter (fun e => !inTarget slot chan e.1)
    indAddr := q.indAddr.filter (fun e => e.1 != slot)
    indStat := q.indStat.filter (fun e => e.1 != slot) }

/-- The blocks that a non-essential domain clocks: slot, or slot and every channel. -/
def domainSlot (dom : Nat) : Option (Nat × Nat) :=
  match dom with
  | 5 => some (16, 255)
  | 8 => some (12, 255)
  | 9 => some (12, 255)
  | 10 => some (11, 255)
  | 12 => some (19, 255)
  | 13 => some (13, 255)
  | _ => none

/-- A block that R437 left unbuilt stays in reset (R452). -/
def unbuilt (d : Dev) (h : Nat × Nat) : Bool :=
  (List.range 20).any (fun k => domainSlot k == some h && (match d.start.domains.getD k .waiting with
    | .failed => true
    | .deferred => true
    | _ => false))

/-- Registers of a target back to their reset values, staged writes discarded (R38), latches cleared (R460). A write on its way to the block's indirect space goes with it. -/
def wipeTarget (d : Dev) (slot chan : Nat) : Dev :=
  let all := chan == 0xFF || (slot != 8 && slot != 13)
  { d with
    regs := d.regs.filter (fun e => !inTarget slot chan e.1),
    eff := d.eff.filter (fun e => !inTarget slot chan e.1),
    staged := d.staged.filter (fun e => !inTarget slot chan e.window),
    flt := { d.flt with chans := d.flt.chans.map (fun c =>
      if c.code / 256 == slot && (all || c.chan == chan) then { c with latched := false, perm := false, retired := false } else c) },
    gen := { d.gen with heldInReset := d.gen.heldInReset.filter (fun h => unbuilt d h || !(h.1 == slot && (all || h.2 == chan))) }
    indWait := d.indWait.filter (fun w => w.2.1 != slot),
    pcie0 := wipeReq slot chan d.pcie0, pcie1 := wipeReq slot chan d.pcie1
    cores := wipeReq slot chan d.cores, mspi := wipeReq slot chan d.mspi }

/-- Registers that a reset of TSC keeps: MODE, FADJ and SEL read the values in effect (R120). -/
def tscKeptWords (d : Dev) : List (Nat × Word) :=
  [TSC_OUTSEL, SC_CTRL, SC_CTRL + 0x100, SC_FADJ_LO, SC_FADJ_HI, SC_FADJ_LO + 0x100, SC_FADJ_HI + 0x100].map
    (fun k => (k, ef d k))

/-- What a TSC reset does to a working scale (R120): SC_ANC and SC_SUM read 0 until the next Bell re-anchors. A checkpoint that is due or being written is not the scale's: it goes on (R117). -/
def scaleTscReset (s : Scale) : Scale :=
  { s with breach := false, reanchor := true, anchor := 0, offer := none, setReq := none, stepReqs := [], sum := 0, lwp := 0 }

/-- Ports of a function, in port order (R286). -/
def portsOfFunc (d : Dev) (f : Nat) : List Nat := (List.range 6).filter (fun p => pitchFunc d 7 p == f)

/-- The partner of a PRP port: the k-th LAN A port goes with the k-th LAN B port (R286). -/
def prpPartner (d : Dev) (p : Nat) : Option Nat :=
  let a := portsOfFunc d 2
  let b := portsOfFunc d 3
  if a.contains p then b[a.idxOf p]? else if b.contains p then a[b.idxOf p]? else none

/-- A port's own part of a reset (R293): DISABLED, nothing queued, gates open. -/
def clearPort (d : Dev) (n : Nat) : Dev :=
  let d1 := discardQueued d n
  let p := portOf d1 n
  let d2 := match prpPartner d n with
    | some q => updPort d1 q (fun x => { x with prp := [] })
    | none => d1
  updPort d2 n (fun _ => { prpSeq := p.prpSeq })

def isRingFrame (f : TxFrame) : Bool :=
  match f.src with
  | .ring _ => true
  | _ => false

/-- Frames that rings have fetched are discarded and counted in TX_DISC at their port (R362). -/
def dropRingFrames (d : Dev) : Dev :=
  (List.range 6).foldl (fun d n =>
    let p := portOf d n
    let l := ((p.queues.flatMap id) ++ p.launchQ ++ p.toLaunch).filter isRingFrame
    let d1 := l.foldl (fun d _ => macCount d n cntTxDisc) d
    let keep := fun (q : List TxFrame) => q.filter (fun f => !isRingFrame f)
    updPort d1 n (fun p => { p with queues := p.queues.map keep, launchQ := keep p.launchQ, toLaunch := keep p.toLaunch })) d

/-- Received frames whose last descriptor waits to be written back were bound for an RXQ: they count in RX_NOCREDIT (R362). -/
def dropBound (d : Dev) (r : Ring) : Dev :=
  r.filled.foldl (fun d x => match x.port with
    | some (p, _) => if leAt x.comp 0x16 1 % 2 == 0 then macCount d p cntRxNocredit else d
    | none => d) d

/-- Every frame and descriptor of the rings is gone and every ring's EN is clear; ISSUED and its fellows restart when EN rises (R360, R362). -/
def ringsCleared (d : Dev) : Dev :=
  let d1 := d.qmg.rxq.foldl dropBound (dropRingFrames d)
  let cells := sumN ((d1.qmg.txq ++ d1.qmg.rxq).map (fun r => sumN (r.filled.map (·.cells)) + sumN (r.fetched.map (·.2.1))))
  let bare := fun (r : Ring) => { r with posted := [], fetched := [], filled := [], armed := false, since := 0, pending := false }
  let d2 := { giveCells d1 cells with qmg := { (giveCells d1 cells).qmg with
    txq := d1.qmg.txq.map bare, rxq := d1.qmg.rxq.map bare, portHeld := List.replicate 6 0 } }
  (List.range 64).foldl (fun d q =>
    let d1 := setReg d (cfgTx q) (putBit (rg d (cfgTx q)) 31 false)
    setReg d1 (cfgRx q) (putBit (rg d1 (cfgRx q)) 31 false)) d2

/-- PCIe's reset of the rings and the interrupt map (R362). -/
def pcieRings (d : Dev) : Dev := wipeRange (ringsCleared d) QMG_IMAP (QMG_IMAP + 1024)

/-- The fate of a message that a block's reset left behind in a port's queue counts no more: the counters it would move have restarted (R12). -/
def orphanFrames (d : Dev) (p : TxSource → Bool) : Dev :=
  let f := fun (f : TxFrame) => if p f.src then { f with src := .plain, follow := none, grant := none, track := none } else f
  { d with ports := d.ports.map fun x => { x with
      queues := x.queues.map (·.map f), launchQ := x.launchQ.map f, toLaunch := x.toLaunch.map f } }

def byCrier : TxSource → Bool
  | .crier _ => true
  | _ => false

def byTollgate : TxSource → Bool
  | .tollgate _ => true
  | _ => false

/-- What a reset of SCL leaves of a scale's bound: a void and its way out (R16), the instants from which holdover counts and what is frozen then, for the stall goes on (R129, R142, log 51). -/
def sclKept (s : Scl) : Scl :=
  { isVoid := s.isVoid, voidBreach := s.voidBreach, clearFrom := s.clearFrom, reanchored := s.reanchored,
    tEntry := s.tEntry, freeRunFrom := s.freeRunFrom, timeRefT := s.timeRefT, tempInt := s.tempInt, lastDT := s.lastDT,
    comp := s.comp, total := s.total, bellTotal := s.bellTotal, frozen := s.frozen, snap := s.snap, blank := true }

/-- The running state of a block at its reset; the registers are wiped apart. -/
def clearState (d : Dev) (slot chan : Nat) : Dev :=
  let chans := fun (n : Nat) => if chan == 0xFF then List.range n else [chan]
  match slot with
  | 2 => { d with flt := {} }
  | 3 => { d with tal := {} }
  | 4 => { d with cht := { cutWrite d.cht with
      st := .idle, buf := [], startSlot := none, slot := none, errCode := 0, errSection := 0,
      shadow := none, shadowIsDelta := false, delta := [], target := none } }
  | 5 => { d with
      tsc := { d.tsc with
        a := scaleTscReset d.tsc.a, b := scaleTscReset d.tsc.b, breachO := false, cause := 0,
        ringQueue := [], ckptLast := 0, ckptValid := false },
      sclA := { d.sclA with voidBreach := false }, sclB := { d.sclB with voidBreach := false } }
  | 6 => { d with sclA := sclKept d.sclA, sclB := sclKept d.sclB, stamps := List.replicate 6 0 }
  | 7 => { d with refs := List.replicate 32 {}, sels := d.sels.map (fun s => { s with marks := [], disputes := [] }) }
  | 8 => (chans 32).foldl (fun d n => updSel (updStall d n (fun _ => {})) n (fun _ => {})) d
  | 9 => { d with apls := List.replicate 4 {}, outs := d.outs.map (fun _ => {}) }
  | 10 => { d with pulses := List.replicate 8 {}, grids := List.replicate 8 {}, trigs := List.replicate 16 {} }
  | 11 => { d with tdc := {} }
  | 12 => { d with gns := {
      nav := d.gnsStore.nav.map (fun x => { x with stored := true }), storeT := d.gns.storeT, weekDue := d.gns.weekDue,
      gclkF := d.gns.gclkF, gclkBadT := d.gns.gclkBadT, epochV := d.gns.epochV } }
  | 13 => (chans 6).foldl clearPort d
  | 14 =>
    { orphanFrames d byTollgate with
      taken := d.taken.filter (·.ptp)
      tol := { e := d.tol.e, age := d.tol.age, startAdv := d.tol.startAdv,
               lockedAt := d.tol.lockedAt, lastRef := d.tol.lastRef, partnerRefId := d.tol.partnerRefId } }
  | 15 => { orphanFrames d byCrier with
      ptp := { cals := d.ptp.cals, storing := d.ptp.storing, stepCnt := d.ptp.stepCnt }, taken := d.taken.filter (fun x => !x.ptp) }
  | 16 => { ringsCleared d with qmg := { msix := d.qmg.msix } }
  | 18 => { d with aud := {} }
  | 19 => { releaseFloor d with twn := {
      floorLow := d.twn.partnerFloor, partnerFloor := d.twn.partnerFloor,
      drillAge := d.twn.drillAge, drillLogged := d.twn.drillLogged, loaded := d.twn.loaded, snap := d.twn.snap, abdFault := d.twn.abdFault } }
  | _ => d

/-- The registers of TSC and of GNS that outlast a reset of their block (R120, R267). -/
def keptWords (d : Dev) (slot : Nat) : List (Nat × Word) :=
  if slot == 5 then tscKeptWords d
  else if slot == 4 then [(CHT_BOOT, rg d CHT_BOOT)]
  else []

/-- A block's reset is asserted (R451, R452). -/
def clearTarget (d : Dev) (slot chan : Nat) : Dev :=
  let kept := keptWords d slot
  let d1 := clearState (wipeTarget d slot chan) slot chan
  let d2 := kept.foldl (fun d e => setBoth d e.1 e.2) d1
  match slotMaster slot with
  | some m => resetMaster d2 m
  | none => d2

/-- Write initial values as a build does: while EN = 0, so class X and class S fields take effect at once (R74, R38). -/
def writeInit (d : Dev) (key : Nat) (val : Word) : Dev :=
  match fieldsAt key with
  | none => d
  | some fs =>
    let m := clsMask fs (fun c => c == .rw || c == .x || c == .s || c == .sc || c == .sg)
    let w := (rg d key &&& ~~~ m) ||| (val &&& m)
    setBoth d key w

/-- Blocks that every charter builds, and those a pitch kind builds (Tables 4.1, 4.11; log 6). -/
def builtBlocks (f : Fabric) : List Nat :=
  let has := fun (k : Nat) => f.pitches.any (·.kind == k)
  [0, 1, 2, 3, 4, 5, 6, 7, 16, 17, 20, 21]
    ++ (if has 2 || has 3 then [9] else [])
    ++ (if has 4 || has 5 || has 6 then [10] else [])
    ++ (if has 7 then [14, 15] else [])

/-- A slot or channel is held in reset (R437, R459). -/
def heldInReset (d : Dev) (slot chan : Nat) : Bool :=
  d.gen.heldInReset.any (fun h => h.1 == slot && (h.2 == 255 || h.2 == chan))

/-- Set CTRL.EN in every window a fabric builds. -/
def setEnables (d : Dev) (f : Fabric) (p : Nat → Nat → Bool) : Dev :=
  let d1 := (builtBlocks f).foldl (fun d s => if p s 255 && !heldInReset d s 0 then setEn d (slotBase s) true else d) d
  f.pitches.foldl (fun d x =>
    if x.kind == 1 && p 8 x.index && !heldInReset d 8 x.index then setEn d (stlWin x.index) true
    else if x.kind == 7 && p 13 x.index && !heldInReset d 13 x.index then setEn d (macWin x.index) true
    else d) d1

/-- Domain entries as PROFILES lists them (R77, R308): an entry keeps its state where its port and domain stay and the port is not built anew; a new one starts in LISTENING where it is slaveOnly, else in MASTER (log 14). -/
def buildEntries (d : Dev) (ps : List Profile) (fresh : Nat → Bool) : List DomEntry :=
  (List.range 16).map fun e =>
    match ps[e]? with
    | some p =>
      let old := d.ptp.entries.getD e {}
      let base : DomEntry := if old.built && old.port == p.port && old.domain == p.domain && !fresh p.port then old
        else { portState := if p.role == 2 then 4 else 6 }
      { base with built := true, port := p.port, domain := p.domain, profile := p.profile, role := p.role, scale := p.scale }
    | none => {}

/-- PT_DCFG as a profile sets it (Table 13.2); FWD is 1. -/
def profileWord (p : Nat) : Word :=
  match p with
  | 2 => 0xFCFDFCC0
  | 3 => 0xFC00FCC9
  | 4 => 0xFDFEFD81
  | 5 => 0xFD01FD81
  | 6 => 0x0000FD84
  | _ => 0x00010080

/-- The domain entries of a charter; a new entry starts from its profile's values (R308, R320). -/
def buildDomains (d : Dev) (ps : List Profile) (fresh : Nat → Bool) : Dev :=
  let es := buildEntries d ps fresh
  let d1 := (List.range 16).foldl (fun d e =>
    let x : DomEntry := es.getD e {}
    let old := d.ptp.entries.getD e {}
    if x.built && !(old.built && old.port == x.port && old.domain == x.domain && old.profile == x.profile) then
      setBoth d (PT_DCFG + e * 0x40) (profileWord x.profile)
    else d) d
  { d1 with ptp := { d1.ptp with entries := es } }

/-- A reset block reloads its charter build (R452): the initial values that lie in it, the lane words of a port, and EN as the build set it. -/
def reloadTarget (d : Dev) (slot chan : Nat) : Dev :=
  match d.cht.cur with
  | none => d
  | some c =>
    let d1 := c.fabric.pitches.foldl (fun d p =>
      p.inits.foldl (fun d iv => if inTarget slot chan iv.1 then writeInit d iv.1 iv.2 else d) d)
      (if slot == 15 then buildDomains d c.fabric.profiles (fun _ => true) else d)
    setEnables d1 c.fabric (fun s n => s == slot && (chan == 0xFF || (slot != 8 && slot != 13) || n == chan))

/-- Begin a block reset: the block quiesces (R451). For the control cores `slot` is TARGET as the command carried it. -/
def beginBlockReset (d : Dev) (slot chan : Nat) (cores : Bool) : Dev :=
  { d with
    gen := { d.gen with rst := some ⟨slot, chan, cores, 0, false, d.t⟩ },
    backup := { d.backup with lastTarget := if cores then slot else slotBase slot / 65536, lastChan := chan, lastForced := false } }

/-- The reset of the block is asserted, forced or after idle (R451): RST_CNT7 counts it. While the control cores stand, TWFLOOR is released (R399). -/
def assertBlockReset (d : Dev) (r : BlockReset) (forced : Bool) : Dev :=
  let d1 := { d with
    gen := { d.gen with rst := some { r with stage := 1, forced := forced, startT := d.t } },
    backup := { d.backup with
      rstCnt := d.backup.rstCnt.modify 7 (fun n => min 65535 (n + 1)),
      rstForced := if forced then min 65535 (d.backup.rstForced + 1) else d.backup.rstForced,
      lastForced := forced } }
  let d2 := if forced then
      logC (statSet d1 baseRst 18) srcRstForced r.chan ((if r.cores then r.target else slotBase r.target / 65536) * 2 ^ 16)
    else d1
  if r.cores then
    let d3 := { releaseFloor d2 with gen := { d2.gen with coresRun := false }, cores := {} }
    resetMaster { d3 with flt := { d3.flt with chans := d3.flt.chans.map (fun c =>
      if c.code / 256 == 22 then { c with latched := false, perm := false, retired := false } else c) } } 1
  else clearTarget d2 r.target r.chan

/-- 64 cycles of a block's clock, ns, rounded up (R451): Table 2.2 gives the clocks of TDC, GNS, MACn, QMG and TWN, that of AUD is 256 times its rate; the blocks of the time bus are clocked in TCK, the others in SYS (DEDUCED, log 57). -/
def resetHold (d : Dev) (slot : Nat) : Nat :=
  match slot with
  | 11 => 128
  | 12 => 196
  | 13 => 159
  | 16 => 256
  | 18 => ceilDiv 250000000 ([32000, 44100, 48000, 88200, 96000, 176400, 192000].getD d.aud.rate 48000)
  | 19 => 159
  | _ => if 5 ≤ slot && slot ≤ 10 then 64 else 80

/-- When RST_QTIMEOUT expires, and when the reset of a block has been held for its time (R451). -/
def quiesceDue (d : Dev) : Option Nat :=
  match d.gen.rst with
  | some r => if r.stage == 0 then some (r.startT.toNat + 1000 * max 10 (min 100000 (rgf d RST_QTIMEOUT 16 0))) else none
  | none => none

def releaseDue (d : Dev) : Option Nat :=
  match d.gen.rst with
  | some r => if r.stage == 1 then some (r.startT.toNat + resetHold d (if r.cores then 255 else r.target)) else none
  | none => none

/-- The release of a block reset (R451, R452). -/
def releaseBlockReset (d : Dev) (r : BlockReset) : Dev :=
  let d1 := { d with gen := { d.gen with rst := none } }
  if r.cores then { d1 with gen := { d1.gen with coresRun := true } }
  else reloadTarget d1 r.target r.chan

end Sys2Proof.Machine
end

