-- ==== Sys2Proof/Machine/React.lean ====
section
/-! DEFINITION. Reactions to faults: the POLICY, grace, retries, the permanent ladder, and the report of a source of any class (R22, R78, R458 to R462). -/
namespace Sys2Proof.Machine
open Sys2Proof

/-- The built-in POLICY (R78). -/
def builtinPolicy : Policy := { graceMs := 20, retryMax := 3, retryWindow := 60, defLadder := 3, entries := [] }

/-- The POLICY that applies: the charter's, or the built-in one before a fabric is built, in MINIMAL and in FACTORY without a charter (R78). -/
def policyOf (d : Dev) : Policy :=
  if d.gen.mode == .minimal then builtinPolicy
  else match d.cht.cur with
    | some c => c.fabric.policy
    | none => builtinPolicy

/-- The POLICY entry of a source, or its default entry (R78). -/
def policyEntry (d : Dev) (code : Nat) : PolicyEntry :=
  let p := policyOf d
  (p.entries.find? (·.source == code)).getD ⟨code, p.defLadder, 0xFF, 2 ^ (code / 256)⟩

def retryLimit (d : Dev) (code : Nat) : Nat :=
  let e := policyEntry d code
  if e.retry == 0xFF then (policyOf d).retryMax else e.retry

/-- Slots clocked from a domain or from one derived from it, for the reach of CLOCK_LOSS (R461, Tables 2.1 and 2.2). OSC feeds TCK, SYS, LANE and TDC; SYS feeds LANE. -/
def slotsOfDomain (dom : Nat) : List Nat :=
  let lane := [0, 1]
  let sys := [2, 3, 4, 6, 14, 15, 16, 17, 20, 22]
  let tck := [5, 7, 8, 9, 10]
  match dom with
  | 0 => [21]
  | 1 => lane ++ sys ++ tck ++ [11]
  | 2 => tck
  | 3 => lane ++ sys
  | 4 => lane
  | 5 => [16, 23]
  | 6 => [23]
  | 8 => [12]
  | 9 => [12]
  | 10 => [11]
  | 11 => [18]
  | 12 => [19]
  | n => if 13 ≤ n && n ≤ 19 then [13] else []

/-- The reach of a reaction (R78, R461). -/
def reachOf (d : Dev) (code detail : Nat) : Nat :=
  let e := policyEntry d code
  if code == srcClockLoss then (slotsOfDomain (detail % 256)).foldl (fun r s => r ||| 2 ^ s) e.reach else e.reach

/-- Faults that make the chip abdicate whatever the ladder's bit 2 says, and their cause (R22, R459, Table 17.5). -/
def abdicateCause (code : Nat) : Option Nat :=
  if code == srcHallCons || code == srcLedgerBreach || code == srcFltCons then some 1
  else if code == srcPortLoopback then some 3
  else if code == srcLockstep then some 4
  else none

/-- A block whose channels a reaction can retire one by one (Table 3.1). -/
def hasChannels (slot : Nat) : Bool := slot == 8 || slot == 13

/-- Step 2 of the ladder: retire the channel, or hold the block in reset with CTRL.EN = 0 (R459). TSC, SCL and KEY are never retired; a block that R450 refuses to reset is not held either (log 7). -/
def retire (d : Dev) (code chan : Nat) : Dev :=
  let slot := code / 256
  if slot == 13 then
    let d1 := discardQueued d chan
    let d2 := updPort d1 chan (fun p => { p with st := .retired, fltPerm := true, rclk := false })
    { d2 with gen := { d2.gen with heldInReset := (13, chan) :: d2.gen.heldInReset } }
  else if slot == 8 then
    { setEn d (stlWin chan) false with gen := { d.gen with heldInReset := (8, chan) :: d.gen.heldInReset } }
  else if slot == 5 || slot == 6 || resetRefused slot then d
  else if slot == 22 then { d with gen := { d.gen with coresRun := false } }
  else if slot < 22 then
    let kept := d.flt.chans
    let d1 := setEn (clearTarget d slot 0xFF) (slotBase slot) false
    { d1 with gen := { d1.gen with heldInReset := (slot, 255) :: d1.gen.heldInReset },
              flt := { d1.flt with chans := kept } }
  else d

/-- Step 2 has something to do for a block: TSC, SCL and KEY are never retired, nor a block that R450 refuses to reset. -/
def retirable (slot : Nat) : Bool := slot != 5 && slot != 6 && slot ≤ 22 && !resetRefused slot

/-- Mark the entry of a permanent report (R459). -/
def markPerm (d : Dev) (seq : Word) : Dev :=
  { d with flt := { d.flt with log := d.flt.log.map (fun e => if e.seq == seq then { e with perm := true } else e) } }

/-- The permanent reaction that runs: one whose steps have not ended (R459). -/
def runningPerm (d : Dev) : Option Reaction := d.flt.reactions.find? (fun r => 2 ≤ r.step && r.ended.isNone)

def sameReaction (a b : Reaction) : Bool := a.code == b.code && a.chan == b.chan && a.seq == b.seq

/-- Replace a reaction, or add it in front. -/
def putReaction (d : Dev) (r : Reaction) : Dev :=
  { d with flt := { d.flt with reactions := r :: d.flt.reactions.filter (fun x => !sameReaction x r) } }

/-- Reactions whose consequential window is over are forgotten (R461). -/
def pruneReactions (d : Dev) : Dev :=
  { d with flt := { d.flt with reactions := d.flt.reactions.filter (fun r => match r.ended with
      | none => true
      | some e => d.t.toNat ≤ e.toNat + 5 * ms) } }

/-- Run the steps of a permanent reaction from step n on: each enabled step that has something to do waits for its completion; a step that does not apply is passed over (R459). -/
def runLadder : Nat → Dev → Reaction → Nat → Dev
  | 0, d, r, _ => putReaction d { r with ended := some d.t }
  | k + 1, d, r, n =>
    match n with
    | 2 =>
      if r.ladder.testBit 1 && retirable (r.code / 256) then retire (putReaction d { r with step := 2, stepT := d.t }) r.code r.chan
      else runLadder k d r 3
    | 3 =>
      if r.ladder.testBit 2 || (abdicateCause r.code).isSome then
        let (d1, did) := abdicate d ((abdicateCause r.code).getD 5) true
        if did then putReaction d1 { r with step := 3, stepT := d.t } else runLadder k d1 r 4
      else runLadder k d r 4
    | 4 =>
      if r.ladder.testBit 3 then warmReset d 5 else putReaction d { r with step := 4, ended := some d.t }
    | _ => putReaction d { r with ended := some d.t }

/-- After a permanent reaction has ended, the oldest waiting one starts (R459). -/
def startWaiting (d : Dev) : Dev :=
  match runningPerm d, d.flt.waiting with
  | none, r :: rest =>
    runLadder 4 { d with flt := { d.flt with waiting := rest } } r 2
  | _, _ => d

/-- The delay of the k-th retry in the window, ms (R459, R291). -/
def backoffMs (k : Nat) : Nat := min (2 ^ (k - 1)) 1024

/-- Retries of a source and channel within RETRY_WINDOW (R459). -/
def retriesIn (d : Dev) (c : FltChan) : List Tick :=
  c.retryTs.filter (fun t => d.t.toNat < t.toNat + (policyOf d).retryWindow * 1000 * ms)

/-- Would a report of this source and channel be permanent (R459)? A class U source is so by nature; a transient one when it is no retry, or stuck. -/
def reportPermanent (d : Dev) (code : Nat) (cls : FaultClass) (c : FltChan) : Bool :=
  if (srcClass code).getD cls == .d then
    !((policyEntry d code).ladder.testBit 0) || 3 ≤ c.quick || retryLimit d code ≤ (retriesIn d c).length
  else true

/-- Start the reaction of a report (R458, R459): a retry waits for its backoff, a permanent reaction runs its ladder or waits for the one that runs. -/
def startReaction (d : Dev) (code chan : Nat) (seq entrySeq : Word) (cls : FaultClass) (perm : Bool) (detail : Nat) : Dev :=
  let c := fltChanOf d code chan
  let e := policyEntry d code
  let r : Reaction := ⟨code, chan, seq, cls, reachOf d code detail, d.t, 1, d.t, e.ladder, none⟩
  if perm then
    let d1 := markPerm (setChan d { c with perm := true }) entrySeq
    let r2 := { r with step := 2 }
    match runningPerm d1 with
    | some _ => { d1 with flt := { d1.flt with waiting := d1.flt.waiting ++ [r2] } }
    | none => startWaiting (runLadder 4 d1 r2 2)
  else
    let d1 := setChan d { c with retryTs := d.t :: retriesIn d c, backoff := true }
    let d2 := putReaction d1 r
    if code / 256 == 13 then
      macCount (updPort d2 chan (fun p => { p with
        st := if p.st == .disabled || p.st == .retired then p.st else .retry })) chan cntRetries
    else d2

/-- Is a reaction of this source and channel running or waiting? -/
def reactionPending (d : Dev) (code chan : Nat) : Bool :=
  d.flt.reactions.any (fun r => r.code == code && r.chan == chan && r.ended.isNone)
    || d.flt.waiting.any (fun r => r.code == code && r.chan == chan)

/-- The stuck detector counts a report that follows the end of a retry (R459). -/
def noteReport (d : Dev) (c : FltChan) : FltChan :=
  match c.retryEnd with
  | some e => { c with retryEnd := none, quick := if d.t.toNat ≤ e.toNat + ms then c.quick + 1 else 0 }
  | none => c

/-- A report of a source (R456 to R461) with a class: logged; a consequential one or one of class C does nothing more; else it latches and starts its grace timer or its reaction. -/
def reportCls (d : Dev) (code chan detail : Nat) (cls : FaultClass) (inj : Bool) : Dev :=
  let d0 := pruneReactions d
  let cause := conseqOf d0 code chan
  let lg := logTake d0 code chan detail cls cause inj
  let d1 := lg.dev
  let c := noteReport d1 (fltChanOf d1 code chan)
  if cls == .c then d1
  else
    let d2 := setChan d1 c
    if cause.isSome then d2
    else
      let perm := reportPermanent d2 code cls c
      if (!perm && (c.latched || reactionPending d2 code chan)) || c.grace.isSome then d2
      else
        let d3 := setChan d2 { c with latched := true }
        if cls == .u then startReaction d3 code chan lg.seq lg.entrySeq cls perm detail
        else setChan d3 { c with latched := true, grace := some ⟨lg.seq, lg.entrySeq,
          BitVec.ofNat 64 (d3.t.toNat + (policyOf d3).graceMs * ms), perm, detail⟩ }

/-- A report with the class Table 20.1 gives its source. -/
def report (d : Dev) (code chan detail : Nat) : Dev :=
  reportCls d code chan detail ((srcClass code).getD .c) false

/-- FAULT_N is asserted while a latch is set or a grace timer runs (R460). -/
def faultN (d : Dev) : Bool := d.flt.chans.any (fun c => c.latched || c.grace.isSome)

/-- A retry's block reset has been released: its reaction ends, and the stuck detector watches (R459, R461). -/
def endRetry (d : Dev) (code chan : Nat) : Dev :=
  let d1 := { d with flt := { d.flt with reactions := d.flt.reactions.map (fun r =>
      if r.code == code && r.chan == chan && r.step == 1 && r.ended.isNone then { r with ended := some d.t } else r) } }
  setChan d1 { fltChanOf d1 code chan with retryEnd := some d.t, backoff := false, latched := false }

end Sys2Proof.Machine
end

