-- ==== Sys2Proof/Machine/Freq.lean ====
section
/-! DEFINITION. What the registers say of references, stalls, APLLs and outputs: kinds, carriage, declared uncertainties, frequencies, alignment periods (R143 to R146, R150, R170, R175, R178, R181 to R190). -/
namespace Sys2Proof.Machine
open Sys2Proof

def selOf (d : Dev) (n : Nat) : Sel := d.sels.getD n {}
def stallOf (d : Dev) (n : Nat) : Stall := d.stalls.getD n {}
def refOf (d : Dev) (r : Nat) : RefMon := d.refs.getD r {}
def apllOf (d : Dev) (n : Nat) : Apll := d.apls.getD n {}
def outOf (d : Dev) (n : Nat) : Output := d.outs.getD n {}

/-- The APLL a stall steers. -/
def steeredApll (d : Dev) (n : Nat) : Option Nat :=
  match linkOf d 1 n 2 with
  | some l => if 0x10 ≤ l.arg then some (l.arg - 0x10) else none
  | none => none

/-- RATE codes, Hz (Table 18.1). -/
def rateHz (code : Nat) : Nat := [32000, 44100, 48000, 88200, 96000, 176400, 192000, 48000].getD code 48000

/-- RATE field in effect of an audio clock: 0 WCKIN, 1 to 4 AESIN0 to 3. -/
def clkRate (d : Dev) (c : Nat) : Nat :=
  if c == 0 then eff d WCK_CFG 2 0 else eff d (AIN_CFG + (c - 1) * 0x40) 2 0

/-- The stored tap delay of a unit, 2⁻¹⁶ ns to the nearest: the timestamp units of ports 0 to 5, capture inputs from 6, the TDC at 22 (R26). -/
def tapOf (d : Dev) (i : Nat) : Int := roundDiv ((d.start.taps.getD i 0 : Nat) * 65536) 1000

/-! ### References (R143 to R146) -/

def refKey (k r : Nat) : Nat := k + r * 0x40

/-- KIND in effect. REF0–9 take the codes 0 to 4; any other code there names no kind and acts as off (log 9). -/
def kindOf (d : Dev) (r : Nat) : Nat :=
  let k := eff d (refKey REF_CFG r) 3 0
  if r < 10 && 4 < k then 0 else k

/-- What a reference carries (R143). -/
inductive Carriage where
  | time | phase | freq | none
  deriving DecidableEq, Repr

def carriage (d : Dev) (r : Nat) : Carriage :=
  let k := kindOf d r
  if k == 2 then .phase
  else if k == 6 || k == 7 || k == 9 then .time
  else if k == 1 || k == 3 || k == 5 || k == 8 || k == 10 then .freq
  else .none

/-- Carries time or phase. -/
def hasPhase (d : Dev) (r : Nat) : Bool := carriage d r == .time || carriage d r == .phase

/-- Rank: REF31 ranks below every other (R150). -/
def rankOf (d : Dev) (r : Nat) : Nat := if r == 31 then 8 else eff d (refKey REF_CFG r) 14 12

/-- QTIME, s. -/
def qtimeOf (d : Dev) (r : Nat) : Nat := max 1 (min 3600 (eff d (refKey REF_CFG r) 27 16))

/-- Has a reference's QTIME passed since a Bell or an evaluation? Seconds are counted to the nearest, as Bells count them (log 35). -/
def spanPassed (d : Dev) (secs : Nat) (since : Tick) : Bool := since.toNat + secs * 1000 * ms ≤ d.t.toNat + 500 * ms
def qtimePassed (d : Dev) (r : Nat) (since : Tick) : Bool := spanPassed d (qtimeOf d r) since

/-- Limits of the codes 0x17 to 0x30, fs (Table 6.4). -/
def accLimits : List Nat :=
  [1000, 2500, 10000, 25000, 100000, 250000, 1000000, 2500000, 10000000]
  ++ [25000000, 100000000, 250000000, 1000000000, 2500000000, 10000000000, 25000000000, 100000000000, 250000000000]
  ++ [1000000000000, 2500000000000, 10000000000000, 25000000000000, 100000000000000, 250000000000000,
      1000000000000000, 10000000000000000]

/-- The limit of a clockAccuracy code, 2⁻¹⁶ ns, rounded up; none for a code Table 6.4 gives no limit. -/
def accLimit (code : Nat) : Option Nat :=
  if 0x17 ≤ code then (accLimits[code - 0x17]?).map (fun f => ceilDiv (f * 65536) 1000000) else none

/-- The smallest code whose limit is at least a bound in 2⁻¹⁶ ns (R136). -/
def accCode (bound : Nat) : Nat :=
  match (List.range 26).find? (fun i => bound * 1000000 ≤ accLimits.getD i 0 * 65536) with
  | some i => 0x17 + i
  | none => 0x31

/-- The tracking slot of a PTP reference, the solution of a GNSS reference. -/
def slotOfRef (r : Nat) : Nat := r - 16
def solOfRef (r : Nat) : Nat := r - 24

def trackSlot (d : Dev) (m : Nat) : TrackSlot := d.ptp.slots.getD m {}
def solOf (d : Dev) (n : Nat) : Sol := d.gns.sols.getD n {}

/-- A PTP reference's clockAccuracy is acceptable (Table 7.2). -/
def accAcceptable (d : Dev) (r : Nat) : Bool :=
  efb d (refKey REF_CFG r) 9 || (accLimit (trackSlot d (slotOfRef r)).clockAcc).isSome

/-- The partner's BOUND_CORE for the scale its TS-O copies (R146). -/
def partnerCore (d : Dev) : Nat := if bit (w32 d.twn.outsel) 0 then d.twn.coreB else d.twn.coreA

/-- U_d in effect, 2⁻¹⁶ ns (Table 7.2). -/
def udOf (d : Dev) (r : Nat) : Nat :=
  let unc := (ef d (refKey REF_UNC r)).toNat
  match kindOf d r with
  | 2 => unc
  | 6 => unc + (accLimit (trackSlot d (slotOfRef r)).clockAcc).getD 0
  | 7 => unc + (solOf d (solOfRef r)).unc
  | 9 => unc + partnerCore d
  | _ => 0

/-- u_y of a frequency reference, 2⁻⁴⁸. -/
def funcOf (d : Dev) (r : Nat) : Nat := (ef d (refKey REF_FUNC r)).toNat

/-- REF31 is always present and qualified (R150). -/
def presentR (d : Dev) (r : Nat) : Bool := r == 31 || (refOf d r).present
def qualifiedR (d : Dev) (r : Nat) : Bool := r == 31 || (refOf d r).qualified
def lockedOut (d : Dev) (r : Nat) : Bool := rgb d REF_LOCKOUT r

/-- Speed code of a built port: the VALUE of its LANES link (R268). -/
def portSpeed (d : Dev) (p : Nat) : Nat := ((linkOf d 7 p 7).map (·.value.toNat)).getD 0

/-- The ERX frequency of a speed code, Hz (R271). -/
def erxHz (code : Nat) : Rat :=
  if 1 ≤ code && code ≤ 3 then 1611328125 / 4 else if code == 4 then 322265625 / 2 else if code == 5 || code == 6 then 125000000 else 0

/-- Nominal frequency of a reference, Hz; that of REF31 is the oscillator's, those of REF10–15 the ports', those of REF28 and REF29 the rates of AESIN3 and WCKIN (R144, R271, R415). -/
def refHz (d : Dev) (r : Nat) : Rat :=
  if r == 31 then (d.start.oscHz : Rat)
  else if 10 ≤ r && r < 16 then erxHz (portSpeed d (r - 10))
  else if r == 28 then (rateHz (clkRate d 4) : Rat)
  else if r == 29 then (rateHz (clkRate d 0) : Rat)
  else ((ef d (refKey REF_FNUM r)).toNat : Rat) / ((max 1 (eff d (refKey REF_FDEN r) 15 0) : Nat) : Rat)

/-! ### Stalls -/

def stKey (k n : Nat) : Nat := k + n * 0x800
def selKey (k n : Nat) : Nat := k + n * 0x20

def stallFunc (d : Dev) (n : Nat) : Nat := pitchFunc d 1 n
def stallBuilt (d : Dev) (n : Nat) : Bool := built d 1 n && !heldInReset d 8 n && enOf d (stlWin n)

/-- The REF_VIEW mask (R73, R151). -/
def viewOf (d : Dev) (n : Nat) : Word := ((linkOf d 1 n 1).map (·.value)).getD 0

/-- The scale a stall steers: false TS-A, true TS-B. -/
def steeredScale (d : Dev) (n : Nat) : Option Bool :=
  if stallFunc d n == 1 then
    match linkOf d 1 n 2 with
    | some l => if l.arg == 0 then some false else if l.arg == 1 then some true else none
    | none => none
  else none

/-- SL_SRC.TBUS, which FUNC 0x01 ignores (R178). -/
def tbusOf (d : Dev) (n : Nat) : Nat := if stallFunc d n == 1 then 0 else rgf d (stKey SL_SRC n) 1 0

/-- The scale of a time-bus source in the coding of STAMP_SCALE. -/
def tbusScale (t : Nat) : Nat := t - 1

/-- Stalls the selector serves. -/
def selectedStalls (d : Dev) : List Nat :=
  if fabricRuns d then (List.range 32).filter (fun n => stallBuilt d n && tbusOf d n == 0) else []

/-- Bandwidths of Table 8.2, 0.1 mHz. -/
def bwTable : List Nat :=
  [1, 2, 5, 10, 20, 50, 100, 200, 500, 1000, 2000, 5000, 10000, 20000, 50000, 100000, 200000, 500000, 2000000, 10000000, 40000000]

/-! ### Pulses and grids -/

def plKey (k n : Nat) : Nat := k + n * 0x40
def grKey (k n : Nat) : Nat := k + n * 0x80

def pulseOf (d : Dev) (n : Nat) : Pulse := d.pulses.getD n {}
def gridOf (d : Dev) (n : Nat) : Grid := d.grids.getD n {}
def trigOf (d : Dev) (n : Nat) : Trig := d.trigs.getD n {}

/-- The REFIN a pulse follows; none for a pulse aligned to a scale (R199). -/
def pulseRef (d : Dev) (n : Nat) : Option Nat :=
  match linkOf d 4 n 4 with
  | some l => if 0x10 ≤ l.arg then some (l.arg - 0x10) else none
  | none => none

/-- A pulse continues on projected edges while its reference is lost (R199). -/
def pulseFly (d : Dev) (n : Nat) : Bool :=
  (pulseOf d n).run && (pulseOf d n).inEdge.isSome && efb d (plKey PL_CFG n) 2
    && (pulseRef d n).any (fun r => kindOf d r == 2 && !presentR d r)

/-! ### APLLs and outputs -/

def apKey (k n : Nat) : Nat := k + n * 0x100
def outKey (k n : Nat) : Nat := k + n * 0x20

def apllBuilt (d : Dev) (n : Nat) : Bool := built d 2 n && !heldInReset d 9 0

/-- f_src and f_pfd, Hz (R181). -/
def srcHz (d : Dev) (n : Nat) : Rat :=
  let s := rgf d (apKey AP_CFG n) 3 0
  if 1 ≤ s && s ≤ 10 then refHz d (s - 1) else (d.start.oscHz : Rat)

def pfdHz (d : Dev) (n : Nat) : Rat :=
  srcHz d n * ((1 + rgf d (apKey AP_CFG n) 4 4 : Nat) : Rat) / ((1 + rgf d (apKey AP_CFG n) 5 5 : Nat) : Rat)

/-- N in 2⁻⁴⁸. -/
def apN (d : Dev) (n : Nat) : Nat :=
  rgf d (apKey AP_NINT n) 11 0 * 2 ^ 48 + rgf d (apKey AP_NFRAC_HI n) 15 0 * 2 ^ 32 + (rg d (apKey AP_NFRAC_LO n)).toNat

def vcoHz (d : Dev) (n : Nat) : Rat := pfdHz d n * (apN d n : Rat) / (2 ^ 48 : Rat)

/-- Analogue bandwidth, Hz (Table 8.3). -/
def abwHz (d : Dev) (n : Nat) : Nat := [200000, 500000, 1000000, 2000000].getD (rgf d (apKey AP_CFG n) 9 8) 0

/-- A condition of R181 fails. -/
def rangeBad (d : Dev) (n : Nat) : Bool :=
  let p := pfdHz d n
  let v := vcoHz d n
  p < 5000000 || 80000000 < p || p < 20 * (abwHz d n : Rat) || v < 11000000000 || 13200000000 < v

/-- Divider M of an output (R190). -/
def divOf (d : Dev) (o : Nat) : Nat := max 7 (rgf d (outKey OUT_CFG o) 23 0)

/-- The outputs an APLL drives, built now. -/
def drivenBy (d : Dev) (n : Nat) : List Nat :=
  (List.range 24).filter (fun o => built d 3 o && (linkOf d 3 o 3).any (·.arg == n))

def lcmOf (l : List Nat) : Nat := l.foldl Nat.lcm 1

/-- A rational to the nearest integer, halves upwards. -/
def toNearest (q : Rat) : Int := ratFloor (q + 1 / 2)

/-- Alignment period, s (R185). A word that is the nearest one to a whole number k of periods a second stands for exactly k (DEDUCED, log 30). -/
def alignPeriod (d : Dev) (n : Nat) : Rat :=
  if vcoHz d n == 0 then 0 else
    let l : Rat := lcmOf ((drivenBy d n).map (divOf d))
    let k := toNearest (vcoHz d n / l)
    if k != 0 && toNearest ((k : Rat) * l * (2 : Rat) ^ 48 / pfdHz d n) == (apN d n : Int) then 1 / (k : Rat) else l / vcoHz d n

/-- Does the alignment period divide one second (R178)? -/
def alignDivides (d : Dev) (n : Nat) : Bool :=
  alignPeriod d n != 0 && (1 / alignPeriod d n).den == 1

/-- An output breaks a limit of R190: its APLL, M, format and function. -/
def outInvalid (d : Dev) (o a : Nat) : Bool :=
  let fmt := rgf d (outKey OUT_CFG o) 26 24
  let f := vcoHz d a / (divOf d o : Rat)
  let func := pitchFunc d 3 o
  rangeBad d a || 4 < fmt
    || (fmt == 1 && 1600000000 < f) || (fmt == 2 && 700000000 < f) || (fmt == 3 && 1600000000 < f)
    || (fmt == 4 && 250000000 < f) || (func == 2 && fmt != 4) || (func == 1 && (fmt == 0 || fmt == 4))

/-- The probe output of an APLL: SL_SRC.ALIGN where it names an output that the APLL drives, else the lowest of them (R169). -/
def probeOut (d : Dev) (n a : Nat) : Option Nat :=
  let l := drivenBy d a
  let w := rgf d (stKey SL_SRC n) 12 8
  if l.contains w then some w else l.head?

/-- Frequency of a stall's probe output, Hz: the audio block's sample clock for FUNC 0x04 (R169, R180). -/
def probeHz (d : Dev) (n : Nat) : Rat :=
  if stallFunc d n == 4 then (rateHz d.aud.rate : Rat)
  else match steeredApll d n with
    | some a => ((probeOut d n a).map (fun o => vcoHz d a / (divOf d o : Rat))).getD 0
    | none => 0

/-- STAT.NOEPOCH: the time-bus source's period does not divide one second: the alignment period, or the sample period in its place (R178, R180). -/
def noEpoch (d : Dev) (n : Nat) : Bool :=
  tbusOf d n != 0 && stallFunc d n != 4 && (steeredApll d n).any (fun a => !alignDivides d a)

/-- Frequency-only operation in effect (R175, R178). -/
def freqOnly (d : Dev) (n : Nat) : Bool :=
  let s := selOf d n
  stallFunc d n == 3 || noEpoch d n || (tbusOf d n == 0 && s.curV && carriage d s.cur == .freq)

end Sys2Proof.Machine
end

