-- ==== Sys2Proof/Machine/Live.lean ====
section
/-! DEFINITION. What STAT, the interrupt conditions and the status pins show of the state, and the end of every command: status events in the Tally and interrupts (R351, R352, R463). -/
namespace Sys2Proof.Machine
open Sys2Proof

/-! ### Pins of the Scales -/

def oosOf (s : Scl) : Bool := s.oosL || s.oosT

/-- The OOS pin (R134). -/
def oosPin (d : Dev) : Bool :=
  (d.tsc.a.setDone && oosOf d.sclA) || (d.tsc.b.setDone && oosOf d.sclB)

/-- A scale's alarm: a void bound, or BOUND_TOTAL above SS_ALARM (R15, R134). -/
def almOf (s : Scl) : Bool := voidOf s || s.alm

/-- The BOUNDALM pin (R134). -/
def almPin (d : Dev) : Bool := (d.tsc.a.setDone && almOf d.sclA) || (d.tsc.b.setDone && almOf d.sclB)

/-! ### Pins that show the mode, the Floor and the servo -/

/-- STATE[2:0] (R43, Table 2.5): driven with the code of GEN_MODE, which is BRINGUP's while PORST_N is low; not driven in OFF. -/
def statePins (d : Dev) : Option (BitVec 3) := if d.gen.mode == .off then none else some (BitVec.ofNat 3 (modeCode d.gen.mode))

/-- The FLOOR pin (R46, R399): a chip whose charter configures no twin link asserts it for as long as it runs in ACTIVE. -/
def floorPin (d : Dev) : Bool := holdsFloor d

/-- Codes of Table 7.4. -/
def servoCode : Servo → Nat
  | .freeRun => 0
  | .acquiring => 1
  | .locked => 2
  | .holdover => 3

/-- The scale that the built stall n steers. -/
def scaleOfStall (d : Dev) (n : Nat) : Option Bool :=
  if steeringStall d 0 == some n then some false else if steeringStall d 1 == some n then some true else none

/-- The servo state a stall shows: a set scale that has had no time reference since its anchor is in FREE-RUN (R142, R164). -/
def servoShown (d : Dev) (n : Nat) : Servo :=
  match scaleOfStall d n with
  | some b => if (scaleOf d b).setDone && (sclOf d b).timeRefT.isNone then .freeRun else (d.sels.getD n {}).servo
  | none => (d.sels.getD n {}).servo

/-- SERVO[1:0] (R166): the servo state of the built stall that steers the scale TS-O copies; 00 while none is built. -/
def servoPins (d : Dev) : BitVec 2 :=
  match steeringStall d (b2n d.tsc.cur) with
  | some n => BitVec.ofNat 2 (servoCode (servoShown d n))
  | none => 0

/-! ### Stalls, outputs and ports as STAT shows them -/

/-- ylim of R174 is ±2³⁸ for a scale and an audio stall and ±2³⁵ for an APLL; the stall keeps whether it is there. -/
def portStateCode : PortState → Nat
  | .disabled => 0
  | .training => 1
  | .up => 2
  | .retry => 3
  | .retired => 4

def linkStateCode : LinkState → Nat
  | .down => 0
  | .training => 1
  | .negotiating => 2
  | .up => 3
  | .refused => 4

def chtStateCode : ChtState → Nat
  | .idle => 0
  | .loading => 1
  | .verifying => 2
  | .building => 3
  | .ready => 4
  | .armed => 5
  | .writing => 6
  | .error => 7

/-- Classes of a port held by a received PAUSE or PFC now (R283, MAC_FCSTAT). -/
def heldClasses (d : Dev) (p : Nat) : List Nat :=
  let port := portOf d p
  let on := fun (e : Option Tick) => match e with
    | some t => d.t.toNat < t.toNat
    | none => false
  (List.range 8).filter fun c =>
    on port.pauseEnd || (List.range 8).any (fun pr =>
      on (port.pfcEnd.getD pr none) && (rgf d (MAC_PCPMAP + p * 0x10000) (3 * pr + 2) (3 * pr)) == c)

/-- A PRP port without a partner (STAT.PRPUNP). -/
def prpUnpaired (d : Dev) (p : Nat) : Bool :=
  (pitchFunc d 7 p == 2 || pitchFunc d 7 p == 3) && (prpPartner d p).isNone

/-- A port is built, enabled and not held in reset. -/
def portEnabled (d : Dev) (p : Nat) : Bool := built d 7 p && !heldInReset d 13 p && enOf d (macWin p)

/-- Table 12.3: CTRL.EN = 1 in ACTIVE, STANDBY or BRINGUP starts training; CTRL.EN = 0 disables from any state. -/
def portFollow (d : Dev) (p : Nat) : Dev :=
  let st := (portOf d p).st
  if st == .disabled then
    if portEnabled d p && (inService d || d.gen.mode == .bringup) then updPort d p (fun x => { x with st := .training }) else d
  else if st != .retired && !portEnabled d p then
    updPort (discardQueued d p) p (fun x => { x with st := .disabled, rclk := false })
  else if st == .retired && !enOf d (macWin p) && !heldInReset d 13 p then updPort d p (fun x => { x with st := .disabled })
  else d

/-- The twin link while the block is off, and its training once it is enabled (R393); a chip that gains a twin link in ACTIVE pulls TWFLOOR, and one whose block is off releases it (R399). -/
def twinFollow (d : Dev) : Dev :=
  let en := enOf d baseTwn && !heldInReset d 19 0
  if en && d.twn.link == .down && (inService d || d.gen.mode == .bringup) then
    let d1 := { d with twn := { d.twn with link := .training, trainT := d.t } }
    if d.gen.mode == .active && d.gen.coresRun && !d.twn.pull then setPull d1 true else d1
  else if !en && d.twn.link != .down then
    { releaseFloor d with twn := { (releaseFloor d).twn with link := .down, locked := false, rtts := [], departs := 0 } }
  else keyFollow d

/-- A measurement is older than 1,200 s, or was never made: an input's table is stale (Table 10.4). -/
def tableStale (d : Dev) (intp : Nat) : Bool :=
  match d.tdc.tableT.getD intp none with
  | some t => t.toNat + 1200 * 1000 * ms < d.t.toNat
  | none => true

def calStale (d : Dev) : Bool := d.tdc.tested && d.tdc.intp.any (fun i => i < 9 && tableStale d i)

/-- Is a system excluded by the false-signal checks now (R265)? -/
def fsExcluded (d : Dev) (sys : Nat) : Bool :=
  match d.gns.fsUntil.getD sys none with
  | some t => d.t.toNat < t.toNat
  | none => false

/-- The standby is READY (R401). -/
def twinReady (d : Dev) : Bool :=
  d.gen.mode == .standby && d.twn.link == .up && d.twn.locked
    && (match d.twn.snap with
        | some s => d.bellCnt.toNat ≤ s.bell.toNat + 1
        | none => false)
    && d.tsc.a.setDone && d.tsc.b.setDone && !(d.twn.abdFault && d.flt.chans.any (·.latched))

/-- The audio domain's followed clock is lost (R416). -/
def audLoss (d : Dev) : Bool := d.aud.st == .bridging

/-- The clock that AUD_CLK.SRC names: 0 WCKIN, 1 to 4 AESIN0 to 3; none for the internal master (R415). -/
def followedClk (src : Nat) : Option Nat := if src == 5 then none else if 6 ≤ src then some 0 else some src

/-- The followed clock's RATE differs from AUD_CLK.RATE (R415). -/
def rateMis (d : Dev) : Bool := (followedClk (eff d AUD_CLK 6 4)).any (fun c => clkRate d c != eff d AUD_CLK 2 0)

/-- Bytes 18 to 21 of an output are unknown: UTC asked for, and TAI − UTC unknown (R424). -/
def todUnknown (d : Dev) : Bool :=
  !efb d AUD_CLK 8 && d.gns.leapSrc == 0 && !rgb d PT_UTC 31
    && (List.range 4).any (fun n => (d.aud.outs.getD n {}).run && efb d (AOUT_CFG + n * 0x40) 29)

/-! ### STAT -/

/-- The RO bits above bit 15 of a window's STAT (R55 and the tables of each chapter). -/
def statHigh (d : Dev) (slot chan : Nat) : Nat :=
  match slot with
  | 0 => b2n d.twn.drillLogged * 2 ^ 16
  | 1 => b2n d.gen.rst.isSome * 2 ^ 16
  | 2 => b2n (d.flt.chans.any (·.grace.isSome)) * 2 ^ 18 + b2n (d.flt.chans.any (·.latched)) * 2 ^ 19
  | 4 => chtStateCode d.cht.st * 2 ^ 16 + b2n d.cht.altSlot * 2 ^ 19
  | 5 => b2n (d.tsc.a.breach || d.tsc.b.breach || d.tsc.breachO) * 2 ^ 21
  | 6 => b2n (oosPin d) * 2 ^ 17 + b2n (almPin d) * 2 ^ 18
  | 7 => b2n (d.sels.any (fun s => !s.disputes.isEmpty)) * 2 ^ 17 + b2n ((List.range 32).any (fun n => servoShown d n == .holdover)) * 2 ^ 18
  | 8 =>
    let s := stallOf d chan
    b2n s.clamped * 2 ^ 16 + b2n s.bwLim * 2 ^ 17 + b2n (noEpoch d chan) * 2 ^ 18
      + b2n ((steeredApll d chan).any (fun a => (apllOf d a).prem != 0)) * 2 ^ 19
  | 9 =>
    (List.range 4).foldl (fun v n => v + b2n (apllOf d n).lock * 2 ^ (16 + n) + b2n (apllOf d n).spur * 2 ^ (24 + n)) 0
  | 10 => b2n ((List.range 8).any (pulseFly d) || d.grids.any (·.fly)) * 2 ^ 18
  | 11 => b2n d.tdc.warm * 2 ^ 16 + b2n (calStale d) * 2 ^ 17 + b2n d.tdc.meas.isSome * 2 ^ 20
  | 12 =>
    b2n d.gns.gclkF * 2 ^ 16 + b2n ((List.range 4).any (fsExcluded d)) * 2 ^ 17
      + b2n (d.gns.jnAbove.any id) * 2 ^ 18
  | 13 =>
    let p := portOf d chan
    b2n (p.st == .up) * 2 ^ 16 + b2n (!(heldClasses d chan).isEmpty) * 2 ^ 17 + b2n (p.xoff != 0) * 2 ^ 18
      + b2n (prpUnpaired d chan) * 2 ^ 21 + portStateCode p.st * 2 ^ 24
  | 17 =>
    b2n d.key.busy.isSome * 2 ^ 16 + b2n d.key.root.isNone * 2 ^ 17 + b2n d.key.degraded * 2 ^ 19
      + b2n d.key.outValid * 2 ^ 20
  | 18 =>
    b2n (audLoss d) * 2 ^ 16
      + b2n (rateMis d) * 2 ^ 18 + b2n (todUnknown d) * 2 ^ 19
  | 19 =>
    b2n d.twn.locked * 2 ^ 16 + b2n (twinReady d) * 2 ^ 17 + b2n d.twn.floorLow * 2 ^ 18
      + b2n d.twn.cfgDiff * 2 ^ 21 + linkStateCode d.twn.link * 2 ^ 24
  | 20 => b2n (d.hal.waiting.any (fun r => r.heldOrder || r.heldCycle)) * 2 ^ 17
  | _ => 0

/-- Mask of the RC bits of a slot's STAT. -/
def statRcMask (slot : Nat) : Word := clsMask (statFields slot) (· == .rc)

/-- STAT of a window as a read shows it. -/
def statWord (d : Dev) (slot win : Nat) : Word :=
  let chan := if slot == 8 then (win - baseStl) / 0x800 else if slot == 13 then (win - baseMac) / 0x10000 else 0
  w32 (statHigh d slot chan) ||| (rg d (win + 8) &&& statRcMask slot) ||| (if pendOf d win then 4 else 0)

/-- Every window of Table 3.1: slot, base. -/
def allWindows : List (Nat × Nat) :=
  (List.range 22).flatMap fun s =>
    if s == 8 then (List.range 32).map (fun n => (8, stlWin n))
    else if s == 13 then (List.range 6).map (fun n => (13, macWin n))
    else [(s, slotBase s)]

/-! ### The end of a command -/

/-- Does any counter in effect select status events (Table 20.4, class 2)? -/
def statusWatched (d : Dev) : Bool :=
  enOf d baseTal && d.eff.any (fun e => TAL_CFG ≤ e.1 && e.1 < TAL_CFG + 0x1800 && e.1 % 16 == 0 && bits e.2 9 8 == 2)

/-- Count each bit 16 + i of a STAT that hardware has set in this command (Table 20.4). -/
def tallyStatus (old d : Dev) : Dev :=
  if statusWatched d then
    allWindows.foldl (fun d w =>
      let a := statWord old w.1 w.2
      let b := statWord d w.1 w.2
      (List.range 16).foldl (fun d i =>
        if bit b (16 + i) && !bit a (16 + i) then tally d w.1 2 (0x10 + i) none else d) d) d
  else d

/-- The condition of a block interrupt source (Table 15.5). -/
def srcCondition (d : Dev) (s : Nat) : Bool :=
  let rc := fun (slot win : Nat) => (rg d (win + 8) &&& statRcMask slot) != 0
  if s == 128 then
    rc 0 0 || (rgb d GEN_BELL_STAT 0 && rgb d GEN_BELL_CTRL 0) || (rgb d GEN_BELL_STAT 1 && rgb d GEN_BELL_CTRL 1)
  else if s < 128 || 154 < s then false
  else
    let i := s - 128
    if i == 8 then (List.range 32).any (fun n => rc 8 (stlWin n))
    else if 13 ≤ i && i ≤ 18 then rc 13 (macWin (i - 13))
    else
      let slot := if i < 13 then i else i - 5
      rc slot (slotBase slot)

/-- What an MSI-X table word that nothing has written reads as: masked in vector control, as PCIe resets it (PRESUMED, log 8). -/
def msixDefault (k : Nat) : Word := if k % 16 == 12 then 1 else 0

def msixMasked (d : Dev) (fn vec : Nat) : Bool := bit (sparseGet msixDefault d.qmg.msix (fn * 2 ^ 20 + vec * 16 + 12)) 0

/-- Send a source's MSI-X message, or set the pending bit of a masked vector (R352). -/
def sendMsix (d : Dev) (s : Nat) : Dev :=
  let m := rg d (QMG_IMAP + 4 * s)
  if bit m 31 && s != 150 then
    let fn := if bit m 29 && (fuses d).wardenPcie then 1 else 0
    let vec := if fn == 1 then bits m 7 0 % 8 else bits m 7 0
    if msixMasked d fn vec then
      { d with qmg := { d.qmg with pba := if d.qmg.pba.contains (fn, vec) then d.qmg.pba else d.qmg.pba ++ [(fn, vec)] } }
    else emit d (.msix fn vec)
  else d

/-- A source is pending: a ring's flag, or a block's condition (R352). -/
def srcIsPending (d : Dev) (s : Nat) : Bool :=
  if s < 64 then (txRing d s).pending
  else if s < 128 then (rxRing d (s - 64)).pending
  else d.qmg.srcPending.contains s

/-- MSIRQ_N is asserted while a source with SPI = 1 is pending (R353). -/
def msirqAsserted (d : Dev) : Bool := (List.range 155).any (fun s => rgb d (QMG_IMAP + 4 * s) 30 && srcIsPending d s)

/-- Block sources whose condition has become true send their message; those whose condition is over clear (R352). -/
def updateSources (d : Dev) : Dev :=
  let now := ((List.range 27).map (· + 128)).filter (srcCondition d)
  let fresh := now.filter (fun s => !d.qmg.srcPending.contains s)
  fresh.foldl sendMsix { d with qmg := { d.qmg with srcPending := now } }

/-- The end of a command: status events, then interrupts. -/
def settle (old d : Dev) : Dev :=
  let e := updateSources (tallyStatus old d)
  { d with tal := e.tal, qmg := e.qmg, out := e.out }

/-- How every command ends: ports and the twin link follow their enables, then status events and interrupts. `old`: the device before the command. -/
def ended (old d : Dev) : Dev := settle old (twinFollow ((List.range 6).foldl portFollow d))

/-- Run a command's effect on the device (the queue is left as it is). -/
def act (s : State) (f : Dev → Dev) : Host.Outcome State Fault Refusal :=
  .next { s with dev := ended s.dev (f { s.dev with out := [] }) }

end Sys2Proof.Machine
end

