-- ==== Sys2Proof/Machine/Access.lean ====
section
/-! DEFINITION. How an access of a requester reaches its block, or is turned away (R5, R54, R65, R66, R441, R446, R451). -/
namespace Sys2Proof.Machine
open Sys2Proof

/-- The PCIE domain is good. -/
def pcieGood (d : Dev) : Bool :=
  d.start.phase != .held
    && (match d.start.domains.getD 5 .waiting with
        | .good => true
        | _ => false)

/-- PCIe answers memory requests: in FACTORY, STANDBY and ACTIVE, once the PCIE domain is good (R441, R446, R489). -/
def pcieServed (d : Dev) : Bool := (inService d || d.gen.mode == .factory) && pcieGood d

/-- The windows MSPI reaches in MINIMAL (R446): GEN, RST, FLT, CHT, BKD. -/
def minimalSlot (slot : Nat) : Bool := slot == 0 || slot == 1 || slot == 2 || slot == 4 || slot == 21

/-- An offset outside every window of Table 3.1 and the alias region. -/
def outsideMap (off : Nat) : Bool := (slotOf off).isNone && !(0x800000 ≤ off && off < 0x1000000)

/-- Does the path of a requester carry its accesses now? -/
def pathServed (d : Dev) : Requester → Bool
  | .mspi => d.gen.mode != .bringup
  | .cores => d.gen.coresRun
  | .pcie0 => pcieServed d
  | .pcie1 => pcieServed d && (fuses d).wardenPcie

/-- Why the device turns a requester's access away before any block sees it; none where it lets it through. -/
def turnedAway (d : Dev) (r : Requester) (off : Nat) : Option BusStatus :=
  let outside := outsideMap off
  let missed := if pathServed d r && off % 4 == 0 && !outside then none else some BusStatus.unsupportedRequest
  if d.gen.mode == .off || d.start.phase == .held then some .unsupportedRequest
  else match r with
    | .mspi =>
      if d.gen.mode == .bringup then some (.mspi 0xB5)
      else if off % 4 != 0 then some (.mspi 0xCC)
      else if outside then some (.mspi 0xC3)
      else if d.gen.mode == .minimal && !minimalSlot ((slotOf (if off < 0x800000 then off else (off - 0x800000) / 32)).getD 24) then
        some (.mspi 0xC3)
      else none
    | .cores => missed
    | .pcie0 => missed
    | .pcie1 => missed

/-- A register that only Warden may touch: the KEY window and the fuse page of GEN (Table 3.1). -/
def wardenOnly (off : Nat) : Bool :=
  (0x400000 ≤ off && off < 0x440000) || (0xF000 ≤ off && off < 0x10000)

/-- From the request of a block reset until its release the block's window reads 0 and ignores writes (R451). -/
def inBlockReset (d : Dev) (off : Nat) : Bool :=
  match d.gen.rst with
  | some r => !r.cores && inTarget r.target r.chan off
  | none => false

/-- A Host access to a Warden-only register is logged and counted (R66). -/
def privDeny (d : Dev) (r : Requester) (off : Nat) : Dev :=
  tally (logC d srcPrivDeny (reqCode r) off) 20 3 0x21 (some (accOf r off))

/-- An offset that no chapter names reads 0 and ignores writes; the Tally counts the access (R54). -/
def unmapped (d : Dev) (r : Requester) (off : Nat) : Dev :=
  tally (answer d [0]) 20 3 0x20 (some (accOf r off))

/-- Carry an access of a requester to the register at `off`, with its Tally event, unless the device turns it away; an access outside every window is counted (R54). PRIV_DENY names the register that is denied, for an alias access too (R66; DESIGN CHOICE, log 43). -/
def withAccess (d : Dev) (r : Requester) (off ev : Nat) (f : Dev → Dev) : Dev :=
  match turnedAway d r off with
  | some st =>
    let d1 := if pathServed d r && off % 4 == 0 && outsideMap off && d.gen.mode != .off && d.start.phase != .held then
        tally d 20 3 0x20 (some (accOf r off)) else d
    { d1 with resp := ⟨st, [0]⟩ }
  | none =>
    let a := if off < 0x800000 then off else (off - 0x800000) / 128 * 4
    let d1 := { d with resp := ⟨.ok, []⟩ }
    if wardenOnly a && !isWarden r then answer (privDeny d1 r a) [0]
    else if inBlockReset d1 a then answer d1 [0]
    else f (tally d1 ((slotOf a).getD 24) 1 ev (some (accOf r a)))

/-- A write of a requester to a register with an effect of its own. -/
def withWrite (d : Dev) (r : Requester) (off : Nat) (f : Dev → Dev) : Dev := withAccess d r off evWrite f

/-- A read of a requester of a register with an effect of its own. -/
def withRead (d : Dev) (r : Requester) (off : Nat) (f : Dev → Dev) : Dev := withAccess d r off evRead f

/-- Little-endian words of a record. -/
def leWords (l : List Byte) : List Word := (List.range (l.length / 4)).map (fun i => w32 (leAt l (4 * i) 4))

/-- Hold words for a requester from a key on (R58). -/
def holdFor (d : Dev) (r : Requester) (k : Nat) (ws : List Word) : Dev := setReqState d r (holdWords (reqOf d r) k ws)

/-- Write a requester's own selection register (R58). -/
def putSel (d : Dev) (r : Requester) (k : Nat) (w : Word) : Dev :=
  setReqState d r { reqOf d r with sel := sparseSet (fun _ => (0 : Word)) (reqOf d r).sel k w }

/-- The low 48 bits of a count as a LO and a HI word. -/
def words48 (n : Nat) : List Word := [w32 n, w32 (n / 2 ^ 32 % 2 ^ 16)]

/-- ASCII text as bytes. -/
def ascii (s : String) : List Byte := s.toList.map (fun c => BitVec.ofNat 8 c.toNat)

end Sys2Proof.Machine
end

