-- ==== Sys2Proof/Machine/Key.lean ====
section
/-! DEFINITION. The key store: the tree, the journal, working keys, hold-up, tamper, the Seal and the firmware MAC (chapter 16, rows KEY_COMMIT to KEY_HTEST_RUN). -/
namespace Sys2Proof.Machine
open Sys2Proof

/-! ### The tree (R371) -/

def blankNode (i : Nat) : KeyNode := ⟨i, .invalid, 0, 0, 0, false, 0, [], []⟩

/-- A node; node 0 is the operational root: VALID while a root exists, usage derive. -/
def nodeOf (d : Dev) (i : Nat) : KeyNode :=
  if i == 0 then { blankNode 0 with st := if d.key.root.isSome then .valid else .invalid }
  else (d.key.nodes.find? (·.index == i)).getD (blankNode i)

def putNodeIn (l : List KeyNode) (n : KeyNode) : List KeyNode :=
  if l.any (·.index == n.index) then l.map (fun x => if x.index == n.index then n else x) else l ++ [n]

def putNode (d : Dev) (n : KeyNode) : Dev := { d with key := { d.key with nodes := putNodeIn d.key.nodes n } }

/-- Depth of a node: its parent's plus 1; the root's is 0 (R371). No node is deeper than 6. -/
def depthAux (d : Dev) : Nat → Nat → Nat
  | 0, _ => 0
  | f + 1, i => if i == 0 then 0 else depthAux d f (nodeOf d i).parent + 1

def nodeDepth (d : Dev) (i : Nat) : Nat := depthAux d 8 i

/-- Is node i a descendant of node a? The chain has at most 6 steps (R378). -/
def descendsAux (d : Dev) (a : Nat) : Nat → Nat → Bool
  | 0, _ => false
  | f + 1, i => i != 0 && ((nodeOf d i).parent == a || descendsAux d a f (nodeOf d i).parent)

def descends (d : Dev) (i a : Nat) : Bool := descendsAux d a 7 i

/-- The counter-mode KDF of NIST SP 800-108 with HMAC-SHA-384 and a 32-bit counter (R328, R369): the first `bits` bits, a whole number of bytes, for a key, a label and a context. -/
def kdf (key label ctx : List Byte) (bits : Nat) : List Byte :=
  ((List.range (ceilDiv bits 384)).flatMap fun i =>
    beBytes 48 (Config.hmac384 key (beBytes 4 (i + 1) ++ label ++ [0] ++ ctx ++ beBytes 4 bits)).toNat).take (bits / 8)

/-- Key of a node's material: the KDF of R369 from the root (R372). -/
def wrapKey (root : List Byte) (i : Nat) : List Byte :=
  kdf root (ascii "GELUST NODE WRAP") (beBytes 2 i) 256

/-- Usages an engine accepts (Table 16.1): 0 derive, 1 encrypt, 2 MAC, 3 sign. -/
def engineAccepts (e usage : Nat) : Bool :=
  match e with
  | 0 => usage == 0
  | 1 => usage == 2
  | 2 => usage == 1
  | 3 => usage == 3
  | 4 => usage != 3
  | _ => false

/-! ### Results (R374) -/

/-- KEY_RES: CODE and LASTCMD. -/
def keyRes (d : Dev) (cmd code : Nat) : Dev := setReg d KEY_RES (w32 (code + cmd * 16))

/-- Run a command unless one is executing (R374). -/
def keyCommand (d : Dev) (cmd : Nat) (f : Dev → Dev) : Dev :=
  if d.key.busy.isSome then keyRes d cmd 8 else f d

/-- Steps 1 to 3 of Table 16.2: the code of the first that fails. -/
def treeWriteCheck (d : Dev) : Option Nat :=
  if d.key.root.isNone then some 7
  else if d.power.hold then some 2
  else if !energyFor d 1200 then some 1
  else none

/-- A refusal of the hold-up check sets STAT.HOLDUP_LOW (R382). -/
def holdupLow (d : Dev) : Dev := statSet d baseKey 18

def refuseTree (d : Dev) (cmd code : Nat) : Dev := keyRes (if code == 1 then holdupLow d else d) cmd code

/-! ### The journal (R376, R377) -/

/-- Write a record to the slot the select word does not name, then the select word. -/
def journal (d : Dev) (cmd : Nat) (n : KeyNode) (applied : Bool) : Dev :=
  let slot := match d.key.select with
    | some 0 => 1
    | _ => 0
  { d with key := { d.key with
      slots := d.key.slots.set slot (some ⟨d.key.seq + 1, cmd, n, true, applied⟩),
      select := some slot, seq := d.key.seq + 1 } }

/-- Mark the record the select word names applied. -/
def journalApplied (d : Dev) : Dev :=
  match d.key.select with
  | some k => { d with key := { d.key with slots := d.key.slots.modify k (Option.map fun r => { r with applied := true }) } }
  | none => d

/-- Nodes the walk of an INVALIDATE marks ORPHAN: every VALID descendant (R378). -/
def orphanList (d : Dev) (i : Nat) : List Nat :=
  (d.key.nodes.filter (fun n => n.st == .valid && descends d n.index i)).map (·.index)

def orphanWalk (d : Dev) (l : List Nat) : Dev :=
  { d with key := { d.key with nodes := d.key.nodes.map (fun n =>
      if l.contains n.index && n.st == .valid then { n with st := .orphan } else n) } }

/-- The replay of self-test (R377): apply an unapplied record of the slot the select word names. -/
def journalReplay (d : Dev) : Dev :=
  match d.key.select with
  | none => report d srcKeyJournal 0 0
  | some k =>
    match d.key.slots.getD k none with
    | some r =>
      if !r.applied && r.crcGood then
        let d1 := putNode d r.node
        journalApplied (if r.cmd == 2 then orphanWalk d1 (orphanList d1 r.node.index) else d1)
      else d
    | none => d

/-- A start that finds no operational root draws one (R370). -/
def newRoot (d : Dev) : Dev :=
  let (root, d1) := drawBytes d 32
  { d1 with key := { d1.key with
      root := some root, nodes := d1.key.nodes.map (fun n => { n with st := .invalid }),
      slots := [none, none], rootGen := d1.key.rootGen + 1, tamper := putBit d1.key.tamper 16 true } }

/-! ### Working keys (R379, R380) -/

def workOf (d : Dev) (e : Nat) : WorkKey := d.key.work.getD e {}

/-- A working register changes at its engine's operation boundary: the Tollgate's at its next flush edge, the others' before their next operation. -/
def setWork (d : Dev) (e : Nat) (w : WorkKey) : Dev :=
  if e == 0 then { d with key := { d.key with tolNext := some w } }
  else { d with key := { d.key with work := d.key.work.set e w } }

/-- The signal of R378: the engine clears its register and shows ORPH. -/
def orphanEngine (d : Dev) (e : Nat) : Dev :=
  if (workOf d e).node.isSome then setWork d e { node := none, key := [], orph := true }
  else if e == 0 && (d.key.tolNext.bind (·.node)).isSome then setWork d e { node := none, key := [], orph := true }
  else d

/-- The node a register holds, or is about to hold. -/
def heldNode (d : Dev) (e : Nat) : Option Nat :=
  if e == 0 then match d.key.tolNext with
    | some w => w.node
    | none => (workOf d 0).node
  else (workOf d e).node

/-- Load a node into an engine's register: the code of KEY_RES (R372, R373, R379). -/
def loadNode (d : Dev) (e i : Nat) : Dev × Nat :=
  let n := nodeOf d i
  match d.key.root with
  | none => (d, 7)
  | some root =>
    if n.st != .valid then (d, 5)
    else if !n.dest.testBit e || !engineAccepts e n.usage then (d, 6)
    else
      let o := Config.nodeOpen (wrapKey root i) n.wrapped n.tag
      if o.1 then (setWork d e { node := some i, key := beBytes 32 o.2, orph := false }, 0)
      else (report d srcKeyCorrupt 0 i, 10)

/-- At the end of self-test each register is loaded with the lowest AUTO node of its engine (R379). -/
def autoload (d : Dev) : Dev :=
  let d1 := (List.range 5).foldl (fun d e =>
    match (List.range 1024).find? (fun i =>
        let n := nodeOf d i
        n.st == .valid && n.auto && n.dest.testBit e) with
    | some i => (loadNode d e i).1
    | none => d) d
  match d1.key.tolNext with
  | some w => { d1 with key := { d1.key with work := d1.key.work.set 0 w, tolNext := none } }
  | none => d1

/-! ### Commands -/

/-- The 32 bytes of KEY_DATA0–7, byte 0 in bits 31:24 of DATA0. -/
def wordsBytes (d : Dev) (k n : Nat) : List Byte := (List.range n).flatMap (fun i => beBytes 4 (rg d (k + 4 * i)).toNat)

def clearKeyData (d : Dev) : Dev := (List.range 8).foldl (fun d i => setReg d (KEY_DATA + 4 * i) 0) d

/-- Checks 4 to 7 of Table 16.2: the code of the first that fails. -/
def commitCheck (d : Dev) : Option Nat :=
  let w := rg d KEY_NODE
  let i := bits w 9 0
  let p := bits w 25 16
  let usage := bits w 29 28
  let dest := bits w 15 11
  if i == 0 || (nodeOf d i).st != .invalid then some 5
  else if (nodeOf d p).st != .valid || (nodeOf d p).usage != 0 then some 3
  else if 5 < nodeDepth d p then some 4
  else if (List.range 5).any (fun e => dest.testBit e && !engineAccepts e usage) || (usage == 3 && !bit w 31) then some 6
  else none

/-- COMMIT (R375): the checks, then the node through the journal; KEY_DATA is cleared whatever the outcome. -/
def keyCommitDo (d : Dev) : Dev :=
  let w := rg d KEY_NODE
  let i := bits w 9 0
  match treeWriteCheck d, commitCheck d, d.key.root with
  | some c, _, _ => clearKeyData (refuseTree d 1 c)
  | none, some c, _ => clearKeyData (keyRes d 1 c)
  | none, none, none => clearKeyData (keyRes d 1 7)
  | none, none, some root =>
    let (m, d1) := if bit w 31 then drawBytes d 32 else (wordsBytes d KEY_DATA 8, d)
    let sealed := leBytes 40 (Config.nodeSeal (wrapKey root i) m)
    let n : KeyNode := ⟨i, .valid, bits w 25 16, bits w 29 28, bits w 15 11, bit w 30, ((nodeOf d i).gen + 1) % 256,
      sealed.take 32, sealed.drop 32⟩
    clearKeyData (keyRes (journalApplied (putNode (journal d1 1 n false) n)) 1 0)

/-- INVALIDATE (R378) up to the start of the walk. -/
def keyInvalidateDo (d : Dev) (i : Nat) : Dev :=
  let n := nodeOf d i
  match treeWriteCheck d with
  | some c => refuseTree d 2 c
  | none =>
    if i == 0 || n.st == .invalid then keyRes d 2 5
    else
      let walk := orphanList d i
      let d1 := putNode (journal d 2 { n with st := .invalid } false) { n with st := .invalid }
      let d2 := if n.st == .valid then
          (List.range 5).foldl (fun d' e =>
            match heldNode d e with
            | some k => if k == i || descends d k i then orphanEngine d' e else d'
            | none => d') d1
        else d1
      { d2 with key := { d2.key with busy := some ⟨2, walk, []⟩ } }

/-- COMMIT of KEY_CMD (R375). -/
def execKeyCommit (req : Requester) (s : State) : Host.Outcome State Fault Refusal :=
  act s fun d => withWrite d req KEY_CMD fun d => keyCommand d 1 keyCommitDo

/-- INVALIDATE of KEY_CMD (R378). -/
def execKeyInvalidate (req : Requester) (node : Nat) (s : State) : Host.Outcome State Fault Refusal :=
  act s fun d => withWrite d req KEY_CMD fun d => keyCommand d 2 (fun d => keyInvalidateDo d (node % 1024))

/-- The walk is complete (R378): its nodes are ORPHAN and the result is posted. -/
def walkDone (d : Dev) : Dev :=
  match d.key.busy with
  | some b =>
    if b.cmd == 2 then
      let d1 := journalApplied (orphanWalk d b.walk)
      keyRes { d1 with key := { d1.key with busy := none } } 2 0
    else d
  | none => d

def execInvalidateWalkComplete (s : State) : Host.Outcome State Fault Refusal := act s walkDone

/-- LOAD (R379); ENGINE 5 to 7 is refused with BADCMD. -/
def keyLoadDo (d : Dev) (e i : Nat) : Dev :=
  if 4 < e then keyRes d 3 9 else let (d1, c) := loadNode d e i; keyRes d1 3 c

def execKeyLoad (req : Requester) (engine node : Nat) (s : State) : Host.Outcome State Fault Refusal :=
  act s fun d => withWrite d req KEY_CMD fun d => keyCommand d 3 (fun d => keyLoadDo d (engine % 8) (node % 1024))

/-- UNLOAD (R379). -/
def keyUnloadDo (d : Dev) (e : Nat) : Dev := if 4 < e then keyRes d 4 9 else keyRes (setWork d e {}) 4 0

def execKeyUnload (req : Requester) (engine : Nat) (s : State) : Host.Outcome State Fault Refusal :=
  act s fun d => withWrite d req KEY_CMD fun d => keyCommand d 4 (fun d => keyUnloadDo d (engine % 8))

/-! ### The Seal (R368, R369, R388, R390) -/

/-- The order of P-384 (R369). -/
def p384n : Nat :=
  0xFFFFFFFFFFFFFFFFFFFFFFFFFFFFFFFFFFFFFFFFFFFFFFFFC7634D81F4372DDF581A0DB248B0A77AECEC196ACCC52973

/-- A private scalar from key material and a label (R369). -/
def scalarOf (material : List Byte) (label : List Byte) : Nat := beNat (kdf material label [] 448) % (p384n - 1) + 1

def identityScalar (d : Dev) : Nat := scalarOf (d.key.idRoot.getD []) (ascii "GELUST IDENTITY")

def sealScalar (d : Dev) : Nat := scalarOf (workOf d 3).key (ascii "GELUST SEAL")

/-- An uncompressed point (R80). -/
def pointBytes (scalar : Nat) : List Byte := 4#8 :: beBytes 96 (Config.ecdsaPublic scalar).toNat

def sha384B (l : List Byte) : List Byte := beBytes 48 (Config.sha384 l).toNat

/-- TREE_DIGEST (R390). -/
def treeBytes (d : Dev) : List Byte :=
  beBytes 4 d.key.rootGen ++ (List.range 1024).flatMap (fun i =>
    let n := nodeOf d i
    beBytes 2 i ++ beBytes 2 n.parent
      ++ beBytes 1 (match n.st with
          | .invalid => 0
          | .valid => 1
          | .orphan => 2)
      ++ beBytes 1 n.usage ++ beBytes 1 (n.dest + 128 * b2n n.auto) ++ beBytes 1 n.gen)

/-- The in-effect ID and digest (R85, R89); zero while no charter is in effect. -/
def inEffectId (d : Dev) : Nat := match d.cht.cur with
  | some c => c.id.toNat
  | none => 0
def inEffectDigest (d : Dev) : List Byte := match d.cht.cur with
  | some c => c.digest
  | none => zeros 48
def inEffectSvn (d : Dev) : Nat := match d.cht.cur with
  | some c => c.svn
  | none => 0

/-- Bytes 0x000–0x1C7 of the Seal statement (Table 16.5). -/
def sealStatement (d : Dev) : List Byte :=
  let empty := (workOf d 3).node.isNone
  beBytes 2 0x0100
    ++ beBytes 2 (b2n (d.gen.mode == .factory) + 2 * b2n d.key.root.isNone + 4 * b2n (!empty) + 8 * b2n (fuses d).charterSigner)
    ++ beBytes 1 (modeCode d.gen.mode) ++ beBytes 1 0xB1 ++ beBytes 2 0x8816 ++ beBytes 8 d.bellCnt.toNat
    ++ wordsBytes d KEY_NONCE 4 ++ pointBytes (identityScalar d) ++ zeros 3
    ++ (if empty then zeros 97 else pointBytes (sealScalar d)) ++ zeros 1
    ++ beBytes 2 ((workOf d 3).node.getD 0xFFFF)
    ++ sha384B (fuses d).bytes ++ beBytes 8 (inEffectId d) ++ inEffectDigest d
    ++ padTo 48 d.cht.fwDigest ++ sha384B (treeBytes d)
    ++ beBytes 8 d.tsc.a.sum.toNat ++ beBytes 8 d.tsc.b.sum.toNat
    ++ beBytes 4 d.key.rootGen ++ beBytes 2 (inEffectSvn d) ++ zeros 2

/-- SEAL (R388): every value is sampled at acceptance. -/
def keySealDo (d : Dev) : Dev :=
  if !d.key.idOk then keyRes d 5 5
  else { d with key := { d.key with busy := some ⟨5, [], sealStatement d⟩, outValid := false } }

def execKeySeal (req : Requester) (s : State) : Host.Outcome State Fault Refusal :=
  act s fun d => withWrite d req KEY_CMD fun d => keyCommand d 5 keySealDo

/-- Write bytes to KEY_OUT, byte 4n in bits 31:24 of KEY_OUTn. -/
def putOut (d : Dev) (l : List Byte) : Dev :=
  (List.range (l.length / 4)).foldl (fun d i => setReg d (KEY_OUT + 4 * i) (w32 (beAt l (4 * i) 4))) d

/-- Post the result of the command in progress, where it is `cmd`. -/
def keyFinish (d : Dev) (cmd : Nat) (f : Dev → List Byte → Dev) : Dev :=
  match d.key.busy with
  | some b =>
    if b.cmd == cmd then
      let d1 := f d b.out
      keyRes { d1 with key := { d1.key with busy := none, outValid := true } } cmd 0
    else d
  | none => d

/-- The statement is signed with the identity key, its per-message secret drawn (R388). -/
def execSealComplete (s : State) : Host.Outcome State Fault Refusal :=
  act s fun d => keyFinish d 5 fun d st =>
    let (k, d1) := drawBelow d (p384n - 1)
    putOut d1 (st ++ beBytes 96 (Config.ecdsaSign (identityScalar d1) (sha384B st) (k + 1)).toNat)

/-! ### The firmware MAC (R391) -/

def keyFwmacDo (d : Dev) : Dev :=
  if (workOf d 4).node.isNone then keyRes d 6 5
  else
    let len := min 4096 (rgf d KEY_FMAC_LEN 12 0)
    let mac := beBytes 48 (Config.hmac384 (workOf d 4).key ((wordsBytes d KEY_MSG 1024).take len)).toNat
    { d with key := { d.key with busy := some ⟨6, [], mac⟩, outValid := false } }

def execKeyFwmac (req : Requester) (s : State) : Host.Outcome State Fault Refusal :=
  act s fun d => withWrite d req KEY_CMD fun d => keyCommand d 6 keyFwmacDo

/-- The MAC is in KEY_OUT0–11 (R391). -/
def execFwmacComplete (s : State) : Host.Outcome State Fault Refusal := act s fun d => keyFinish d 6 putOut

/-! ### Tamper (R385 to R387) -/

/-- A tamper source fires (R386): the root is gone, every engine is signalled, the event is counted, latched and, with the core running, logged. -/
def tamper (d : Dev) (source : Nat) : Dev :=
  let core := d.power.railsValid && d.start.phase != .held
  let d1 := if core then (List.range 5).foldl orphanEngine d else d
  let d2 := { d1 with key := { d1.key with
    root := none, zcount := min 65535 (d1.key.zcount + 1), tamper := putBit d1.key.tamper source true } }
  if core then report d2 srcKeyTamper 0 (2 ^ source) else d2

/-- ZEROISE fires the software source (R385). -/
def execKeyZeroise (req : Requester) (s : State) : Host.Outcome State Fault Refusal :=
  act s fun d => withWrite d req KEY_CMD fun d => keyCommand d 7 (fun d => keyRes (tamper d 8) 7 0)

/-- A source of Table 16.4 fires; a pin only where KEY_TCFG watches it. -/
def execTamperEvent (source : Nat) (s : State) : Host.Outcome State Fault Refusal :=
  act s fun d =>
    if 7 < source || (source < 4 && !bit d.key.tcfg source) then d else tamper d source

/-- A write of KEY_TCFG: ignored once LOCK is 1 (R387). -/
def keyTcfgWrite (d : Dev) (val : Word) : Dev :=
  if bit d.key.tcfg 31 then d else { d with key := { d.key with tcfg := val &&& 0x8000FFFF#32 } }

def execKeyTcfgWrite (req : Requester) (val : Word) (s : State) : Host.Outcome State Fault Refusal :=
  act s fun d => withWrite d req KEY_TCFG fun d => keyTcfgWrite d val

/-! ### Hold-up (R381, R383) -/

/-- E of R381 from VHSNS as last sampled, C_eff and HRATIO, rounded down to 1 µJ. -/
def energy (d : Dev) : Nat :=
  let f := fuses d
  min f.holdcap d.key.cMeas * (d.key.vhsns * f.hratio) * (d.key.vhsns * f.hratio) / (2 * 256 * 1000000)

/-- A sample of VHSNS (R381). The rounding of V to 1 mV is not stated. -/
def holdupSample (d : Dev) (vhsns : Nat) : Dev :=
  let (v, d1) := freeDiv { d with key := { d.key with vhsns := vhsns } } (vhsns * (fuses d).hratio : Nat) 16
  { d1 with key := { d1.key with v := v.toNat, e := energy d1, eValid := true, sampleT := d.t } }

/-- A discharge test (R383): 20 µC over ΔV. With HOLDCAP = 0 none runs; for ΔV = 0 the result is a free value. -/
def dischargeTest (d : Dev) (deltaMv : Nat) : Dev :=
  let cap := (fuses d).holdcap
  if cap == 0 then d
  else
    let (c, d1) := if deltaMv == 0 then let (x, d') := drawBelow d 65536; ((x : Int), d') else freeDiv d 20000 deltaMv
    let low := deltaMv != 0 && 200000 < 8 * cap * deltaMv
    let d2 := { d1 with key := { d1.key with cMeas := c.toNat, degraded := low, testRun := false, htestT := d.t } }
    let d3 := { d2 with key := { d2.key with e := if d2.key.eValid then energy d2 else d2.key.e } }
    if low then logC d3 srcHoldupDegraded 0 (c.toNat % 65536) else d3

/-- A key update or an NV write is in progress (R383). -/
def nvBusy (d : Dev) : Bool := (d.key.busy.any (·.cmd == 2)) || d.tsc.ckptFrame.isSome || d.ptp.storing.isSome

/-- When the next discharge test comes (R383): PERIOD s after the last, at once where KEY_HTEST.RUN has asked for it; one that falls due during a write waits, up to 100 ms. -/
def htestDue (d : Dev) : Nat :=
  let p := rgf d KEY_HTEST 15 0
  (if d.key.testRun then d.t.toNat else d.key.htestT.toNat + (if p == 0 then 60 else p) * 1000000000)
    + (if nvBusy d then 100 * 1000000 else 0)

/-- A write of KEY_HTEST: PERIOD, and RUN asks for a test now (R383). -/
def keyHtestWrite (d : Dev) (val : Word) : Dev :=
  let d1 := putField d KEY_HTEST 15 0 (bits val 15 0)
  if bit val 31 && (fuses d).holdcap != 0 then { d1 with key := { d1.key with testRun := true } } else d1

def execKeyHtestRun (req : Requester) (val : Word) (s : State) : Host.Outcome State Fault Refusal :=
  act s fun d => withWrite d req KEY_HTEST fun d => keyHtestWrite d val

end Sys2Proof.Machine
end

