-- ==== Sys2Proof/Machine/ChtImage.lean ====
section
/-! DEFINITION. Reading a charter image: its header, directory and bodies, the structure it produces, and the checks of Table 4.9 (R70 to R81, R86, R268, R439, R471). -/
namespace Sys2Proof.Machine
open Sys2Proof

/-! ### Header and directory (R71, R72) -/

structure ImgHeader where
  fmtVer   : Nat
  flags    : Nat
  part     : Nat
  revMin   : Nat
  revMax   : Nat
  id       : Nat
  baseId   : Nat
  svn      : Nat
  nsect    : Nat
  imageLen : Nat
  keySel   : Nat
  oscFreq  : Nat
  deriving DecidableEq, Repr

def readHeader (l : List Byte) : ImgHeader :=
  ⟨beAt l 4 2, beAt l 6 2, beAt l 8 2, beAt l 10 1, beAt l 11 1, beAt l 12 8, beAt l 20 8, beAt l 28 2, beAt l 30 2,
   beAt l 32 4, beAt l 36 1, beAt l 37 1⟩

def ImgHeader.isDelta (h : ImgHeader) : Bool := h.flags.testBit 0

structure DirEntry where
  type   : Nat
  sflags : Nat
  off    : Nat
  len    : Nat
  rsv    : Nat
  deriving DecidableEq, Repr

def readDir (l : List Byte) (n : Nat) : List DirEntry :=
  (List.range n).map fun i =>
    let o := 64 + 16 * i
    ⟨beAt l o 2, beAt l (o + 2) 2, beAt l (o + 4) 4, beAt l (o + 8) 4, beAt l (o + 12) 4⟩

/-- Checks 1 and 2 of Table 4.9: the code of the first that fails. -/
def headCheck (l : List Byte) (avail : Nat) : Option Nat :=
  let h := readHeader l
  if avail < 64 then (if beAt l 0 4 == 0x474C4348 then some 9 else some 1)
  else if beAt l 0 4 != 0x474C4348 then some 1
  else if h.imageLen < 64 + 16 * h.nsect + 200 || 4194304 < h.imageLen || avail < h.imageLen then some 9
  else none

/-! ### Bodies (R73 to R79) -/

/-- Entries of 8 bytes. -/
def readLinks (l : List Byte) (n : Nat) : List Link :=
  (List.range n).map fun i => ⟨beAt l (8 * i) 2, beAt l (8 * i + 2) 2, w32 (beAt l (8 * i + 4) 4)⟩

def readInits (l : List Byte) (n : Nat) : List (Nat × Word) :=
  (List.range n).map fun i => (beAt l (8 * i) 4, w32 (beAt l (8 * i + 4) 4))

/-- Pitch records to the end of a body; none where they do not fill it exactly. PFLAGS bits 7:1 are reserved. -/
def readPitches : Nat → List Byte → Option (List PitchRecord)
  | _, [] => some []
  | 0, _ => none
  | f + 1, l =>
    let nl := beAt l 4 2
    let ni := beAt l 6 2
    let len := 8 + 8 * nl + 8 * ni
    if l.length < len || 1 < beAt l 3 1 then none
    else (readPitches f (l.drop len)).map fun r =>
      ⟨beAt l 0 1, beAt l 1 1, beAt l 2 1, (beAt l 3 1).testBit 0, readLinks (l.drop 8) nl,
       readInits (l.drop (8 + 8 * nl)) ni⟩ :: r

/-- Number of pitches of a kind (Table 4.1). -/
def kindCount : Nat → Nat
  | 1 => 32 | 2 => 4 | 3 => 24 | 4 => 8 | 5 => 8 | 6 => 16 | 7 => 6
  | _ => 0

/-- Is FUNC one of Table 4.6 for a kind, or empty? -/
def funcOk (kind func : Nat) : Bool :=
  func == 0 || match kind with
    | 1 => func ≤ 4
    | 2 => func ≤ 1
    | 3 => func ≤ 2
    | 4 => func ≤ 1
    | 5 => func ≤ 3
    | 6 => func ≤ 2
    | 7 => func ≤ 3
    | _ => false

/-- Lane mask and speed code of a port (R268, Table 12.1). -/
def lanesOk (port mask code : Nat) : Bool :=
  if port < 4 then (code == 1 && mask == 0xF) || (code == 2 && mask == 3) || (code == 3 && mask == 1)
  else 3 ≤ code && code ≤ 6 && (mask == 1 || mask == 2)

/-- A link entry of Table 4.7 for a pitch of this kind, index and function. -/
def linkOk (kind index func : Nat) (k : Link) : Bool :=
  let z := k.value == 0
  match k.type with
  | 1 => kind == 1 && k.arg == 0
  | 2 => kind == 1 && z && (k.arg ≤ 1 || (0x10 ≤ k.arg && k.arg < 0x14))
  | 3 => kind == 3 && z && k.arg < 4
  | 4 => kind == 4 && z && (k.arg == 0 || (0x10 ≤ k.arg && k.arg < 0x1A))
  | 5 => kind == 5 && (k.arg == 0 || (0x10 ≤ k.arg && k.arg < 0x30)) && (if func == 2 then k.value.toNat < 32 else z)
  | 6 => kind == 6 && z && k.arg < 8
  | 7 => kind == 7 && lanesOk index k.arg k.value.toNat
  | 8 => kind == 7 && k.arg < 8 && k.value.toNat < 2 ^ 14 && bits k.value 7 0 < 64
  | 9 => (kind == 7 || kind == 4 || kind == 6) && z && k.arg < 3
  | _ => false

/-- No two of a list equal. -/
def distinct [BEq α] (l : List α) : Bool := l.length == l.eraseDups.length

/-- A pitch record is well formed by itself (R73): removal entries occur only in a delta. -/
def recordOk (delta : Bool) (r : PitchRecord) : Bool :=
  r.index < kindCount r.kind && funcOk r.kind r.func
    && r.links.all (fun k =>
        if 0x8000 ≤ k.type then delta && k.arg == 0 && k.value == 0 && 0x8001 ≤ k.type && k.type ≤ 0x8009
        else linkOk r.kind r.index r.func k)
    && distinct (r.links.map (fun k => (k.type, if k.type == 8 then k.arg else 0)))

def readPins (l : List Byte) : List PinEntry :=
  (List.range (l.length / 4)).map fun i => ⟨beAt l (4 * i) 2, beAt l (4 * i + 2) 1, beAt l (4 * i + 3) 1⟩

/-- FUNC values a pin takes (Table 21.5). -/
def pinFuncOk (pin func : Nat) : Bool :=
  func == 0 ||
    if pin < 8 then func == 1
    else if pin < 24 then func == 2 || func == 3
    else if pin < 28 then func == 4
    else if pin < 32 then func == 5
    else if pin == 32 then func == 6
    else func == 7

def pinOk (e : PinEntry) : Bool := e.pin < 34 && pinFuncOk e.pin e.func && e.attr % 4 < 3 && e.attr < 16

def readProfiles (l : List Byte) : List Profile :=
  (List.range (l.length / 8)).map fun i =>
    ⟨beAt l (8 * i) 1, beAt l (8 * i + 1) 1, beAt l (8 * i + 2) 1, beAt l (8 * i + 3) 1, beAt l (8 * i + 4) 1⟩

def profileOk (p : Profile) : Bool := p.port < 6 && 1 ≤ p.profile && p.profile ≤ 6 && 1 ≤ p.role && p.role ≤ 3 && p.scale ≤ 1

def readPolicyEntries (l : List Byte) : List PolicyEntry :=
  (List.range (l.length / 8)).map fun i =>
    ⟨beAt l (8 * i) 2, beAt l (8 * i + 2) 1, beAt l (8 * i + 3) 1, beAt l (8 * i + 4) 4⟩

def readPolicy (l : List Byte) : Policy :=
  { graceMs := beAt l 0 2, retryMax := beAt l 2 1, retryWindow := beAt l 4 2, defLadder := beAt l 6 1,
    entries := readPolicyEntries (l.drop 16) }

def policyOk (l : List Byte) : Bool :=
  let p := readPolicy l
  16 ≤ l.length && l.length % 8 == 0 && 1 ≤ p.graceMs && p.graceMs ≤ 1000 && p.retryMax ≤ 15 && 1 ≤ p.retryWindow
    && beAt l 3 1 == 0 && beAt l 7 9 == 0 && distinct (p.entries.map (·.source))

/-! ### An image -/

/-- The body of a section: empty where the image does not carry it. -/
def bodyOf (l : List Byte) (dir : List DirEntry) (type : Nat) : List Byte :=
  match dir.find? (·.type == type) with
  | some e => slice l e.off e.len
  | none => []

def carries (dir : List DirEntry) (type : Nat) : Bool := dir.any (·.type == type)

def allZero (l : List Byte) : Bool := l.all (· == 0)

/-- What a verified image says. -/
structure Img where
  hdr      : ImgHeader
  records  : List PitchRecord
  hasPorts : Bool
  loadBuf  : Nat
  ethref   : Nat
  pins     : List PinEntry
  profiles : List Profile
  policy   : Option Policy
  hasFw    : Bool
  fw       : List Byte
  signed   : List Byte

/-- An image's own contents. -/
def readImg (l : List Byte) : Img :=
  let h := readHeader l
  let dir := readDir l h.nsect
  let ports := bodyOf l dir 2
  let n := ports.length
  let recs := fun (b : List Byte) => (readPitches b.length b).getD []
  let pol := bodyOf l dir 5
  { hdr := h
    records := recs (bodyOf l dir 1) ++ recs (ports.take (n - 8))
    hasPorts := !ports.isEmpty
    loadBuf := if ports.isEmpty then 0 else beAt ports (n - 8) 2
    ethref := if ports.isEmpty then 0xFF else beAt ports (n - 6) 1
    pins := readPins (bodyOf l dir 3)
    profiles := readProfiles (bodyOf l dir 4)
    policy := if pol.isEmpty then none else some (readPolicy pol)
    hasFw := carries dir 6
    fw := bodyOf l dir 6
    signed := l.take (h.imageLen - 200) }

/-! ### The structure an image produces (R70, R87, R88) -/

/-- The links of a pitch after a delta's record (R87). -/
def settleLinks (old : List Link) (new : List Link) : List Link :=
  let carried := new.filter (fun k => k.type < 0x8000)
  old.filter (fun k => !new.any (fun n => n.type % 0x8000 == k.type)) ++ carried

/-- Does a record keep its pitch's running state (R87), OUTSEL's stall apart: KEEP_STATE, the same FUNC, and STEER, DRIVE and GRID_SRC as they were? -/
def keepsState (old : Pitch) (r : PitchRecord) : Bool :=
  let new := settleLinks old.links r.links
  r.keepState && (r.kind == 1 || r.kind == 2 || r.kind == 5) && old.func == r.func
    && [2, 3, 5].all (fun t => old.links.filter (·.type == t) == new.filter (·.type == t))

/-- Apply a record to the pitches: a full charter starts from none. A pitch that keeps its state keeps its initial values, followed by the record's (R87). -/
def applyRecord (ps : List Pitch) (r : PitchRecord) : List Pitch :=
  let rest := ps.filter (fun p => !(p.kind == r.kind && p.index == r.index))
  if r.func == 0 then rest
  else
    match ps.find? (fun p => p.kind == r.kind && p.index == r.index) with
    | some p =>
      rest ++ [{ kind := r.kind, index := r.index, func := r.func, links := settleLinks p.links r.links,
                 inits := if keepsState p r then p.inits ++ r.inits else r.inits }]
    | none => rest ++ [{ kind := r.kind, index := r.index, func := r.func, links := settleLinks [] r.links, inits := r.inits }]

/-- Replace the entries of the same key, add the others (R88). -/
def mergeBy (same : α → α → Bool) (old new : List α) : List α :=
  old.map (fun o => (new.find? (same o)).getD o) ++ new.filter (fun n => !old.any (fun o => same o n))

def samePin (a b : PinEntry) : Bool := a.pin == b.pin
def sameProfile (a b : Profile) : Bool := a.port == b.port && a.domain == b.domain
def samePolicy (a b : PolicyEntry) : Bool := a.source == b.source

/-- The structure of a full charter. -/
def fullFabric (i : Img) : Fabric :=
  { pitches := i.records.foldl applyRecord []
    pins := i.pins, profiles := i.profiles
    policy := i.policy.getD builtinPolicy
    hifVer := beAt i.fw 0 2, entry := beAt i.fw 8 4
    loadBuf := i.loadBuf, ethref := i.ethref, oscFreq := i.hdr.oscFreq }

/-- The structure in effect with a delta applied. -/
def deltaFabric (f : Fabric) (i : Img) : Fabric :=
  { f with
    pitches := i.records.foldl applyRecord f.pitches
    pins := mergeBy samePin f.pins i.pins
    profiles := mergeBy sameProfile f.profiles i.profiles
    policy := match i.policy with
      | some p => { p with entries := mergeBy samePolicy f.policy.entries p.entries }
      | none => f.policy }

def fabPitch (f : Fabric) (kind index : Nat) : Option Pitch := f.pitches.find? (fun p => p.kind == kind && p.index == index)

def pitchLink (p : Pitch) (type : Nat) : Option Link := p.links.find? (·.type == type)

/-- Stalls that steer a target of a structure. -/
def steerersOf (f : Fabric) (arg : Nat) : List Nat :=
  (f.pitches.filter (fun p => p.kind == 1 && (pitchLink p 2).any (·.arg == arg))).map (·.index)

/-- A key in the register set of a pitch (Table 4.16); PTP entries are those whose PROFILES entry names the port. -/
def inRegSet (f : Fabric) (kind n key : Nat) : Bool :=
  let rng := fun (a len : Nat) => a ≤ key && key < a + len
  match kind with
  | 1 => rng (0x100000 + n * 0x800) 0x800 || rng (0xC2000 + n * 0x20) 0x20
  | 2 => rng (0x141000 + n * 0x100) 0x100
  | 3 => rng (0x142000 + n * 0x20) 0x20
  | 4 => rng (0x181000 + n * 0x40) 0x40
  | 5 => rng (0x182000 + n * 0x80) 0x80
  | 6 => rng (0x183000 + n * 0x80) 0x80
  | 7 =>
    rng (0x280000 + n * 0x10000) 0x10000 || rng (0x381000 + n * 0x40) 0x40 || rng (0x3C0040 + 4 * n) 4
      || (List.range 16).any (fun e => (f.profiles[e]?).any (fun p => p.port == n) && rng (0x382000 + e * 0x40) 0x40)
  | _ => false

/-- An initial value of a pitch (R74). -/
def initOk (f : Fabric) (kind n : Nat) (iv : Nat × Word) : Bool := inRegSet f kind n iv.1 && (fieldsAt iv.1).isSome

/-- A register as its initial values leave it. -/
def initWord (p : Pitch) (key : Nat) : Word := (p.inits.filter (·.1 == key)).foldl (fun _ iv => iv.2) (resetWord key)

/-- f_src of an APLL that takes OSC, Hz; none for a REFIN source (R181). -/
def planSrc (osc : Nat) (cfg : Word) : Option Nat := let r := bits cfg 3 0; if r == 0 || 10 < r then some osc else none

/-- The planned frequency of the ETHREF output lies within ±100e-6 of 156.25 MHz (R75). -/
def ethrefPlan (osc : Nat) (out apll : Pitch) : Bool :=
  let cfg := initWord apll (AP_CFG + apll.index * 0x100)
  match planSrc osc cfg with
  | none => true
  | some src =>
    let n := bits (initWord apll (AP_NINT + apll.index * 0x100)) 11 0 * 2 ^ 48
      + bits (initWord apll (AP_NFRAC_HI + apll.index * 0x100)) 15 0 * 2 ^ 32
      + (initWord apll (AP_NFRAC_LO + apll.index * 0x100)).toNat
    let m := max 7 (bits (initWord out (OUT_CFG + out.index * 0x20)) 23 0)
    let num := src * (1 + b2n (bit cfg 4)) * n
    let den := (1 + b2n (bit cfg 5)) * 2 ^ 48 * m
    15623437500 * den ≤ 100 * num && 100 * num ≤ 15626562500 * den

/-- The rules of R70, R75, R77, R268 and R471 on a structure: the section of the first that is broken. `delta`: whether each scale has a steering stall, and the ETHREF output, are left to step 10 (R81, R86). -/
def fabricFault (f : Fabric) (osc : Nat) (delta : Bool) : Option Nat :=
  let stalls := f.pitches.filter (·.kind == 1)
  let steerOk := fun (p : Pitch) => match pitchLink p 2 with
    | none => true
    | some k => (p.func == 1 && k.arg ≤ 1)
        || ((p.func == 2 || p.func == 3) && 0x10 ≤ k.arg && (fabPitch f 2 (k.arg - 0x10)).isSome)
  let scaleOk := fun (s : Nat) => let n := (steerersOf f s).length; n == 1 || (delta && n == 0)
  let fab := scaleOk 0 && scaleOk 1 && stalls.all steerOk
    && (stalls.filter (·.func == 4)).length ≤ 1 && (stalls.filter (·.func == 4)).all (fun p => (pitchLink p 2).isNone)
    && (List.range 4).all (fun n => (steerersOf f (0x10 + n)).length ≤ 1)
    && (f.pitches.filter (·.kind == 3)).all (fun p => (pitchLink p 3).any (fun k => (fabPitch f 2 k.arg).isSome))
    && (f.pitches.filter (·.kind == 6)).all (fun p => (pitchLink p 6).any (fun k => (fabPitch f 5 k.arg).isSome))
  let eth := delta || f.ethref == 0xFF || (match fabPitch f 3 f.ethref with
    | some o => o.func == 1 && (pitchLink o 3).any (fun k => (fabPitch f 2 k.arg).any (fun a => ethrefPlan osc o a))
    | none => false)
  let ports := (f.pitches.filter (·.kind == 7)).all (fun p => (pitchLink p 7).isSome) && eth
  let pinFunc := fun (n : Nat) => ((f.pins.find? (·.pin == n)).map (·.func)).getD 0
  let pins := f.pitches.all (fun p =>
    (p.kind != 4 || pinFunc p.index == 1) && (p.kind != 6 || pinFunc (8 + p.index) == (if p.func == 1 then 2 else 3)))
  let clients := f.profiles.filter (fun p => p.role != 1)
  let profs := f.profiles.length ≤ 16 && ((clients.map (fun p => (p.domain, p.scale))).eraseDups).length ≤ 2
  if !fab then some 1 else if !ports then some 2 else if !pins then some 3 else if !profs then some 4 else none

/-! ### Verification (R81) -/

/-- The directory is well formed (R71, R72): bodies in order, without gaps but padding to 8 bytes, SEAL last. -/
def dirOk (l : List Byte) (h : ImgHeader) (dir : List DirEntry) : Bool :=
  let rec walk : Nat → List DirEntry → Bool
    | pos, [] => pos == h.imageLen
    | pos, e :: r =>
      let start := (pos + 7) / 8 * 8
      e.off == start && allZero (slice l pos (start - pos)) && e.sflags ≤ 1 && e.rsv == 0
        && (r.isEmpty == (e.type == 0xFF)) && (e.type != 0xFF || e.len == 200) && walk (e.off + e.len) r
  !dir.isEmpty && distinct (dir.map (·.type)) && walk (64 + 16 * h.nsect) dir

def knownType (t : Nat) : Bool := (1 ≤ t && t ≤ 6) || t == 0xFF

/-- Step 9 on the image alone: the section of the first error. Where several sections are malformed the spec does not say which CHT_ERR.SECTION names: here the directory, an unknown type, SEAL, FABRIC, PORTS, PINMUX, PROFILES, POLICY, FIRMWARE, in that order, then initial values, then the structure (DESIGN CHOICE, log 52). -/
def imageFault (l : List Byte) (oscCode : Nat) : Option Nat :=
  let h := readHeader l
  let dir := readDir l h.nsect
  let delta := h.isDelta
  let body := bodyOf l dir
  let unknown := dir.find? (fun e => !knownType e.type && !e.sflags.testBit 0)
  let sealB := body 0xFF
  let pf := readPitches (body 1).length (body 1)
  let ports := body 2
  let pp := readPitches ports.length (ports.take (ports.length - 8))
  let trailer := ports.drop (ports.length - 8)
  let recOk := fun (kinds : Nat → Bool) (o : Option (List PitchRecord)) => match o with
    | none => false
    | some rs => rs.all (fun r => kinds r.kind && recordOk delta r) && distinct (rs.map (fun r => (r.kind, r.index)))
  let fw := body 6
  if 1 < h.flags || !allZero (slice l 38 26) || (!delta && h.baseId != 0)
      || (!delta && (3 < h.oscFreq || (h.oscFreq != 0 && h.oscFreq != oscCode))) || !dirOk l h dir then some 0
  else if unknown.isSome then unknown.map (·.type)
  else if !delta && !((List.range 6).all (fun i => carries dir (i + 1))) then some 0
  else if beAt sealB 0 1 != h.keySel || beAt sealB 1 3 != 0 || beAt sealB 4 1 != 4 || beAt sealB 101 3 != 0 then some 0xFF
  else if !recOk (fun k => 1 ≤ k && k ≤ 6) pf then some 1
  else if !ports.isEmpty && (ports.length < 8 || !recOk (· == 7) pp
      || (!delta && !([0, 1, 2, 4].contains (beAt trailer 0 2))) || !(beAt trailer 2 1 < 24 || beAt trailer 2 1 == 0xFF)
      || beAt trailer 3 5 != 0) then some 2
  else if (body 3).length % 4 != 0 || !(readPins (body 3)).all pinOk || !distinct ((readPins (body 3)).map (·.pin)) then some 3
  else if (body 4).length % 8 != 0 || !(readProfiles (body 4)).all profileOk
      || (List.range ((body 4).length / 8)).any (fun i => beAt (body 4) (8 * i + 5) 3 != 0)
      || !distinct ((readProfiles (body 4)).map (fun p => (p.port, p.domain))) then some 4
  else if !(body 5).isEmpty && !policyOk (body 5) then some 5
  else if !delta && !fw.isEmpty && (fw.length < 16 || beAt fw 0 2 < 0x0100 || 0x0103 < beAt fw 0 2 || beAt fw 2 2 != 0
      || fw.length != 16 + beAt fw 12 4 || 0x180000 < beAt fw 4 4 + beAt fw 12 4) then some 6
  else none

/-- OSC_FREQ code of the frequency identified (R439). -/
def oscCodeOf (hz : Nat) : Nat := if hz == 10000000 then 1 else if hz == 20000000 then 2 else if hz == 40000000 then 3 else 0

/-- The scale that OUTSEL selects just after the target Bell (R86): the selection last written, unless R107 would refuse it. -/
def outselAfter (d : Dev) : Bool :=
  let w := rgb d TSC_OUTSEL 0
  if (scaleOf d w).setDone then w else d.tsc.cur

/-- Does a delta gate the ETHREF output (R86, R195): it rebuilds that output, or changes CFG, NINT or NFRAC of the APLL that drives it? -/
def gatesEthref (d : Dev) (f f' : Fabric) (rs : List PitchRecord) : Bool :=
  f.ethref < 24 && rs.any (fun r =>
    (r.kind == 3 && r.index == f.ethref)
    || (r.kind == 2 && (fabPitch f 3 f.ethref).any (fun o => (pitchLink o 3).any (·.arg == r.index))
        && (match fabPitch f' 2 r.index with
            | none => true
            | some p => [AP_CFG, AP_NINT, AP_NFRAC_LO, AP_NFRAC_HI].any (fun k =>
                let key := k + r.index * 0x100
                let old := ef d key
                (if r.keepState then (p.inits.filter (·.1 == key)).foldl (fun _ iv => iv.2) old else initWord p key) != old))))

/-- What a delta must still satisfy (R86): the code of the first failing check. `stop`: the fourth check is made too. -/
def deltaFault (d : Dev) (baseId : Nat) (hasFw hasPorts : Bool) (ethref : Nat) (rs : List PitchRecord) (f' : Fabric) (stop : Bool) :
    Option Nat :=
  match d.cht.cur with
  | none => some 0x0A
  | some c =>
    let lanes := fun (f : Fabric) (n : Nat) => (fabPitch f 7 n).bind (fun p => pitchLink p 7)
    if c.id.toNat != baseId then some 0x0A
    else if hasFw || (hasPorts && ethref != c.fabric.ethref)
        || rs.any (fun r => r.kind == 7 && lanes c.fabric r.index != lanes f' r.index) || gatesEthref d c.fabric f' rs then some 0x0B
    else if (steerersOf f' 0).isEmpty || (steerersOf f' 1).isEmpty then some 0x0C
    else
      let s := b2n (outselAfter d)
      if stop && !rgb d (baseCht + 4) 1
          && rs.any (fun r => r.kind == 1 && ((steerersOf c.fabric s).contains r.index || (steerersOf f' s).contains r.index)) then
        some 0x0D
      else none

/-- Initial values outside their pitch's register set, or at an offset no chapter names (R74): the section of the first. Records that empty their pitch count too. -/
def initFault (f : Fabric) (rs : List PitchRecord) : Option Nat :=
  let bad := fun (r : PitchRecord) => !(r.inits.all (initOk f r.kind r.index))
  if rs.any (fun r => r.kind != 7 && bad r) then some 1 else if rs.any (fun r => r.kind == 7 && bad r) then some 2 else none

/-- Steps 3 to 10 of Table 4.9: code and section of the first failure, or the image. -/
def verifyImage (d : Dev) (l : List Byte) : (Nat × Nat) ⊕ Img :=
  let h := readHeader l
  let img := readImg l
  let sealB := l.drop (h.imageLen - 200)
  let pub := slice sealB 4 97
  let fu := fuses d
  let keyHash := if fu.charterSigner then fu.custKeyHash else beBytes 48 Config.noroneKeyHash.toNat
  let hasBase := match d.cht.cur with
    | some c => c.id.toNat == h.baseId
    | none => false
  if h.fmtVer < 0x0100 || 0x0102 < h.fmtVer then .inl (2, 0)
  else if h.part != 0x8816 || 0xB1 < h.revMin || h.revMax < 0xB1 then .inl (3, 0)
  else if h.keySel != b2n fu.charterSigner then .inl (4, 0)
  else if h.svn < fu.svnFloor then .inl (5, 0)
  else if sha384B pub != keyHash then .inl (6, 0)
  else if !Config.ecdsaVerify pub (sha384B img.signed) (slice sealB 104 96) then .inl (7, 0)
  else match imageFault l (oscCodeOf d.start.oscHz) with
    | some s => .inl (8, s)
    | none =>
      if h.isDelta then
        let f := match d.cht.cur with
          | some c => c.fabric
          | none => {}
        let f' := deltaFabric f img
        match (initFault (if hasBase then f' else { profiles := img.profiles }) img.records).or
            (if hasBase then fabricFault f' d.start.oscHz true else none) with
        | some s => .inl (8, s)
        | none =>
          match deltaFault d h.baseId img.hasFw img.hasPorts img.ethref img.records f' false with
          | some c => .inl (c, 0)
          | none => .inr img
      else match (initFault (fullFabric img) img.records).or (fabricFault (fullFabric img) d.start.oscHz false) with
        | some s => .inl (8, s)
        | none => .inr img

end Sys2Proof.Machine
end

