-- ==== Sys2Proof/Machine/ChtBuild.lean ====
section
/-! DEFINITION. Building the fabric at a start, and rebuilding pitches when a delta charter takes effect (R39, R74, R85 to R89, R195). -/
namespace Sys2Proof.Machine
open Sys2Proof

/-- Write a pitch's initial values in the order of its record (R74). -/
def writeInits (d : Dev) (l : List (Nat × Word)) : Dev := l.foldl (fun d iv => writeInit d iv.1 iv.2) d

/-- Build a verified full charter (R84, R85): pins, pitches, initial values, firmware, enables; the control cores are released where there is firmware. -/
def buildFabric (d : Dev) (e : InEffect) (fw : List Byte) : Dev :=
  let d1 := { d with cht := { d.cht with
    cur := some e, fwDigest := sha384B fw, fwCode := fw.drop 16, fwAddr := beAt fw 4 4, deltas := 0, stops := 0 } }
  let d2 := buildDomains d1 e.fabric.profiles (fun _ => true)
  let d3 := e.fabric.pitches.foldl (fun d p => writeInits d p.inits) d2
  let d4 := setEnables d3 e.fabric (fun _ _ => true)
  { d4 with gen := { d4.gen with coresRun := !fw.isEmpty } }

/-- Registers of a pitch's set back to their reset values, as written and in effect. -/
def wipeSet (d : Dev) (f : Fabric) (kind n : Nat) : Dev :=
  { d with regs := d.regs.filter (fun e => !inRegSet f kind n e.1), eff := d.eff.filter (fun e => !inRegSet f kind n e.1) }

/-- The stall that steers a scale relearns its holdover model (R87). -/
def forgetModel (s : Scl) : Scl :=
  { s with model := {}, ready := false, learnTime := 0, points := [], accN := 0, accY := 0, accT := 0, learnBells := 0, envOut := false }

/-- Gate an output with a cause (R192, R195). -/
def gateOut (d : Dev) (n cause : Nat) : Dev := updOut d n (fun o => { o with run := false, cause := cause })

/-- Outputs that an APLL drives (R70). -/
def outputsOf (f : Fabric) (apll : Nat) : List Nat :=
  (f.pitches.filter (fun p => p.kind == 3 && (pitchLink p 3).any (·.arg == apll))).map (·.index)

/-- A pitch starts from reset: its running state is as at its first build (R87); a port's domain entries start from their profile's values (R320). An APLL whose fields stay keeps its lock, for its outputs run on (R195). -/
def resetPitch (d : Dev) (f : Fabric) (kind n : Nat) : Dev :=
  match kind with
  | 1 =>
    let d1 := updSel (updStall d n (fun _ => {})) n (fun _ => {})
    let d2 := if (steerersOf f 0).contains n then updScl d1 false forgetModel else d1
    if (steerersOf f 1).contains n then updScl d2 true forgetModel else d2
  | 2 => updApll d n (fun a => { a with prem := 0, pofs := 0, realign := false })
  | 3 => updOut d n (fun _ => {})
  | 4 => { d with pulses := d.pulses.set n {} }
  | 5 => { d with grids := d.grids.set n {} }
  | 6 => { d with trigs := d.trigs.set n {} }
  | 7 => (List.range 16).foldl (fun d e => match f.profiles[e]? with
      | some p => if p.port == n then setBoth d (PT_DCFG + e * 0x40) (profileWord p.profile) else d
      | none => d) (clearPort d n)
  | _ => d

/-- The words whose change gates an APLL's outputs (R195). -/
def apllWords (d : Dev) (n : Nat) : List Word := [AP_CFG, AP_NINT, AP_NFRAC_LO, AP_NFRAC_HI].map (fun k => ef d (k + n * 0x100))

/-- Rebuild one pitch at the delta's Bell (R87, R195). -/
def rebuildPitch (f f' : Fabric) (sel : Bool) (d : Dev) (r : PitchRecord) : Dev :=
  let kept := (fabPitch f r.kind r.index).any (fun p => keepsState p r) && r.func != 0
    && !(r.kind == 1 && (steerersOf f' (b2n sel)).contains r.index)
  let old := apllWords d r.index
  let d1 := if kept then d else resetPitch (wipeSet (wipeSet d f r.kind r.index) f' r.kind r.index) f' r.kind r.index
  let d2 := if r.func == 0 then d1 else writeInits d1 r.inits
  if r.kind == 2 && (apllWords d2 r.index != old || r.func == 0) then
    (outputsOf f r.index).foldl (fun d n => gateOut d n 6)
      (updApll d2 r.index (fun a => { a with lock := false, prem := 0, gated := true, cause := 6 }))
  else if r.kind == 3 then gateOut d2 r.index 6
  else d2

/-- The pitches in effect after a delta, with the initial values that a later block reset reloads (R87). -/
def finalPitches (f' : Fabric) (sel : Bool) (rs : List PitchRecord) : List Pitch :=
  f'.pitches.map fun p =>
    match rs.find? (fun r => r.kind == p.kind && r.index == p.index) with
    | some r => if p.kind == 1 && (steerersOf f' (b2n sel)).contains p.index then { p with inits := r.inits } else p
    | none => p

/-- Does a delta stop the stall that steers the scale selected by OUTSEL (R87)? -/
def stopsSelected (f' : Fabric) (sel : Bool) (rs : List PitchRecord) : Bool :=
  rs.any (fun r => r.kind == 1 && (steerersOf f' (b2n sel)).contains r.index)

/-- Class S writes armed for this Bell to the register sets of rebuilt pitches are discarded (R39). -/
def discardRebuilt (d : Dev) (f' : Fabric) (rs : List PitchRecord) : Dev :=
  let hit := fun (e : Staged) => e.boundary == .bell && !e.late
    && e.words.any (fun w => rs.any (fun r => inRegSet f' r.kind r.index w.1))
  let d1 := { d with staged := d.staged.filter (fun e => !hit e) }
  (d.staged.filter hit).foldl (fun d e => match e.words.getLast? with
    | some w => wign d w.1 (e.by_.map (fun x => ⟨x.1, x.2, w.1⟩))
    | none => d) d1

/-- The charter loader is idle again, its shadow plane and buffer empty. -/
def chtIdle (c : Cht) : Cht :=
  { c with st := .idle, buf := [], slot := none, shadow := none, shadowIsDelta := false, delta := [], target := none }

/-- The windows whose EN a delta sets: those of the stalls and ports it names, and of blocks that nothing was built in before (R84, R87); every other runs on undisturbed. -/
def enabledBy (f : Fabric) (rs : List PitchRecord) (slot chan : Nat) : Bool :=
  if slot == 8 then rs.any (fun r => r.kind == 1 && r.index == chan)
  else if slot == 13 then rs.any (fun r => r.kind == 7 && r.index == chan)
  else !(builtBlocks f).contains slot

/-- A stall that a delta names delivers nothing more for the coming Bell: its scale keeps its INC (R87, R118). -/
def dropOffers (d : Dev) (f f' : Fabric) (rs : List PitchRecord) : Dev :=
  [false, true].foldl (fun d b =>
    if (steerersOf f (b2n b) ++ steerersOf f' (b2n b)).any (fun n => rs.any (fun r => r.kind == 1 && r.index == n)) then
      updScale d b (fun s => { s with offer := none })
    else d) d

/-- The pulse or trigger output that a pin's function makes it, as it holds the pin: the active level and the picosecond at which it ends. -/
def pinActive (d : Dev) (e : PinEntry) : Option (Bool × Int) :=
  if e.func == 1 && (d.pulses.getD e.pin {}).active then
    (d.pulses.getD e.pin {}).endPs.map (!efb d (plKey PL_CFG e.pin) 0, ·)
  else if e.func == 2 && (d.trigs.getD (e.pin - 8) {}).active then
    (d.trigs.getD (e.pin - 8) {}).endPs.map (!efb d (grKey TR_CFG (e.pin - 8)) 0, ·)
  else none

/-- A pin whose function a delta changes completes the active period in which its old function holds it (R472). -/
def holdPin (f' : Fabric) (d : Dev) (e : PinEntry) : Dev :=
  if f'.pins.any (fun x => x.pin == e.pin && x.func != e.func) then
    match pinActive d e with
    | some (level, ps) => { emit d (.pin e.pin (!level) ps) with pinHold := ⟨e.pin, level, ps⟩ :: d.pinHold.filter (·.pin != e.pin) }
    | none => d
  else d

/-- The armed delta takes effect at its Bell (R87 to R89). `sel`: the scale that OUTSEL selects after this Bell. -/
def applyDelta (d : Dev) (sel : Bool) : Dev :=
  match d.cht.cur, d.cht.shadow with
  | some c, some sh =>
    let rs := d.cht.delta
    let f' := sh.fabric
    let dp := c.fabric.pins.foldl (holdPin f') d
    let d0 := buildDomains (discardRebuilt dp f' rs) f'.profiles (fun p => rs.any (fun r => r.kind == 7 && r.index == p))
    let d1 := dropOffers (rs.foldl (rebuildPitch c.fabric f' sel) d0) c.fabric f' rs
    let stop := stopsSelected f' sel rs
    let d2 := { d1 with
      cht := { chtIdle d1.cht with
        cur := some { c with fabric := { f' with pitches := finalPitches f' sel rs }, id := sh.id, digest := sh.digest },
        deltas := min 255 (d1.cht.deltas + 1), stops := if stop then min 255 (d1.cht.stops + 1) else d1.cht.stops } }
    let gone := rs.filter (fun r => r.func == 0)
    let d3 := gone.foldl (fun d r =>
      if r.kind == 1 then setEn d (stlWin r.index) false else if r.kind == 7 then setEn d (macWin r.index) false else d) d2
    let d4 := ((builtBlocks c.fabric).filter (fun s => !(builtBlocks f').contains s)).foldl (fun d s => setEn d (slotBase s) false) d3
    statSet (setEnables d4 f' (enabledBy c.fabric rs)) baseCht 20
  | _, _ => d

/-- Is a delta armed for the coming Bell? -/
def deltaDue (d : Dev) : Bool := d.cht.st == .armed && d.cht.target == some (d.bellCnt + 1)

/-- The loader enters ERROR (Table 4.12). -/
def chtError (d : Dev) (code section_ : Nat) : Dev :=
  statSet { d with cht := { d.cht with st := .error, errCode := code, errSection := section_, target := none } } baseCht 21

/-- The checks of R86 on the loaded delta. -/
def deltaCheck (d : Dev) : Option Nat :=
  let i := readImg d.cht.buf
  match d.cht.shadow with
  | some sh => deltaFault d i.hdr.baseId i.hasFw i.hasPorts i.ethref d.cht.delta sh.fabric true
  | none => some 0x0A

/-- The re-check 2 µs before the target Bell (R86). -/
def deltaRecheck (d : Dev) : Dev :=
  if deltaDue d then
    match deltaCheck d with
    | some c => chtError d c 0
    | none => d
  else d

end Sys2Proof.Machine
end

