-- ==== Sys2Proof/Machine/Cht.lean ====
section
/-! DEFINITION. The charter loader's commands in service (R90 to R94, rows LOAD_STREAM to FLASH_WRITE_COMPLETE). -/
namespace Sys2Proof.Machine
open Sys2Proof

/-- A refused command: ignored, CHT_ERR.CODE = 0x0E STATE (R90). -/
def chtRefuse (d : Dev) : Dev := { d with cht := { d.cht with errCode := 0x0E, errSection := 0 } }

/-- The load buffer in use, bytes (R91). -/
def loadBufBytes (d : Dev) : Nat :=
  match d.cht.cur with
  | some c => if d.gen.mode == .bringup || d.gen.mode == .minimal then 4194304 else c.fabric.loadBuf * 1048576
  | none => 4194304

/-- A load begins; CHT_ERR is cleared. -/
def beginLoad (d : Dev) (slot : Option Nat) : Dev :=
  { d with cht := { chtIdle d.cht with st := .loading, slot := slot, errCode := 0, errSection := 0 } }

def loadStream (d : Dev) : Dev := if d.cht.st == .idle then beginLoad d none else chtRefuse d

def execLoadStream (req : Requester) (s : State) : Host.Outcome State Fault Refusal :=
  act s fun d => withWrite d req CHT_CMD loadStream

def loadFlash (d : Dev) (slot : Nat) : Dev := if d.cht.st == .idle && slot ≤ 1 then beginLoad d (some slot) else chtRefuse d

def execLoadFlash (req : Requester) (slot : Nat) (s : State) : Host.Outcome State Fault Refusal :=
  act s fun d => withWrite d req CHT_CMD fun d => loadFlash d slot

/-- The Bell an ARM names, and whether it missed the coming one (R92); none where it is refused. -/
def armTarget (d : Dev) : Option (BitVec 64 × Bool) :=
  let w := rgPair d CHT_DELTA_BELL_LO
  let late := lateForBell d
  if w == 0 then some (d.bellCnt + (if late then 2 else 1), late)
  else if w ≤ d.bellCnt.toNat then none
  else if w == d.bellCnt.toNat + 1 && late then some (BitVec.ofNat 64 (w + 1), true)
  else some (BitVec.ofNat 64 w, false)

/-- CMD ARM (R86, R92). -/
def armDelta (d : Dev) : Dev :=
  if d.cht.st != .ready || !d.cht.shadowIsDelta || d.gen.mode == .minimal then chtRefuse d
  else
    match armTarget d with
    | none => chtRefuse d
    | some (b, late) =>
      match deltaCheck d with
      | some c => { d with cht := { d.cht with errCode := c, errSection := 0 } }
      | none =>
        let d1 := { d with cht := { d.cht with st := .armed, target := some b } }
        if late then markLate d1 CHT_CMD none else d1

def execArm (req : Requester) (s : State) : Host.Outcome State Fault Refusal := act s fun d => withWrite d req CHT_CMD armDelta

/-- CMD FLASH_WRITE (R94): the verified image goes out to the boot flash. -/
def flashWrite (d : Dev) (slot : Nat) : Dev :=
  if d.cht.st == .ready && !d.cht.shadowIsDelta && slot ≤ 1 then
    emit { d with cht := { d.cht with st := .writing, slot := some slot } } (.flash slot d.cht.buf)
  else chtRefuse d

def execFlashWrite (req : Requester) (slot : Nat) (s : State) : Host.Outcome State Fault Refusal :=
  act s fun d => withWrite d req CHT_CMD fun d => flashWrite d slot

/-- CMD ABORT. -/
def abortLoad (d : Dev) : Dev :=
  match d.cht.st with
  | .loading => { d with cht := chtIdle d.cht }
  | .ready => { d with cht := chtIdle d.cht }
  | .armed => { d with cht := chtIdle d.cht }
  | .error => { d with cht := chtIdle d.cht }
  | _ => chtRefuse d

def execAbort (req : Requester) (s : State) : Host.Outcome State Fault Refusal := act s fun d => withWrite d req CHT_CMD abortLoad

/-- CHT_CMD by its CMD field; other values are ignored. -/
def chtCmd (d : Dev) (val : Word) : Dev :=
  match bits val 3 0 with
  | 1 => loadStream d
  | 2 => loadFlash d (bits val 15 8)
  | 3 => armDelta d
  | 4 => flashWrite d (bits val 15 8)
  | 5 => abortLoad d
  | _ => d

/-- An image is whole: verification starts (Table 4.12). -/
def beginVerify (d : Dev) (l : List Byte) : Dev :=
  { d with cht := { d.cht with st := .verifying, buf := l.take (readHeader l).imageLen } }

/-- A write of CHT_LOAD_DATA in LOADING after LOAD_STREAM (R90, R91). -/
def loadData (d : Dev) (val : Word) : Dev :=
  if d.cht.st == .loading && d.cht.slot.isNone && d.cht.startSlot.isNone then
    let l := d.cht.buf ++ beBytes 4 val.toNat
    let d1 := { d with cht := { d.cht with buf := l } }
    let len := (readHeader l).imageLen
    if l.length < 64 then d1
    else if l.length == 64 then
      match headCheck l 4194304 with
      | some c => chtError d1 c 0
      | none => if loadBufBytes d < len then chtError d1 9 0 else d1
    else if len ≤ l.length then beginVerify d1 l
    else d1
  else d

def execChtLoadDataWrite (req : Requester) (val : Word) (s : State) : Host.Outcome State Fault Refusal :=
  act s fun d => withWrite d req CHT_LOAD_DATA fun d => loadData d val

/-- The result of step 9 in the shadow plane: the structure, identity and digest the image produces (R85 to R89). -/
def shadowOf (d : Dev) (i : Img) : InEffect :=
  let id := BitVec.ofNat 64 i.hdr.id
  if i.hdr.isDelta then
    match d.cht.cur with
    | some c => { c with fabric := deltaFabric c.fabric i, id := id, digest := sha384B (c.digest ++ sha384B i.signed) }
    | none => ⟨{}, id, [], 0, 0⟩
  else ⟨fullFabric i, id, sha384B i.signed, i.hdr.fmtVer, i.hdr.svn⟩

/-- The checks of Table 4.9 end, in a load that software began (Table 4.12). -/
def verifyLoaded (d : Dev) : Dev :=
  match verifyImage d d.cht.buf with
  | .inl (c, s) => chtError d c s
  | .inr i =>
    if d.cht.slot.any d.cht.torn.contains then chtError d 7 0
    else { d with cht := { d.cht with
        shadow := some (shadowOf d i), shadowIsDelta := i.hdr.isDelta, delta := if i.hdr.isDelta then i.records else [],
        st := if i.hdr.isDelta then .building else .ready } }

def execShadowBuildComplete (s : State) : Host.Outcome State Fault Refusal :=
  act s fun d => if d.cht.st == .building && d.cht.shadowIsDelta then { d with cht := { d.cht with st := .ready } } else d

/-- A slot passed verification, or did not, at the last start or write (CHT_BOOT). -/
def slotOk (d : Dev) (slot : Nat) (ok : Bool) : Dev :=
  { d with cht := if slot == 0 then { d.cht with aOk := ok } else { d.cht with bOk := ok } }

/-- The slot write ends (R94). -/
def flashWriteComplete (d : Dev) (equal : Bool) : Dev :=
  if d.cht.st == .writing then
    let slot := d.cht.slot.getD 0
    let d1 := slotOk { d with cht := { d.cht with torn := d.cht.torn.filter (· != slot) } } slot equal
    if equal then statSet { d1 with cht := chtIdle d1.cht } baseCht 20 else chtError d1 0x0F 0
  else d

def execFlashWriteComplete (equal : Bool) (s : State) : Host.Outcome State Fault Refusal := act s fun d => flashWriteComplete d equal

end Sys2Proof.Machine
end

