-- ==== Sys2Proof/Machine/Power.lean ====
section
/-! DEFINITION. Supplies, reset pins, brownout, the watchdog and the reset controller (chapter 19, rows CORE_RAILS_VALID to BROWNOUT_RESET_RELEASE, WATCHDOG_EXPIRY to BLOCK_RESET_RELEASE, VBAT_LOSS). -/
namespace Sys2Proof.Machine
open Sys2Proof

/-! ### Rails and reset pins (R44, R448) -/

/-- A start begins unless a pin or the brownout monitor still holds the reset. -/
def tryStart (d : Dev) : Dev :=
  if d.power.railsValid && !d.power.porstLow && !d.power.rstnLow && !d.power.brownReset && d.start.phase == .held then beginStart d
  else d

/-- The core rails become valid (R44): a cold start, and an IN_ATTEMPT found set counts with detail 0x08 (R445). -/
def coreRailsValid (d : Dev) : Dev :=
  if d.power.railsValid then d
  else
    let d1 := holdReset (earlyReset { d with power := { d.power with railsValid := true, brownReset := false } } 8) true
    tryStart d1

def execCoreRailsValid (s : State) : Host.Outcome State Fault Refusal := act s coreRailsValid

/-- The core rails fail in any mode (R44): OFF; started key and NV operations complete (R434). -/
def coreRailsFail (d : Dev) : Dev :=
  let d1 := chipCleared { d with power := { d.power with railsValid := false, hold := false, brownReset := false } } true
  { d1 with gen := { d1.gen with mode := .off }, start := { d1.start with phase := .idle } }

def execCoreRailsFail (s : State) : Host.Outcome State Fault Refusal := act s coreRailsFail

/-- PORST_N has been low for 1 µs. -/
def porstNLow (d : Dev) : Dev :=
  let d1 := { d with power := { d.power with porstLow := true } }
  if d.power.porstLow || !d.power.railsValid then d1 else holdReset (countReset (earlyReset d1 0) 0) true

def execPorstNLow (s : State) : Host.Outcome State Fault Refusal := act s porstNLow

/-- The rising edge of PORST_N samples TESTMODE and starts the device (R45, R448). -/
def porstNRise (d : Dev) (testmode : Bool) : Dev :=
  if d.power.porstLow then
    tryStart { d with power := { d.power with porstLow := false, testmode := testmode },
                      start := { d.start with testSampled := testmode } }
  else d

def execPorstNRise (testmode : Bool) (s : State) : Host.Outcome State Fault Refusal := act s fun d => porstNRise d testmode

/-- RST_N has been low for 1 µs: a warm reset with source 2, unless a reset of lower code holds the chip. -/
def rstNLow (d : Dev) : Dev :=
  let d1 := { d with power := { d.power with rstnLow := true } }
  if d.power.rstnLow || !d.power.railsValid || d.power.porstLow || d.power.brownReset then d1
  else holdReset (countReset (earlyReset d1 2) 2) false

def execRstNLow (s : State) : Host.Outcome State Fault Refusal := act s rstNLow

def rstNRelease (d : Dev) : Dev := if d.power.rstnLow then tryStart { d with power := { d.power with rstnLow := false } } else d

def execRstNRelease (s : State) : Host.Outcome State Fault Refusal := act s rstNRelease

/-! ### The PCIe endpoint (R68, R362, R367) -/

/-- A PCIe agreement returns to 1.0 (R68). -/
def unagreed (q : ReqState) : ReqState := { q with verOffer := 0x01000100#32, offered := false, verFail := false, agreed := 0x0100#32 }

/-- MSI-X table and pending bits of a function return to their reset values (R362). -/
def clearMsix (d : Dev) (fn : Nat) : Dev :=
  { d with qmg := { d.qmg with msix := d.qmg.msix.filter (fun e => e.1 / 2 ^ 20 != fn), pba := d.qmg.pba.filter (·.1 != fn) } }

/-- PERST_N: source 3, counted but not recorded in RST_LAST, which holds chip-level resets (R448, R449). -/
def perstN (d : Dev) : Dev :=
  if d.gen.mode == .off || d.start.phase == .held then d
  else
    let d1 := { d with backup := { d.backup with rstCnt := d.backup.rstCnt.modify 3 (fun n => min 65535 (n + 1)) } }
    let d2 := clearMsix (clearMsix (resetMaster (pcieRings d1) 0) 0) 1
    { d2 with pcie0 := unagreed d2.pcie0, pcie1 := unagreed d2.pcie1 }

def execPerstN (s : State) : Host.Outcome State Fault Refusal := act s perstN

/-- An FLR of function 0 or 1 (R362). -/
def functionLevelReset (d : Dev) (fn : Nat) : Dev :=
  if d.gen.mode == .off || d.start.phase == .held then d
  else if fn == 0 then clearMsix (resetMaster (pcieRings d) 0) 0
  else if fn == 1 && (fuses d).wardenPcie then clearMsix (resetMaster d 0) 1
  else d

def execFunctionLevelReset (fn : Nat) (s : State) : Host.Outcome State Fault Refusal := act s fun d => functionLevelReset d fn

/-! ### Brownout (R431 to R434) -/

/-- The level of VDD_CORE, and the lowest since RST_VCORE was last read. -/
def putVcore (d : Dev) (v : Nat) : Dev :=
  let low := rgf d RST_VCORE 25 16
  let d1 := { d with power := { d.power with vcore := v } }
  if low == 0 || v < low then putField d1 RST_VCORE 25 16 (min v 1023) else d1

/-- A level, in mV, that lies below VWARN = 0.70 V or VRST = 0.66 V, each within its tolerance of 5 mV, or at or above VWARN + 10 mV (R431, R432). -/
def belowWarn (v : Nat) : Bool := v < 705
def belowRst (v : Nat) : Bool := v < 665
def aboveWarn (v : Nat) : Bool := 705 ≤ v

def brownoutHoldBegin (d : Dev) (vcore : Nat) : Dev :=
  if !d.power.railsValid || d.power.hold || d.power.brownReset || !belowWarn vcore then putVcore d vcore
  else
    let d1 := putVcore { d with power := { d.power with hold := true, holdT := d.t } } vcore
    logC (countUp d1 RST_BROWN 31 16 1) srcBrownoutHold 0 (vcore % 1024)

def execBrownoutHoldBegin (vcore : Nat) (s : State) : Host.Outcome State Fault Refusal := act s fun d => brownoutHoldBegin d vcore

/-- The hold ends with a level that has stood at VWARN + 10 mV or above for 100 µs. -/
def brownoutHoldEnd (d : Dev) (vcore : Nat) : Dev :=
  putVcore (if aboveWarn vcore then { d with power := { d.power with hold := false } } else d) vcore

/-- The hold lasts 100 µs at least; while the free counter stands its end has come (R432). -/
def holdEndDue (d : Dev) : Nat := if d.power.hold && d.tsc.running then d.power.holdT.toNat + 100 * us else d.t.toNat

/-- A crossing of VRST (R433): the reach of PORST_N, source 1; the hold ends (Table 19.7). -/
def brownoutReset (d : Dev) (vcore : Nat) : Dev :=
  if !d.power.railsValid || d.power.brownReset || !belowRst vcore then putVcore d vcore
  else
    let d1 := { d with power := { d.power with brownReset := true, hold := false, vcore := vcore } }
    if d.power.porstLow then d1 else holdReset (countReset (earlyReset d1 1) 1) true

def execBrownoutReset (vcore : Nat) (s : State) : Host.Outcome State Fault Refusal := act s fun d => brownoutReset d vcore

def brownoutResetRelease (d : Dev) (vcore : Nat) : Dev :=
  if d.power.brownReset && aboveWarn vcore then tryStart (putVcore { d with power := { d.power with brownReset := false } } vcore)
  else putVcore d vcore

def execBrownoutResetRelease (vcore : Nat) (s : State) : Host.Outcome State Fault Refusal :=
  act s fun d => brownoutResetRelease d vcore

/-- A loss of VBAT (R430): every item of Table 19.2 returns to the value shown there. -/
def vbatLoss (d : Dev) : Dev :=
  { d with
    backup := { bkpTrim := (fuses d).bkpTrim }
    regs := sparseSet resetWord d.regs CHT_BOOT (rg d CHT_BOOT &&& ~~~ 1#32)
    tol := { d.tol with e := 0 }
    key := { d.key with
      root := none, nodes := [], slots := [none, none], select := some 0, seq := 0,
      tamper := 0, zcount := 0, rootGen := 0, tcfg := 0 } }

def execVbatLoss (s : State) : Host.Outcome State Fault Refusal := act s vbatLoss

/-! ### The watchdog (R453) -/

/-- Expiry: a warm reset with source 4; the watchdog runs in neither BRINGUP nor MINIMAL. -/
def watchdogExpiry (d : Dev) : Dev :=
  if rgb d RST_WDOG 31 && (inService d || d.gen.mode == .factory) then warmReset d 4 else d

/-- PERIOD ms after the last kick, while the watchdog runs; where the free counter stands, the time is not its. -/
def wdogDue (d : Dev) : Option Nat :=
  if !rgb d RST_WDOG 31 || !(inService d || d.gen.mode == .factory) then none
  else some (if d.tsc.running then d.gen.kickT.toNat + max 1 (rgf d RST_WDOG 15 0) * ms else d.t.toNat)

/-- A write of RST_WDOG: PERIOD, and EN set-only; a kick with 0xA5, and the enabling, start the watchdog's time (R453). -/
def wdogWrite (d : Dev) (val : Word) : Dev :=
  let starts := bits val 23 16 == 0xA5 || (bit val 31 && !rgb d RST_WDOG 31)
  setReg (if starts then { d with gen := { d.gen with kickT := d.t } } else d) RST_WDOG (w32 (bits val 15 0 + 2 ^ 31 * b2n (bit val 31 || rgb d RST_WDOG 31)))

def execRstWdogWrite (req : Requester) (val : Word) (s : State) : Host.Outcome State Fault Refusal :=
  act s fun d => withWrite d req RST_WDOG fun d => wdogWrite d val

/-! ### RST_CMD (R450 to R452) -/

def rstRefuse (d : Dev) : Dev := statSet d baseRst 17

/-- Does a block reset name a slot and channel that R450 lets through? -/
def blockResetTarget (val : Word) : Option Nat :=
  match slotOfCode (bits val 23 16) with
  | none => none
  | some slot =>
    let chan := bits val 15 8
    if resetRefused slot || (slot == 8 && chan != 0xFF && 32 ≤ chan) || (slot == 13 && chan != 0xFF && 6 ≤ chan) then none
    else some slot

/-- CMD 1. -/
def rstBlock (d : Dev) (val : Word) : Dev :=
  match blockResetTarget val with
  | none => rstRefuse d
  | some slot => if d.gen.rst.isSome then rstRefuse d else beginBlockReset d slot (bits val 15 8) false

/-- CMD 2: a chip reset with source 6. -/
def rstChip (d : Dev) (val : Word) : Dev := if bits val 31 24 == 0xA5 then warmReset d 6 else rstRefuse d

/-- CMD 3: the control cores. -/
def rstCores (d : Dev) (val : Word) : Dev :=
  if d.gen.rst.isSome then rstRefuse d else beginBlockReset d (bits val 23 16) (bits val 15 8) true

/-- RST_CMD by its CMD field. -/
def rstCmd (d : Dev) (val : Word) : Dev :=
  match bits val 3 0 with
  | 1 => rstBlock d val
  | 2 => rstChip d val
  | 3 => rstCores d val
  | _ => rstRefuse d

def execRstCmdBlockReset (req : Requester) (val : Word) (s : State) : Host.Outcome State Fault Refusal :=
  act s fun d => withWrite d req RST_CMD fun d => rstBlock d val

def execRstCmdChipReset (req : Requester) (val : Word) (s : State) : Host.Outcome State Fault Refusal :=
  act s fun d => withWrite d req RST_CMD fun d => rstChip d val

def execRstCmdCoresReset (req : Requester) (val : Word) (s : State) : Host.Outcome State Fault Refusal :=
  act s fun d => withWrite d req RST_CMD fun d => rstCores d val

/-- Retries that this block reset performed end with its release (R459). -/
def endRetriesOf (d : Dev) (slot chan : Nat) : Dev :=
  (d.flt.reactions.filter (fun r => r.step == 1 && r.ended.isNone && !(fltChanOf d r.code r.chan).backoff
      && r.code / 256 == slot && (chan == 0xFF || !hasChannels slot || r.chan == chan))).foldl
    (fun d r => endRetry d r.code r.chan) d

/-- The block leaves reset (R452). -/
def blockResetRelease (d : Dev) : Dev :=
  match d.gen.rst with
  | some r =>
    if r.stage == 1 then
      let d1 := releaseBlockReset d r
      if r.cores then endRetriesOf d1 22 0xFF else endRetriesOf d1 r.target r.chan
    else d
  | none => d

end Sys2Proof.Machine
end

