-- ==== Sys2Proof/Machine/Tsc.lean ====
section
/-! DEFINITION. The counters, settings, steps, INC changes, the audit, Ledger records and checkpoints (chapter 5, rows CHECKPOINT_COMPLETE, LEDGER_RING_DELIVERY, TSC_LRD_SEL_WRITE to SC_STEP_HI_WRITE). -/
namespace Sys2Proof.Machine
open Sys2Proof

/-! ### Counters (R95 to R101) -/

/-- n TCLKs of a scale. Seconds that INC carries past 2⁶⁴ − 1 go on counting here (DESIGN CHOICE, log 51). -/
def scaleTicks (s : Scale) (n : Nat) : Scale := { s with v := s.v + n * incOf s.f }

/-- All five counters take n TCLKs (R96, R100, R101). -/
def advance (d : Dev) (n : Nat) : Dev :=
  { d with
    t := d.t + BitVec.ofNat 64 n
    tsc := { d.tsc with
      a := scaleTicks d.tsc.a n, b := scaleTicks d.tsc.b n,
      o := d.tsc.o + n * incOf d.tsc.oF, auditor := d.tsc.auditor + n } }

/-- Close a Bell interval: DRIFT takes the exact product of the INC offset and the interval's TCLKs (R107, R108). -/
def closeInterval (d : Dev) : Dev :=
  let n : Int := (d.t - d.tsc.lastBellT).toNat
  let f := fun (s : Scale) => { s with drift := s.drift + s.f * n }
  { d with tsc := { d.tsc with a := f d.tsc.a, b := f d.tsc.b, lastBellT := d.t } }

/-! ### Records (R111 to R114) -/

def blankRec : Nat → LedgerRec := fun _ => default

def recBit (w : LedgerRec) : List Byte :=
  leBytes 8 w.bellcnt.toNat ++ leBytes 8 w.amount.toNat ++ leBytes 8 w.runsum.toNat ++ leBytes 4 w.boundDelta.toNat
    ++ leBytes 1 w.scale ++ leBytes 1 w.action ++ leBytes 1 w.source ++ leBytes 1 w.flags

/-- STEPS + DRIFT rounded towards −∞ to 2⁻¹⁶ ns (R111). -/
def runSum (s : Scale) : Int := (s.steps + s.drift) / 2 ^ 32

def i64 (i : Int) : BitVec 64 := BitVec.ofInt 64 i

/-- Write a record to the half of a working scale (R114), to the checkpoint's list (R116) and, while TSC_LRING.EN = 1, towards the host ring (R115). -/
def writeRec (d : Dev) (half : Bool) (r : LedgerRec) : Dev :=
  let d1 := updScale d half fun s =>
    { s with ram := sparseSet blankRec s.ram (s.lwp.toNat % 4096) r, lwp := s.lwp + 1, sum := if r.action == 1 then 0 else r.runsum }
  { d1 with tsc := { d1.tsc with
      sinceCkpt := (r :: d1.tsc.sinceCkpt).take 126, sinceN := d1.tsc.sinceN + 1,
      ringQueue := if rgb d TSC_LRING 31 then d1.tsc.ringQueue ++ [r] else d1.tsc.ringQueue } }

/-- A record of the Bell that runs, for a scale: BPEND set, BOUND_DELTA still 0 (R113). `flags` are those above BSAT. -/
def recOf (d : Dev) (amount runsum : Int) (scale action source flags : Nat) : LedgerRec :=
  ⟨d.bellCnt, i64 amount, i64 runsum, 0, scale, action, source, flags + 1⟩

/-- Put a record in the place of another in a checkpoint frame that waits (Table 5.3). -/
def frameSwap (old new : LedgerRec) (l : List Byte) : List Byte :=
  let head := l.take 60
  let body := (List.range 126).flatMap fun i =>
    let r := (l.drop (64 + 32 * i)).take 32
    if r == recBit old then recBit new else r
  head ++ leBytes 4 (crc32 (head ++ body)).toNat ++ body

/-- Give a record of a half its BOUND_DELTA and clear its BPEND wherever it still waits: Ledger RAM, the checkpoint's list and frame, and the ring (R113, R138). -/
def patchRec (d : Dev) (half : Bool) (count : Nat) (delta : Word) (sat : Bool) : Dev :=
  let old := sparseGet blankRec (scaleOf d half).ram (count % 4096)
  let new := { old with boundDelta := delta, flags := (old.flags &&& 0xFC) ||| (if sat then 2 else 0) }
  if new == old then d
  else
    let f := fun (r : LedgerRec) => if r == old then new else r
    let d1 := updScale d half fun s => { s with ram := sparseSet blankRec s.ram (count % 4096) new }
    { d1 with tsc := { d1.tsc with
        sinceCkpt := d1.tsc.sinceCkpt.map f, ringQueue := d1.tsc.ringQueue.map f
        ckptFrame := d1.tsc.ckptFrame.map (fun x => (x.1, frameSwap old new x.2)) } }

/-- BOUND_DELTA of the last Bell's records is filled in once its time has come (R113). -/
def fillDeltas (d : Dev) : Dev :=
  if d.tsc.fill.isEmpty || decide (d.t.toNat < d.tsc.fillT.toNat) then d
  else d.tsc.fill.foldl (fun d x => patchRec d x.1 x.2.1 x.2.2.1 x.2.2.2) { d with tsc := { d.tsc with fill := [] } }

/-! ### Settings and steps at a Bell (R105, R106) -/

/-- The scale's code in records, and whether TS-O copies it. -/
def scaleCode (b : Bool) : Nat := b2n b
def isSelected (d : Dev) (b : Bool) : Bool := d.tsc.cur == b

/-- Set a working scale to V on the Bell TCLK; TS-O follows where it copies the scale. `V` has 2⁻¹⁶ ns resolution. -/
def makeSetting (d : Dev) (b : Bool) (v source : Nat) : Dev :=
  let d1 := updScale d b fun s =>
    { s with v := v, anchor := (v : Int) - d.tsc.auditor * 2 ^ 48, steps := 0, drift := 0, setDone := true }
  let d2 := if isSelected d b then { d1 with tsc := { d1.tsc with o := v } } else d1
  writeRec d2 b (recOf d2 (secOf v) (stampOf (v % secUnit)) (scaleCode b) 1 source 0)

/-- A requested first setting (R105): refused once SETDONE, or where a software setting's nanoseconds are out of range. -/
def trySetting (d : Dev) (b : Bool) (v : Option Nat) (source : Nat) : Dev :=
  match v with
  | some v => if (scaleOf d b).setDone then statSet d baseTsc 18 else makeSetting d b v source
  | none => statSet d baseTsc 18

/-- V of a staged software setting: seconds, nanoseconds, fraction; none where the nanoseconds are out of range. -/
def softSetting (secLo secHi ns frac : Word) : Option Nat :=
  if 1000000000 ≤ ns.toNat then none
  else some ((dword secHi secLo * 1000000000 + ns.toNat) * nsUnit + bits frac 15 0 * 2 ^ 32)

/-- Add a step of `amount` × 2⁻¹⁶ ns to a working scale, and to TS-O where it copies it; refused where the seconds would leave their range (R106). -/
def applyStep (d : Dev) (b : Bool) (source : Nat) (amount : Int) : Dev :=
  let x := amount * 2 ^ 32
  let v : Int := (scaleOf d b).v + x
  if amount == 0 && source == 1 then d
  else if v < 0 || (2 ^ 64 : Int) * secUnit ≤ v then statSet d baseTsc 17
  else
    let d1 := updScale d b fun s => { s with v := v.toNat, steps := s.steps + x }
    let d2 := if isSelected d b then { d1 with tsc := { d1.tsc with o := ((d1.tsc.o : Int) + x).toNat } } else d1
    writeRec d2 b (recOf d2 amount (runSum (scaleOf d2 b)) (scaleCode b) 2 source 0)

/-- Order of the sources of steps at one Bell (R52): twin takeover, holdover, reference, software. -/
def stepOrder : List Nat := [4, 3, 2, 1]

def applySteps (d : Dev) (b : Bool) (l : List StepReq) : Dev :=
  stepOrder.foldl (fun d src => (l.filter (·.source == src)).foldl (fun d r => applyStep d b r.source r.amount) d) d

/-! ### INC (R97, R98, R102, R104) -/

/-- The INC offset asked for, its SOURCE and FLAGS; none where a stall delivers nothing. -/
def wantedInc (d : Dev) (b : Bool) : Option (Int × Nat × Nat) :=
  let k := if b then 0x100 else 0
  if eff d (SC_CTRL + k) 0 0 == 1 then some (efPairS d (SC_FADJ_LO + k), 1, 32)
  else (scaleOf d b).offer.map fun o => if o.2 then (o.1, 3, 64) else (o.1, 5, 16)

def clampInc (f : Int) : Int := max (-(2 ^ 38)) (min (2 ^ 38) f)

/-- The INC change of a Bell: the new offset is added from the next TCLK on. -/
def changeInc (d : Dev) (b : Bool) : Dev :=
  match wantedInc d b with
  | none => d
  | some (f, source, flags) =>
    let g := clampInc f
    let d1 := if f != g then statSet d baseTsc 16 else d
    if g == (scaleOf d1 b).f then d1
    else
      let d2 := updScale d1 b fun s => { s with f := g }
      writeRec d2 b (recOf d2 g (runSum (scaleOf d2 b)) (scaleCode b) 3 source (flags + 8 * b2n (f != g)))

/-! ### OUTSEL (R107, R112) -/

/-- TS-O takes the newly selected scale's value after the steps of the Bell. `source` is HARDWARE, or TWIN where the partner's selection is followed (R402). -/
def switchOut (d : Dev) (new : Bool) (source : Nat) : Dev :=
  let v := (scaleOf d new).v
  let diff : Int := (v : Int) - d.tsc.o
  let wide := decide ((2 ^ 47 : Int) * nsUnit ≤ diff) || decide (diff ≤ -((2 ^ 47 : Int) * nsUnit))
  let d1 := { d with tsc := { d.tsc with o := v, cur := new } }
  writeRec d1 new (recOf d1 (if wide then diff / secUnit else diff / 2 ^ 32) (runSum (scaleOf d1 new)) 2 4 source (4 * b2n wide))

/-! ### Re-anchoring and the audit (R108 to R110, R120) -/

def reanchor (d : Dev) (b : Bool) : Dev :=
  if (scaleOf d b).reanchor then
    let d1 := updScale d b fun s =>
      { s with anchor := (s.v : Int) - d.tsc.auditor * 2 ^ 48, steps := 0, drift := 0, reanchor := false }
    writeRec d1 b (recOf d1 0 0 (scaleCode b) 5 6 0)
  else d

/-- LEFT of R108. -/
def leftOf (d : Dev) (b : Bool) : Int :=
  let s := scaleOf d b
  (s.v : Int) - d.tsc.auditor * 2 ^ 48 - s.anchor

/-- The equation of R108, modulo 2¹²⁸. -/
def equationHolds (d : Dev) (b : Bool) : Bool :=
  BitVec.ofInt 128 (leftOf d b) == BitVec.ofInt 128 ((scaleOf d b).steps + (scaleOf d b).drift)

/-- A failed check of a Bell, to be reported when the checks are complete: source, channel, detail. -/
abbrev Failure := Nat × Nat × Nat

/-- CAUSE of the first breach, and the report that a failed check raises. -/
def breachCause (d : Dev) (cause : Nat) : Dev :=
  { d with tsc := { d.tsc with cause := if d.tsc.a.breach || d.tsc.b.breach || d.tsc.breachO then d.tsc.cause else cause } }
def breachFail (d : Dev) (chan cause : Nat) : Failure := (srcLedgerBreach, chan, cause * 2 ^ 16 + d.bellCnt.toNat % 65536)

def latchBreach (d : Dev) (b : Bool) : Dev :=
  updScl (updScale d b fun s => { s with breach := true }) b (fun s => { s with voidBreach := true })

def breachRec (d : Dev) (half : Bool) (scale : Nat) (amount : Int) : Dev :=
  writeRec d half (recOf d amount (runSum (scaleOf d half)) scale 6 6 0)

/-- The auditor check (R109, R110). -/
def auditorCheck (d : Dev) : Dev × List Failure :=
  if d.tsc.auditor != d.t.toNat && !(d.tsc.a.breach && d.tsc.b.breach) then
    (breachRec (breachRec (latchBreach (latchBreach (breachCause d 2) false) true) false 0 0) true 1 0, [breachFail d 3 2])
  else (d, [])

/-- The copy check (R109, R110). One that fails while TS-O is latched raises nothing more, the scale now selected being latched or not (log 51). -/
def copyCheck (d : Dev) : Dev × List Failure :=
  if d.tsc.o != (scaleOf d d.tsc.cur).v && !d.tsc.breachO then
    let e := latchBreach (breachCause d 3) d.tsc.cur
    (breachRec { e with tsc := { e.tsc with breachO := true } } d.tsc.cur 2 0, [breachFail d 2 3])
  else (d, [])

/-- The equation of a working scale (R108, R110). -/
def equationCheck (d : Dev) (b : Bool) : Dev × List Failure :=
  if !(scaleOf d b).breach && !equationHolds d b then
    let diff := leftOf d b - ((scaleOf d b).steps + (scaleOf d b).drift)
    (breachRec (latchBreach (breachCause d 1) b) b (scaleCode b)
      (max (-(2 ^ 63 - 1)) (min (2 ^ 63 - 1) (diff / 2 ^ 32))), [breachFail d (scaleCode b) 1])
  else (d, [])

/-- The checks of the Bell, in order (R110): latches and BREACH records, and the reports to be raised. -/
def audit (d : Dev) : Dev × List Failure :=
  let (d1, f1) := auditorCheck d
  let (d2, f2) := copyCheck d1
  let (d3, f3) := equationCheck d2 false
  let (d4, f4) := equationCheck d3 true
  (d4, f1 ++ f2 ++ f3 ++ f4)

/-! ### Checkpoints (R116, R117) -/

/-- A checkpoint frame (Table 5.3). RUNSUM_A and RUNSUM_B are the running sums after the last record (DESIGN CHOICE, log 51). -/
def ckptFrame (d : Dev) : List Byte :=
  let recs := d.tsc.sinceCkpt.reverse
  let head := leBytes 8 d.bellCnt.toNat ++ leBytes 4 d.tsc.ckptSeq.toNat ++ leBytes 2 recs.length
    ++ leBytes 2 (b2n (d.tsc.sinceN != recs.length) + 2 * b2n d.tsc.a.breach + 4 * b2n d.tsc.b.breach + 8 * b2n d.tsc.breachO)
    ++ leBytes 8 (inEffectId d) ++ leBytes 8 d.tsc.a.sum.toNat ++ leBytes 8 d.tsc.b.sum.toNat
    ++ leBytes 4 (d.tsc.sinceN - recs.length) ++ leBytes 1 (b2n d.tsc.cur) ++ zeros 15
  let body := padTo 4032 (recs.flatMap recBit)
  head ++ leBytes 4 (crc32 (head ++ body)).toNat ++ body

/-- An NV write of up to 4,096 bytes passes the hold-up check (R382); a refusal for lack of energy sets KEY STAT.HOLDUP_LOW. -/
def nvAllowed (d : Dev) : Bool := energyFor d 4800

def nvRefused (d : Dev) : Dev := if d.power.hold then d else holdupLow d

/-- The checkpoint of a Bell: due where BELLCNT mod 64 = 0, retried until it starts. -/
def checkpoint (d : Dev) : Dev :=
  let d1 := if d.bellCnt.toNat % 64 == 0 then { d with tsc := { d.tsc with ckptDue := true } } else d
  if !d1.tsc.ckptDue || d1.tsc.ckptFrame.isSome then d1
  else if nvAllowed d1 then
    { d1 with tsc := { d1.tsc with
        ckptFrame := some (d1.tsc.ckptNext, ckptFrame d1), ckptDue := false, ckptSeq := d1.tsc.ckptSeq + 1,
        ckptN := d1.tsc.sinceN } }
  else statSet (countUp (nvRefused d1) TSC_CKPT 31 16 1) baseTsc 20

/-- The frame is complete in the NV store: what it covers is no longer owed to the next. -/
def checkpointComplete (d : Dev) : Dev :=
  match d.tsc.ckptFrame with
  | some (i, l) =>
    let d1 := nvPut d (0x20000 + 4096 * i) l
    let left := d.tsc.sinceN - d.tsc.ckptN
    { d1 with tsc := { d1.tsc with
        ckptFrame := none, ckptLast := i, ckptValid := true, ckptNext := (i + 1) % 32,
        sinceCkpt := d1.tsc.sinceCkpt.take left, sinceN := left, ckptN := 0 } }
  | none => d

def execCheckpointComplete (s : State) : Host.Outcome State Fault Refusal := act s checkpointComplete

/-! ### Records to the host (R115) -/

/-- The oldest waiting record is copied to the ring, or counted. -/
def ledgerDelivery (d : Dev) : Dev :=
  match d.tsc.ringQueue with
  | r :: rest =>
    let d1 := { d with tsc := { d.tsc with ringQueue := rest } }
    let (d2, ok) := deliver d1 (rgf d1 TSC_LRING 5 0) 1 (recBit r)
    if ok then d2 else countUp d2 TSC_LDROP 31 0 1
  | [] => d

def execLedgerRingDelivery (s : State) : Host.Outcome State Fault Refusal := act s ledgerDelivery

/-- A write of TSC_LRD_SEL copies the selected record (R115). -/
def lrdSel (d : Dev) (r : Requester) (val : Word) : Dev :=
  let w := val &&& 0x1FFF#32
  let rec_ := sparseGet blankRec (scaleOf d (bit w 12)).ram (bits w 11 0)
  holdFor (putSel d r TSC_LRD_SEL w) r TSC_LRD_DATA (leWords (recBit rec_))

def execTscLrdSelWrite (req : Requester) (val : Word) (s : State) : Host.Outcome State Fault Refusal :=
  act s fun d => withWrite d req TSC_LRD_SEL fun d => lrdSel d req val

/-- Scale 0 is TS-A, 1 TS-B. -/
def scKey (k scale : Nat) : Nat := k + 0x100 * scale

def execScSetNsWrite (req : Requester) (scale : Nat) (val : Word) (s : State) : Host.Outcome State Fault Refusal :=
  act s fun d =>
    if 1 < scale then d
    else withWrite d req (scKey SC_SET_NS scale) fun d =>
      classWrite d (scKey SC_SET_NS scale) val (some (accOf req (scKey SC_SET_NS scale)))

def execScStepHiWrite (req : Requester) (scale : Nat) (val : Word) (s : State) : Host.Outcome State Fault Refusal :=
  act s fun d =>
    if 1 < scale then d
    else withWrite d req (scKey SC_STEP_HI scale) fun d =>
      classWrite d (scKey SC_STEP_HI scale) val (some (accOf req (scKey SC_STEP_HI scale)))

end Sys2Proof.Machine
end

