-- ==== Sys2Proof/Machine/Stl.lean ====
section
/-! DEFINITION. The stalls: the type-2 loop, its output in each servo state, hold frequency and lock criteria (R102, R103, R129, R164 to R180, row STALL_UPDATE). -/
namespace Sys2Proof.Machine
open Sys2Proof

/-! ### The loop (R170 to R174) -/

/-- A frequency brought to at most 1 MHz by the least whole divider (Table 8.1). -/
def perMega (f : Rat) : Rat := f / ((max 1 (ratCeil (f / 1000000)).toNat : Nat) : Rat)

/-- Epochs a second of a solution (R249, R250). -/
def epochRate (d : Dev) (k : Nat) : Nat := if k == 3 then 1 else [1, 2, 5, 10].getD (eff d GN_EPOCH 1 0) 1

/-- f_u in Hz (Table 8.1); of a time-bus source it is made from the probe output's frequency, of a tracked master from the rate of its Syncs. -/
def updateHz (d : Dev) (n : Nat) : Rat :=
  if stallFunc d n == 1 then 1
  else if tbusOf d n != 0 then perMega (probeHz d n)
  else
    let r := (selOf d n).cur
    match kindOf d r with
    | 2 => 1
    | 9 => 1000
    | 6 =>
      let l := (trackSlot d (slotOfRef r)).syncLog
      (2 : Rat) ^ (-l).toNat / (2 : Rat) ^ l.toNat
    | 7 => (epochRate d (solOfRef r) : Rat)
    | _ => perMega (refHz d r)

/-- The effective bandwidth code (R103, R170, R171). -/
def effCode (d : Dev) (n : Nat) (hz : Rat) : Nat :=
  let w := min 20 (eff d (stKey SL_LOOP n) 4 0)
  let ok := fun (c : Nat) =>
    (bwTable.getD c 0 : Rat) / 10000 ≤ hz / 20 && (stallFunc d n != 1 || bwTable.getD c 0 ≤ 500)
  (((List.range (w + 1)).filter ok).getLast?).getD 0

/-- A built stall shows its effective bandwidth and f_u as its settings stand, while something gives it updates (R170). -/
def showRate (d : Dev) (n : Nat) : Dev :=
  let hz := updateHz d n
  if !stallBuilt d n || hz ≤ 0 || !(stallFunc d n == 1 || tbusOf d n != 0 || (selOf d n).curV) then d
  else
    let code := effCode d n hz
    updStall d n fun s => { s with
      fu := min 0xFFFFFFFF (ratFloor (hz * 1000)).toNat, bwEff := code
      bwLim := decide (code < min 20 (eff d (stKey SL_LOOP n) 4 0)) }

def showRates (d : Dev) : Dev := (List.range 32).foldl showRate d

/-- π to 40 digits, and a square root to 2⁻¹²⁰: the loop's constants are irrational, and what their products round to is free within one unit (log 10). -/
def piRat : Rat := (31415926535897932384626433832795028841972 : Rat) / (10000000000000000000000000000000000000000 : Rat)

def sqrtRat (q : Rat) : Rat := (isqrt ((ratFloor (q * (2 ^ 240 : Rat))).toNat) : Rat) / (2 ^ 120 : Rat)

def clampN (a b x : Nat) : Nat := max a (min b x)

/-- kp and ki (R172). -/
def loopGains (d : Dev) (n code : Nat) : Rat × Rat :=
  let z : Rat := (clampN 5 50 (eff d (stKey SL_LOOP n) 13 8) : Rat) / 10
  let q := 1 + 2 * z * z
  let k := sqrtRat (q + sqrtRat (q * q + 1))
  let wn := 2 * piRat * ((bwTable.getD code 0 : Rat) / 10000) / k
  (2 * z * wn, wn * wn)

/-- ylim in 2⁻⁴⁸ (R174). -/
def ylim (d : Dev) (n : Nat) : Int := 2 ^ clampN 20 40 (eff d (stKey SL_LOOP n) 21 16)

def clampI (lim x : Int) : Int := max (-lim) (min lim x)

/-- Nearest integer, a tie to the even one. -/
def ratNearest (q : Rat) : Int :=
  let f := ratFloor q
  let r := q - f
  if r < 1 / 2 then f else if 1 / 2 < r then f + 1 else if f % 2 == 0 then f else f + 1

/-! ### What a stall delivers (R102, R129, R176, R177) -/

/-- The steering offset F of a scale in the coding of HMODE: 1 TS-A, 2 TS-B, 3 TS-O. -/
def hmodeOffset (d : Dev) (m : Nat) : Int :=
  match m with
  | 1 => d.tsc.a.f
  | 2 => d.tsc.b.f
  | 3 => d.tsc.oF
  | _ => 0

/-- HCLASS: 3 acts as 2 (SS_CTRL). -/
def ssKey (k : Nat) (b : Bool) : Nat := k + (if b then 0x100 else 0)
def hclassOf (d : Dev) (b : Bool) : Nat := min 2 (eff d (ssKey SS_CTRL b) 1 0)
def hstdOf (d : Dev) (b : Bool) : Nat := eff d (ssKey SS_CTRL b) 8 5

/-- The holdover source's offset against the oven oscillator: the standard's y, or 0 for the oscillator itself (Table 6.3, R163). -/
def hsourceY (d : Dev) (b : Bool) : Int := if hclassOf d b == 1 then (refOf d (hstdOf d b)).y else 0

/-- The model's prediction y₀ + a·t + c·(T − T₀) on the holdover source, 2⁻⁴⁸ rounded to nearest (R129). `temp` in 1/256 K. -/
def prediction (d : Dev) (b : Bool) (temp : Int) : Int :=
  let m := (sclOf d b).model
  let t : Rat := (match (sclOf d b).tEntry with
    | some e => ((d.t.toNat - e.toNat : Nat) : Rat)
    | none => 0) / 1000000000
  hsourceY d b + ratNearest ((m.y0 : Rat) + (m.a : Rat) * t / 86400 + (m.c : Rat) * ((temp - m.t0 : Int) : Rat) / 256)

/-- The output before its limit: SL_FREE in free-run, also of a time-bus stall (R176, R178), the hold frequency in holdover, a scale's last prediction, else what the loop last gave. -/
def bareY (d : Dev) (n : Nat) : Int :=
  match (selOf d n).servo with
  | .freeRun => efPairS d (stKey SL_FREE_LO n)
  | .holdover =>
    if stallFunc d n == 1 then (stallOf d n).y
    else (stallOf d n).hfreq + hmodeOffset d (eff d (stKey SL_HOLD n) 17 16)
  | _ => (stallOf d n).y

/-- y in effect (SL_Y), within ±ylim (R174); a bridging audio block takes y_b in place of its stall's output (R416). -/
def yOf (d : Dev) (n : Nat) : Int :=
  if stallFunc d n == 4 && d.aud.st == .bridging then d.aud.yb else clampI (ylim d n) (bareY d n)

/-- STAT.CLAMP follows the output in effect; each entry counts (R174). -/
def noteClamp (d : Dev) (n : Nat) : Dev :=
  let now := ylim d n ≤ (bareY d n).natAbs
  if now == (stallOf d n).clamped then d
  else
    let d1 := updStall d n fun s => { s with clamped := now }
    if now then countUp d1 (stKey SL_EVT n) 15 0 1 else d1

/-- The scale's offset of a second that HMODE names. -/
def secOffset (x : StallSec) (m : Nat) : Int :=
  match m with
  | 1 => x.fa
  | 2 => x.fb
  | 3 => x.fo
  | _ => 0

/-- The mean of y, or of y − F_s, over the window of R177; SL_FREE where the stall was not locked in it. -/
def holdMean (d : Dev) (n : Nat) : Int × Dev :=
  let w := 2 ^ min 12 (eff d (stKey SL_HOLD n) 3 0)
  let g := eff d (stKey SL_HOLD n) 11 8
  let m := eff d (stKey SL_HOLD n) 17 16
  let l := (((stallOf d n).hist.drop g).take w).filter (·.locked)
  if l.isEmpty then (efPairS d (stKey SL_FREE_LO n), d)
  else freeDiv d (sumI (l.map (fun x => x.y - secOffset x m))) l.length

/-- Latch the hold frequency at entry into holdover (R177). -/
def latchHold (d : Dev) (n : Nat) : Dev :=
  if stallFunc d n == 1 then d
  else
    let (y, d1) := holdMean d n
    updStall d1 n (fun s => { s with hfreq := y })

/-! ### Updates -/

/-- φ_r at the TCLK of the state, from the latest measurement point with y_r, exact in 2⁻¹⁶ ns (R147); what was published last where there is no point. -/
def phiExact (d : Dev) (r : Nat) : Rat :=
  match (refOf d r).point with
  | some (t0, v) =>
    let dt : Rat := ((d.t.toNat * 65536 : Nat) : Rat) - (t0 : Rat)
    (v : Rat) + dt + dt * ((refOf d r).y : Rat) / (2 ^ 48 : Rat) - (d.tsc.o : Rat) / (2 ^ 32 : Rat)
  | none => ((refOf d r).phi : Rat)

/-- One second in 2⁻¹⁶ ns, and a phase modulo it into [−0.5 s, +0.5 s). -/
def sec16 : Int := 65536000000000
def modSecond (x : Int) : Int := (x + sec16 / 2) % sec16 - sec16 / 2

/-- A value in 2⁻¹⁶ ns as whole picoseconds: one of its neighbours, freely (log 2). -/
def toPs (d : Dev) (q : Rat) : Int × Dev := let p := q * 1000 / 65536; freeDiv d p.num p.den

/-- What the detector of a stall measures, ps (R169): for a stall that steers a scale, and a reference whose measurement points the state holds, its phase against the scale (R316); else what the update reports. -/
def measured (d : Dev) (n : Nat) (phase : Int) : Int × Dev :=
  let r := (selOf d n).cur
  match steeredScale d n with
  | some b =>
    if hasPhase d r && (refOf d r).point.isSome then
      let (p, d1) := freeDiv d (phiExact d r).num (phiExact d r).den
      let v := p + (stampOf d.tsc.o : Int) - stampOf (scaleOf d b).v
      toPs d1 ((if carriage d r == .phase then modSecond v else v : Int) : Rat)
    else (phase, d)
  | none => (phase, d)

/-- PREM of the steered APLL, 0.5 ps: what the stepper still removes (R188). -/
def stepping (d : Dev) (n : Nat) : Int := ((steeredApll d n).map (fun a => (apllOf d a).prem)).getD 0

/-- The detector saturates at ±2³⁹ ps, in 0.5 ps (R169). -/
def detLimit : Int := 2 ^ 40

/-- The loop takes a detector result in 0.5 ps (R172 to R174). -/
def loopUpdate (d : Dev) (n : Nat) (e : Int) : Dev :=
  let hz := updateHz d n
  let code := effCode d n hz
  let (kp, ki) := loopGains d n code
  let s := stallOf d n
  let lim := ylim d n
  let es : Rat := (e : Rat) / (2000000000000 : Rat)
  let stuck := (lim ≤ s.y && 0 < e) || (s.y ≤ -lim && e < 0)
  let x := if hz ≤ 0 then 0 else ki * es / hz * (2 ^ 64 : Rat)
  let (u, d1) := if stuck || ratFloor x == ratCeil x then (0, d) else drawBelow d 2
  let integ := if stuck then s.integ else s.integ + ratFloor x + (u : Nat)
  let y := clampI lim (ratNearest ((integ : Rat) / (2 ^ 16 : Rat) + kp * es * (2 ^ 48 : Rat)))
  noteClamp (updStall d1 n fun s => { s with
    integ := integ, y := y, ySum := s.ySum + y, yN := s.yN + 1
    fu := min 0xFFFFFFFF (ratFloor (hz * 1000)).toNat, bwEff := code,
    bwLim := decide (code < min 20 (eff d1 (stKey SL_LOOP n) 4 0)) }) n

/-- The offset of a scale-steering stall reaches TSC for the coming Bell, unless it is less than 2 µs away (R102). -/
def offerInc (d : Dev) (n : Nat) : Dev :=
  match steeredScale d n with
  | some b => if lateForBell d then d else updScale d b (fun s => { s with offer := some ((stallOf d n).y, false) })
  | none => d

/-- In STANDBY the phase of REF30 takes the partner's DIFF, less a step of the partner that this chip has still to make (R402, R403), 2⁻¹⁶ ns. -/
def twinPhase (d : Dev) (n : Nat) : Int :=
  match steeredScale d n with
  | some b =>
    if d.gen.mode == .standby && twinConfigured d && (selOf d n).cur == 30 then
      (if b then d.twn.diffB else d.twn.diffA) - (match d.twn.stepPending with
        | some (x, _) => x
        | none => 0)
    else 0
  | none => 0

/-- From a takeover to the next Bell's switch a scale's stall holds its last y (Table 17.6). -/
def holdsY (d : Dev) (n : Nat) : Bool := d.twn.selWait && d.gen.mode == .active && (steeredScale d n).isSome

/-- A detector result (R169, R172): taken while the stall has a selected reference or a time-bus source; in free-run the loop does not act on it (R176). -/
def stallUpdate (d : Dev) (n : Nat) (phase : Int) : Dev :=
  let s := selOf d n
  if !fabricRuns d || !stallBuilt d n || holdsY d n || (!s.curV && tbusOf d n == 0) then d
  else
    let (ps, d0) := measured d n phase
    let (tw, d1) := toPs d0 ((twinPhase d0 n : Int) : Rat)
    let p := 2 * (ps + tw) - stepping d1 n
    let d2 := if (stallOf d1 n).relatch then
        updStall d1 n (fun s => { s with zero := if freqOnly d1 n then p else 0, relatch := false })
      else d1
    let e := clampI detLimit (p - (stallOf d2 n).zero)
    let d3 := updStall d2 n (fun s => { s with raw := p, eSum := s.eSum + e, eN := s.eN + 1 })
    if s.servo == .freeRun then d3 else offerInc (loopUpdate d3 n e) n

def execStallUpdate (stall : Nat) (phase : Int) (s : State) : Host.Outcome State Fault Refusal :=
  act s fun d => stallUpdate d stall phase

/-! ### At a Bell -/

/-- e of the interval that ends: the mean of its results; it stands where there were none (R123, R169). -/
def closeE (d : Dev) (n : Nat) : Dev :=
  let s := stallOf d n
  if s.eN == 0 then d
  else
    let (e, d1) := freeDiv d (s.eSum * 65536) (s.eN * 2000)
    updStall d1 n (fun s => { s with e := e, eSum := 0, eN := 0 })

/-- One more second of history: the mean of y over it (R177). -/
def pushHist (d : Dev) (n : Nat) : Dev :=
  let s := stallOf d n
  let (y, d1) := if s.yN == 0 then (yOf d n, d) else freeDiv d s.ySum s.yN
  updStall d1 n fun s => { s with
    ySum := 0, yN := 0, hist := (⟨y, d.tsc.a.f, d.tsc.b.f, d.tsc.oF, (selOf d n).servo == .locked⟩ :: s.hist).take 4112 }

/-- The error and the limit that the lock criterion compares (R165, R179), 2⁻¹⁶ ns, or 2⁻⁴⁸ for a frequency reference of a scale. -/
def lockError (d : Dev) (n : Nat) : Nat × Nat :=
  let s := selOf d n
  match steeredScale d n with
  | some b =>
    if carriage d s.cur == .freq then
      (((refOf d s.cur).y - (scaleOf d b).f).natAbs, funcOf d s.cur)
    else ((stallOf d n).e.natAbs, max (udOf d s.cur) 65536)
  | none => ((stallOf d n).e.natAbs, (ef d (stKey SL_LOCKTH n)).toNat)

/-- LOCKn of the steered APLL; true where the stall steers none. -/
def apllLocked (d : Dev) (n : Nat) : Bool := (steeredApll d n).all (fun a => (apllOf d a).lock)

/-- The output goes on from where it stood in a state that the stall leaves; at an exit from free-run or holdover the zero is latched anew (R175). -/
def leaveState (d : Dev) (n : Nat) : Dev :=
  let y := yOf d n
  let out := (selOf d n).servo == .freeRun || (selOf d n).servo == .holdover
  updStall d n fun s => { s with y := y, relatch := s.relatch || out }

/-- The lock and unlock criteria at a Bell (R165, R179). -/
def lockStep (d : Dev) (n : Nat) : Dev :=
  let s := selOf d n
  let (e, lim) := lockError d n
  let tb := tbusOf d n != 0
  match s.servo with
  | .locked =>
    let c := if 4 * lim < e then s.unlockCnt + 1 else 0
    if 2 ≤ c || !apllLocked d n then updSel d n (fun s => { s with servo := .acquiring, lockCnt := 0, unlockCnt := 0 })
    else updSel d n (fun s => { s with unlockCnt := c })
  | .holdover => d
  | sv =>
    if sv == .freeRun && !tb then d
    else
      let c := if e ≤ lim && apllLocked d n then s.lockCnt + 1 else 0
      if 8 ≤ c then updSel (leaveState d n) n (fun s => { s with servo := .locked, lockCnt := 0, unlockCnt := 0 })
      else updSel d n (fun s => { s with lockCnt := c })

/-- The steered APLL has lost its lock: the stall is ACQUIRING at once (R179). -/
def unlockStall (d : Dev) (n : Nat) : Dev :=
  if (selOf d n).servo == .locked then updSel d n (fun s => { s with servo := .acquiring, lockCnt := 0, unlockCnt := 0 }) else d

/-- Stalls whose APLL has no lock any more, however it went, are ACQUIRING at once (R179). -/
def lockFollow (d : Dev) : Dev := (List.range 32).foldl (fun d n => if apllLocked d n then d else unlockStall d n) d

/-- A change of FRX clamps the integrator at the Bell (R173). -/
def clampInteg (d : Dev) (n : Nat) : Dev :=
  updStall d n fun s => { s with integ := clampI (ylim d n * 65536) s.integ }

end Sys2Proof.Machine
end

