-- ==== Sys2Proof/Machine/Ref.lean ====
section
/-! DEFINITION. Presence, qualification and loss of references, holdover entry, selection and disputes (R147 to R168, rows REF_PRESENT to REF_LOCKOUT_WRITE). -/
namespace Sys2Proof.Machine
open Sys2Proof

/-! ### Candidates (R150, R151) -/

/-- What a twin pair offers a stall: in STANDBY REF30 alone to a scale's, while the chip holds the Floor no stall REF30 (R402, Table 17.6). -/
def twinOffers (d : Dev) (n r : Nat) : Bool :=
  !twinConfigured d || (match d.gen.mode with
    | .standby => (steeredScale d n).isNone || r == 30
    | .active => r != 30
    | _ => true)

/-- A reference that forced mode may take: in the view, qualified, not locked out, and one that can be selected at all (R143, R152). -/
def mayForce (d : Dev) (n r : Nat) : Bool :=
  twinOffers d n r && bit (viewOf d n) r && qualifiedR d r && !lockedOut d r && carriage d r != .none

/-- A stall steers an APLL or the audio clock (R150). -/
def steersClock (d : Dev) (n : Nat) : Bool := (steeredApll d n).isSome || stallFunc d n == 4

/-- A candidate but for dispute marks and the place of REF31 (R150, R151). -/
def mayFollow (d : Dev) (n r : Nat) : Bool :=
  mayForce d n r && (r != 31 || steersClock d n)
    && (match steeredScale d n with
        | some b => r != 31 && ((scaleOf d b).setDone || carriage d r == .time)
        | none => true)

def markedIn (d : Dev) (n r : Nat) : Bool := (selOf d n).marks.any (·.1 == r)

/-- The candidates of a stall. REF31 is one only where the stall has no other (R150). -/
def candidates (d : Dev) (n : Nat) : List Nat :=
  let l := (List.range 31).filter (fun r => mayFollow d n r && !markedIn d n r)
  if l.isEmpty && mayFollow d n 31 && !markedIn d n 31 then [31] else l

def isCandidate (d : Dev) (n r : Nat) : Bool := (candidates d n).contains r

/-- Members of an unresolved dispute that does not hold the incumbent: they cannot be taken (R155). -/
def waiting (s : Sel) (r : Nat) : Bool :=
  s.disputes.any (fun x => (x.i == r || x.j == r) && !(s.curV && (x.i == s.cur || x.j == s.cur)))

/-- When a hold-off of so many seconds ends (R158). -/
def holdOffEnd (d : Dev) (n swhold : Nat) : Option Nat := (selOf d n).tEntry.map (fun e => e.toNat + swhold * 1000 * ms)

/-- The hold-off of a stall in holdover runs, under the SWHOLD given (R158). -/
def inHoldOff (d : Dev) (n swhold : Nat) : Bool := (holdOffEnd d n swhold).any (fun e => decide (d.t.toNat < e))

/-- The choice of R152 under a SEL_CTRL value. -/
def chooseUnder (d : Dev) (n : Nat) (ctrl : Word) : Option Nat :=
  let s := selOf d n
  if inHoldOff d n (bits ctrl 23 16) then none
  else if bit ctrl 0 then
    let f := bits ctrl 12 8
    if mayForce d n f then some f else none
  else
    let l := candidates d n
    let k := l.foldl (fun k r => min k (rankOf d r)) 9
    if s.curV && l.contains s.cur && rankOf d s.cur == k then some s.cur
    else l.find? (fun r => rankOf d r == k && !waiting s r)

/-- SEL_CTRL as it will stand at the coming Bell: the value staged for it, or the one in effect (R152). -/
def armedWord (d : Dev) (key : Nat) : Word :=
  (((d.staged.filter (fun e => e.boundary == .bell && !e.late)).flatMap (·.words)).foldl
    (fun w x => if x.1 == key then x.2 else w) (ef d key))

/-- The stall's present choice (SEL_STAT.PEND); the selector makes none for a stall with a time-bus source (R178). -/
def choice (d : Dev) (n : Nat) : Option Nat :=
  if tbusOf d n != 0 then none
  else match (selOf d n).target with
    | some t => t
    | none => chooseUnder d n (ef d (selKey SEL_CTRL n))

/-- After a takeover or an abdication the selection of the scales stands until a Bell (R407, R408). -/
def selStands (d : Dev) (n : Nat) : Bool := d.twn.selWait && (steeredScale d n).isSome

/-- The incumbent may stay: a candidate, or the forced reference even when it is marked (R152, R158). -/
def keepsCur (d : Dev) (n r : Nat) : Bool :=
  let c := ef d (selKey SEL_CTRL n)
  if selStands d n then true
  else if bit c 0 && bits c 12 8 == r then mayForce d n r else isCandidate d n r

/-! ### Holdover (R129, R158, R163) -/

/-- The Scales' side of a holdover entry: t_entry, HOLDTIME and the frozen components (R129, R133). A scale without a reference carrying time since its anchor stays bounded from its setting Bell (R142). -/
def scaleHolds (d : Dev) (b : Bool) : Dev :=
  updScl d b fun s =>
    let timed := s.timeRefT.isSome
    { s with
      tEntry := some d.t, holdTime := 0, frozen := true
      tempInt := if timed then 0 else s.tempInt, freeRunFrom := if timed then none else s.freeRunFrom }

/-- The incumbent ceases to be a candidate: the stall enters holdover (R158). Disputes that hold it end under (c) of R155. -/
def enterHoldover (d : Dev) (n : Nat) : Dev :=
  let s := selOf d n
  if !s.curV then d
  else
    let d1 := latchHold d n
    let d2 := updSel d1 n fun s => { s with
      curV := false, servo := .holdover, tEntry := some d.t, lockCnt := 0, unlockCnt := 0,
      disputes := s.disputes.filter (fun x => x.i != s.cur && x.j != s.cur) }
    let d3 := countUp (noteClamp d2 n) (selKey SEL_CNT n) 31 16 1
    match steeredScale d3 n with
    | some b => scaleHolds (if d3.tsc.armedDone then d3 else updScale d3 b (fun s => { s with offer := none })) b
    | none => d3

/-- Stalls whose incumbent may no longer stay enter holdover, and disputes that lost a member end (R155 (c), R158). -/
def dropIncumbents (d : Dev) : Dev :=
  (selectedStalls d).foldl (fun d n =>
    let s := selOf d n
    let d1 := if s.curV && !keepsCur d n s.cur then enterHoldover d n else d
    updSel d1 n (fun s => { s with disputes := s.disputes.filter (fun x =>
      isCandidate d1 n x.i && isCandidate d1 n x.j) })) d

/-- OSC_OUT is set for a scale: the bound is void and LEARN_TIME returns to 0 (R14, R131). -/
def setOscOut (d : Dev) (b : Bool) : Dev :=
  updScl d b fun s => { s with learnTime := 0, oscOut := true, isVoid := true, clearFrom := none, reanchored := false }

/-- The holdover standard of a scale of HCLASS 1 in holdover is lost (R163). -/
def standardLost (d : Dev) (r : Nat) : Dev :=
  [false, true].foldl (fun d b =>
    if hclassOf d b == 1 && hstdOf d b == r && (sclOf d b).tEntry.isSome then setOscOut d b else d) d

/-! ### Presence, qualification, loss (R148, R149) -/

/-- The frequency check: |y_r| of the last evaluation within REFn_FTOL (R148). -/
def withinFtol (d : Dev) (r : Nat) : Bool := (refOf d r).y.natAbs ≤ (ef d (refKey REF_FTOL r)).toNat

/-- A reference becomes present. -/
def refPresent (d : Dev) (r : Nat) : Dev :=
  if 31 ≤ r || kindOf d r == 0 || (refOf d r).present || (kindOf d r == 6 && !accAcceptable d r) || !withinFtol d r then d
  else updRef d r fun m => { m with present := true, qualified := false, presentFrom := d.t, ys := [], missed := 0 }

/-- The conditions of Table 7.3 that the state itself holds: pulses within their window, a port's locks, a PTP master's validity, a solution's, an audio clock's presence, the twin lock. -/
def sourceValid (d : Dev) (r : Nat) : Bool :=
  match kindOf d r with
  | 2 => (refOf d r).inWindow
  | 5 => (portOf d (r - 10)).rclk && portEnabled d (r - 10) && (portOf d (r - 10)).st != .retired
  | 6 => (trackSlot d (slotOfRef r)).valid
  | 7 => (solOf d (solOfRef r)).valid
  | 8 =>
    if r == 28 then (d.aud.clocks.getD 4 {}).present && efb d (AIN_CFG + 3 * 0x40) 8
    else (d.aud.clocks.getD 0 {}).present
  | 9 => d.twn.locked
  | _ => true

def execRefPresent (ref : Nat) (s : State) : Host.Outcome State Fault Refusal :=
  act s fun d => if sourceValid d ref then refPresent d ref else d

/-- A present reference has been so for QTIME (R149). -/
def refQualify (d : Dev) (r : Nat) : Dev :=
  if r < 31 && (refOf d r).present && !(refOf d r).qualified then
    countUp (updRef d r (fun m => { m with qualified := true })) (refKey REF_EVT r) 31 16 1
  else d

/-- The TCLK at which a present reference has been so for QTIME (R149). -/
def qualifyDue (d : Dev) (r : Nat) : Nat := (refOf d r).presentFrom.toNat + qtimeOf d r * 1000 * ms

/-- A measured grid's mains source is lost: the grid shows LOST until an edge returns (GRn_STAT). -/
def gridsLose (d : Dev) (r : Nat) : Dev :=
  { d with grids := (List.range 8).map (fun g =>
      let x := d.grids.getD g {}
      if pitchFunc d 5 g == 3 && (linkOf d 5 g 5).any (·.arg == 0x10 + r) then { x with lost := true } else x) }

/-- What a loss leaves in the registers and the log (R149, R167). -/
def noteLoss (d : Dev) (r cause : Nat) : Dev :=
  let d2 := setReg d REF_LOSS (putBit (rg d REF_LOSS) r true)
  let d3 := countUp d2 (refKey REF_EVT r) 15 0 1
  if (refOf d r).qualified then logC d3 srcRefLoss r (cause % 16) else d3

/-- A loss of a reference with its cause (R148, R149, R158, R163, R167). -/
def refLoss (d : Dev) (r cause : Nat) : Dev :=
  if 31 ≤ r || !(refOf d r).present then d
  else
    let d1 := updRef (noteLoss d r cause) r fun m => { m with
      present := false, qualified := false, lcause := cause % 16, ys := [], inWindow := false, point := none }
    gridsLose (standardLost (dropIncumbents d1) r) r

def execRefLoss (ref cause : Nat) (s : State) : Host.Outcome State Fault Refusal := act s fun d => refLoss d ref cause

/-- A lockout of an incumbent is handled as a loss with cause 4 (R168): noted and counted, and the reference qualifies anew; its edges go on, so it stays present (DEDUCED, log 44). -/
def lockoutLoss (d : Dev) (r : Nat) : Dev :=
  if 31 ≤ r then d
  else updRef (noteLoss d r 4) r fun m => { m with qualified := false, presentFrom := d.t, lcause := 4 }

/-- References whose source is gone, however it went, are lost: of ports without their recovered clock, of masters, solutions, audio clocks and twins no longer valid (R267, R271, Table 7.3). -/
def syncFollow (d : Dev) : Dev :=
  (List.range 31).foldl (fun d r =>
    if (refOf d r).present && 5 ≤ kindOf d r && !sourceValid d r then refLoss d r (if kindOf d r == 5 then 1 else 3) else d) d

/-! ### Evaluation (R127, R147, R153 to R156) -/

/-- A reference's latest measurement point: it gives the time `reading`, 2⁻¹⁶ ns, `back` before now (R147). -/
def measurePoint (d : Dev) (r : Nat) (back : Int) (reading : Rat) : Dev :=
  updRef d r fun m => { m with point := some ((d.t.toNat * 65536 : Nat) - back, reading) }

/-- The device as it stood on the last Bell's TCLK: the free counter, and TS-O, whose INC is constant since. -/
def atLastBell (d : Dev) : Dev :=
  { d with t := d.tsc.lastBellT, tsc := { d.tsc with o := d.tsc.o - incOf d.tsc.oF * (d.t - d.tsc.lastBellT).toNat } }

/-- y of an interval: of a GNSS reference from RATE and the steering state of TS-O (Table 11.10), the product's rounding free (log 2); else as measured. -/
def intervalY (d : Dev) (m : RefMeas) : Int × Dev :=
  if kindOf d m.ref == 7 then
    let rate := (solOf d (solOfRef m.ref)).rate
    let (x, d1) := freeDiv d (rate * d.tsc.oF) (2 ^ 48)
    (rate + d.tsc.oF + x, d1)
  else (m.y, d)

/-- A monitor publishes φ and y of its interval (R147); a frequency outside FTOL loses the reference (R148). While a reference is absent its y is that of the newest interval (DEDUCED, log 44). -/
def publish (d : Dev) (m : RefMeas) : Dev :=
  if 31 ≤ m.ref || kindOf d m.ref == 0 then d
  else
    let here := (refOf d m.ref).present
    let (y0, d0) := intervalY d m
    let ys := if here then (y0 :: (refOf d m.ref).ys).take 16 else [y0]
    let (y, d1) := freeDiv d0 (sumI ys) ys.length
    let d2 := updRef d1 m.ref fun x => { x with ys := if here then ys else [], y := y }
    let q := phiExact (atLastBell d2) m.ref
    let (phi, d3) := freeDiv d2 q.num q.den
    let d4 := updRef d3 m.ref fun x => { x with phi := if hasPhase d m.ref then phi else 0 }
    if here && !withinFtol d4 m.ref then refLoss d4 m.ref 2 else d4

def dispTol (d : Dev) : Nat := (ef d REF_DTOL).toNat

def freqAgree (d : Dev) (a b : Nat) : Bool := ((refOf d a).y - (refOf d b).y).natAbs ≤ dispTol d

/-- The tests of R155 (b). -/
def agrees (d : Dev) (a b : Nat) : Bool :=
  freqAgree d a b
    && (!(hasPhase d a && hasPhase d b) || ((refOf d a).phi - (refOf d b).phi).natAbs ≤ udOf d a + udOf d b)

/-- References that may judge for a stall, in order of rank, then of index (R154, R156). -/
def judges (d : Dev) (n : Nat) : List Nat :=
  let l := (List.range 31).filter (fun r =>
    bit (viewOf d n) r && qualifiedR d r && !lockedOut d r && !markedIn d n r && carriage d r != .none)
  (List.range 8).flatMap (fun k => l.filter (fun r => rankOf d r == k))

/-- The first arbiter that agrees with exactly one member: the arbiter and the member marked (R154). -/
def arbitrate (d : Dev) (n i j : Nat) : Option (Nat × Nat) :=
  (((judges d n).filter (fun a => a != i && a != j)).find? (fun a => freqAgree d a i != freqAgree d a j)).map
    (fun a => (a, if freqAgree d a i then j else i))

/-- The selected reference of a scale is marked: REF_OUT is set and the bound is void (R14, R157). -/
def refOutOn (d : Dev) (n x : Nat) : Dev :=
  match steeredScale d n with
  | some b =>
    if (selOf d n).curV && (selOf d n).cur == x then
      updScl d b (fun s => { s with refOut := true, isVoid := true, clearFrom := none, reanchored := false })
    else d
  | none => d

/-- A dispute mark (R154, R167). -/
def markRef (d : Dev) (n a x other : Nat) : Dev :=
  let d1 := updSel d n fun s => { s with
    marks := (x, none) :: s.marks.filter (·.1 != x), disputes := s.disputes.filter (fun p => p.i != x && p.j != x) }
  let d2 := refOutOn (logC d1 srcRefMarked n (a * 2 ^ 16 + x * 2 ^ 8 + other)) n x
  if (selOf d2 n).curV && !keepsCur d2 n (selOf d2 n).cur then enterHoldover d2 n else d2

/-- Phase of a reference against a scale, 2⁻⁴⁸ ns (R159). -/
def phaseOn (d : Dev) (b : Bool) (r : Nat) : Int := (refOf d r).phi * 2 ^ 32 + d.tsc.o - (scaleOf d b).v

/-- The scale's side of a dispute that holds the incumbent begins: nothing has changed yet (R127, R155). -/
def beginDisp (d : Dev) (n other : Nat) : Dev :=
  match steeredScale d n with
  | some b => updScl d b fun s => { s with
      dispFrom := (other, if hasPhase d other then phaseOn d b other else 0, d.t) :: s.dispFrom.filter (·.1 != other) }
  | none => d

/-- An unresolved dispute begins (R155). -/
def beginDispute (d : Dev) (n i j : Nat) : Dev :=
  let s := selOf d n
  let inc := s.curV && (s.cur == i || s.cur == j)
  let d1 := updSel d n fun s => { s with disputes := s.disputes ++ [⟨i, j, none⟩] }
  if inc then
    let other := if s.cur == i then j else i
    beginDisp (logC d1 srcRefDispute n (s.cur * 2 ^ 8 + other)) n other
  else d1

/-- The span of agreement that ends a dispute (R155 (b)). -/
def agreeSpan (d : Dev) (s : Sel) (x : Dispute) : Nat :=
  if s.curV && s.cur == x.i then qtimeOf d x.j
  else if s.curV && s.cur == x.j then qtimeOf d x.i
  else max (qtimeOf d x.i) (qtimeOf d x.j)

/-- One pair at an evaluation. -/
def evalPair (d : Dev) (n : Nat) (p : Nat × Nat) : Dev :=
  let (i, j) := p
  let s := selOf d n
  let open_ := s.disputes.find? (fun x => x.i == i && x.j == j)
  if !(isCandidate d n i && isCandidate d n j) then
    updSel d n (fun s => { s with disputes := s.disputes.filter (fun x => !(x.i == i && x.j == j)) })
  else if !freqAgree d i j then
    match arbitrate d n i j with
    | some (a, x) => markRef d n a x (if x == i then j else i)
    | none =>
      match open_ with
      | some _ => updSel d n (fun s => { s with disputes := s.disputes.map (fun x =>
          if x.i == i && x.j == j then { x with agreeFrom := none } else x) })
      | none => beginDispute d n i j
  else
    match open_ with
    | none => d
    | some x =>
      let from_ := if agrees d i j then some (x.agreeFrom.getD d.t) else none
      let ended_ := match from_ with
        | some t => spanPassed d (agreeSpan d s x) t
        | none => false
      let upd := fun (x : Dispute) => if x.i == i && x.j == j then { x with agreeFrom := from_ } else x
      let gone := fun (x : Dispute) => ended_ && x.i == i && x.j == j
      updSel d n (fun s => { s with disputes := (s.disputes.map upd).filter (fun x => !gone x) })

/-- Pairs of a list in ascending order. -/
def pairsOf : List Nat → List (Nat × Nat)
  | [] => []
  | i :: r => r.map (fun j => (i, j)) ++ pairsOf r

/-- The pairs an evaluation examines: those of the best candidate rank, and open disputes, in the order of R153. -/
def evalPairs (d : Dev) (n : Nat) : List (Nat × Nat) :=
  let l := candidates d n
  let k := l.foldl (fun k r => min k (rankOf d r)) 9
  let best := pairsOf (l.filter (fun r => rankOf d r == k))
  (pairsOf (List.range 32)).filter (fun p =>
    best.contains p || (selOf d n).disputes.any (fun x => x.i == p.1 && x.j == p.2))

/-- Marks whose reference has agreed for its QTIME clear (R156). -/
def clearMark (d : Dev) (n : Nat) (m : Nat × Option Tick) : Option (Nat × Option Tick) :=
  let js := (judges d n).filter (· != m.1)
  if presentR d m.1 && !js.isEmpty && js.all (fun a => agrees d m.1 a) then
    let since := m.2.getD d.t
    if qtimePassed d m.1 since then none else some (m.1, some since)
  else some (m.1, none)

def clearMarks (d : Dev) (n : Nat) : Dev := updSel d n fun s => { s with marks := s.marks.filterMap (clearMark d n) }

/-- A member of a dispute at an evaluation: one that carries only frequency adds the integral of its difference from the scale since the evaluation before (R155). -/
def dispStep (d : Dev) (b : Bool) (e : Nat × Int × Tick) : Nat × Int × Tick :=
  if hasPhase d e.1 then e
  else (e.1, e.2.1 + ((refOf d e.1).y - (scaleOf d b).f) * (d.t - e.2.2).toNat, d.t)

/-- |Δφ| of a member, 2⁻¹⁶ ns, rounded up (R122, R127). -/
def dispNow (d : Dev) (b : Bool) (e : Nat × Int × Tick) : Nat :=
  ceilDiv (if hasPhase d e.1 then phaseOn d b e.1 - e.2.1 else e.2.1).natAbs (2 ^ 32)

/-- BOUND_DISPUTE's largest |Δφ| takes this evaluation's phases (R127, R155); a member whose pair is resolved takes no more part. -/
def trackDispute (d : Dev) (n : Nat) : Dev :=
  match steeredScale d n with
  | none => d
  | some b =>
    let s := selOf d n
    let mine := s.disputes.filter (fun x => s.curV && (x.i == s.cur || x.j == s.cur))
    if mine.isEmpty then
      if s.curV then updScl d b (fun c => { c with dispFrom := [], dispMax := 0 }) else d
    else
      updScl d b fun c =>
        let from_ := (c.dispFrom.filter (fun e => mine.any (fun x => x.i == e.1 || x.j == e.1))).map (dispStep d b)
        { c with dispFrom := from_, dispMax := max c.dispMax (maxN (from_.map (dispNow d b))) }

/-- The selector's evaluation of one stall. -/
def evalStall (d : Dev) (n : Nat) : Dev :=
  let d1 := (evalPairs d n).foldl (fun d p => evalPair d n p) d
  trackDispute (clearMarks d1 n) n

/-- Two qualified references other than REF31 agree, and say that the oscillator is off by more than 1e-6 (Table 17.5, cause 2). -/
def oscBad (d : Dev) : Bool :=
  let l := (List.range 31).filter (fun r =>
    carriage d r != .none && qualifiedR d r && decide (2 ^ 48 < (refOf d r).y.natAbs * 1000000))
  (pairsOf l).any (fun p => freqAgree d p.1 p.2)

/-- The monitors and the selector at an evaluation; an oscillator found bad makes the Floor holder abdicate (R407). -/
def evaluateRefs (d : Dev) (l : List RefMeas) : Dev :=
  let d1 := l.foldl publish d
  let d2 := (selectedStalls d1).foldl evalStall d1
  if oscBad d2 then (abdicate d2 2 false).1 else d2

/-! ### SEL_DCLR and REF_LOCKOUT -/

/-- Clear the marks of the bits written (R156). -/
def selDclr (d : Dev) (n : Nat) (val : Word) : Dev :=
  updSel d n fun s => { s with marks := s.marks.filter (fun m => !bit val m.1) }

def execSelDclrWrite (req : Requester) (stall : Nat) (val : Word) (s : State) : Host.Outcome State Fault Refusal :=
  act s fun d => if 31 < stall then d else withWrite d req (selKey SEL_DCLR stall) fun d => selDclr d stall val

/-- A write of REF_LOCKOUT: at once; an incumbent locked out is handled as a loss with cause 4 (R151, R168). -/
def refLockout (d : Dev) (val : Word) : Dev :=
  let d1 := setReg d REF_LOCKOUT val
  let hit := (selectedStalls d1).filterMap (fun n =>
    let s := selOf d1 n
    if s.curV && bit val s.cur then some s.cur else none)
  dropIncumbents (hit.eraseDups.foldl lockoutLoss d1)

def execRefLockoutWrite (req : Requester) (val : Word) (s : State) : Host.Outcome State Fault Refusal :=
  act s fun d => withWrite d req REF_LOCKOUT fun d => refLockout d val

/-! ### A block reset is asserted (R451): references that start again leave their stalls in holdover (R158) -/

/-- The block reports idle (R451). -/
def blockQuiesced (d : Dev) : Dev :=
  match d.gen.rst with
  | some r => if r.stage == 0 then lockFollow (dropIncumbents (syncFollow (assertBlockReset d r false))) else d
  | none => d

def execBlockQuiesced (s : State) : Host.Outcome State Fault Refusal := act s blockQuiesced

/-- RST_QTIMEOUT expires: the reset is forced (R451). -/
def quiesceTimeout (d : Dev) : Dev :=
  match d.gen.rst with
  | some r => if r.stage == 0 then lockFollow (dropIncumbents (syncFollow (assertBlockReset d r true))) else d
  | none => d

end Sys2Proof.Machine
end

