-- ==== Sys2Proof/Machine/Fault.lean ====
section
/-! DEFINITION. The commands of the fault collector (R456 to R462, rows FAULT_REPORT to FLT_SRC_SEL_WRITE). -/
namespace Sys2Proof.Machine
open Sys2Proof

/-- A block reports a source of Table 20.1 (R456). When the lockstep cores stop, TWFLOOR is released in any case (R399). -/
def faultReport (d : Dev) (source chan detail : Nat) : Dev :=
  if (srcClass source).isNone then d
  else
    let d1 := report d source (chan % 256) (detail % 2 ^ 24)
    if source == srcLockstep && d1.twn.pull then releaseFloor d1 else d1

/-- What follows a reaction that may have taken a block or a channel out of service: references and locks that went with it (R158, R179, R271). -/
def afterReaction (d : Dev) : Dev := lockFollow (dropIncumbents (syncFollow d))

def execFaultReport (source chan detail : Nat) (s : State) : Host.Outcome State Fault Refusal :=
  act s fun d => afterReaction (faultReport d source chan detail)

/-- A grace timer expires and the reaction starts (R458). -/
def graceExpiry (d : Dev) (source chan : Nat) : Dev :=
  let c := fltChanOf d source chan
  match c.grace with
  | some g => startReaction (setChan d { c with grace := none }) source chan g.seq g.entrySeq .d g.perm g.detail
  | none => d

/-- When a grace timer expires. -/
def graceDue (d : Dev) (source chan : Nat) : Option Nat := (fltChanOf d source chan).grace.map (·.deadline.toNat)

/-- A write of FLT_ACK (R458): it cancels the running timer of that SEQ, or sets ACKLATE; an expiry that has come governs (Table 20.3). -/
def fltAck (d : Dev) (val : Word) : Dev :=
  match d.flt.chans.find? (fun c => match c.grace with
      | some g => (g.seq == val || g.entrySeq == val) && d.t.toNat < g.deadline.toNat
      | none => false) with
  | some c =>
    let entry := (c.grace.map (·.entrySeq)).getD 0
    let d1 := setChan d { c with grace := none }
    { d1 with flt := { d1.flt with log := d1.flt.log.map (fun e => if e.seq == entry then { e with acked := true } else e) } }
  | none => statSet d baseFlt 20

def execFltAckWrite (req : Requester) (val : Word) (s : State) : Host.Outcome State Fault Refusal :=
  act s fun d => withWrite d req FLT_ACK fun d => fltAck d val

/-- A retry that cannot run ends without a reset (R459, Table 19.7). -/
def skipRetry (d : Dev) (source chan : Nat) : Dev :=
  let d1 := setChan d { fltChanOf d source chan with backoff := false }
  { d1 with flt := { d1.flt with reactions := d1.flt.reactions.map (fun r =>
      if r.code == source && r.chan == chan && r.step == 1 && r.ended.isNone then { r with ended := some d.t } else r) } }

/-- The backoff of a retry ends: a quiesced block reset, unless its channel is retired or held, R450 refuses the block, or another reset runs (R459). A port's retry is R291's own. -/
def retryBackoffEnd (d : Dev) (source chan : Nat) : Dev :=
  let slot := source / 256
  let c := fltChanOf d source chan
  if !c.backoff || slot == 13 then d
  else if heldInReset d slot chan then skipRetry d source chan
  else if slot == 22 then
    if d.gen.rst.isSome then statSet (skipRetry d source chan) baseRst 17
    else beginBlockReset (setChan d { c with backoff := false }) 0 0xFF true
  else if 21 < slot || resetRefused slot then skipRetry d source chan
  else if d.gen.rst.isSome then statSet (skipRetry d source chan) baseRst 17
  else beginBlockReset (setChan d { c with backoff := false }) slot (if hasChannels slot then chan else 0xFF) false

/-- The step of the running permanent reaction is complete: the next enabled step starts, or the oldest waiting reaction (R459). -/
def reactionStepComplete (d : Dev) : Dev :=
  match runningPerm d with
  | some r => startWaiting (runLadder 4 d r (r.step + 1))
  | none => d

/-- When the step that runs may be complete: the release of TWFLOOR comes 15 ms before step 4. -/
def stepDue (d : Dev) : Option Nat :=
  (runningPerm d).map fun r => if r.step == 3 && r.ladder.testBit 3 then r.stepT.toNat + 15 * ms else d.t.toNat

/-- A write of FLT_INJ (R462): in FACTORY with FIRE it raises a report with the class it names. -/
def fltInj (d : Dev) (val : Word) : Dev :=
  if d.gen.mode != .factory || !bit val 31 then d
  else
    let code := bits val 15 0
    let detail := rg d FLT_INJ_DETAIL
    let cls := match bits val 29 28 with
      | 0 => some FaultClass.c
      | 1 => some FaultClass.d
      | 2 => some FaultClass.u
      | _ => srcClass code
    match cls with
    | some c => reportCls d code (bits detail 31 24) (bits detail 23 0) c true
    | none => d

def execFltInjWrite (req : Requester) (val : Word) (s : State) : Host.Outcome State Fault Refusal :=
  act s fun d => afterReaction (withWrite d req FLT_INJ fun d => fltInj d val)

/-- The 32 bytes of a log entry (Table 20.2). -/
def entryBytes (e : FltEntry) : List Byte :=
  leBytes 8 e.tFirst.toNat ++ leBytes 8 e.tLast.toNat ++ leBytes 4 e.seq.toNat ++ leBytes 4 e.detail.toNat
    ++ leBytes 2 e.source ++ leBytes 2 e.count ++ leBytes 2 e.cause ++ leBytes 1 0
    ++ leBytes 1 ((match e.cls with
        | .c => 0
        | .d => 1
        | .u => 2) + 4 * b2n e.conseq + 8 * b2n e.perm + 16 * b2n e.acked + 32 * b2n e.lostBefore + 64 * b2n e.inj + 128)

/-- A read of FLT_ENT0 pops the oldest entry into the requester's words (R457). -/
def fltPop (d : Dev) (r : Requester) : Dev :=
  match d.flt.log with
  | e :: rest =>
    let ws := leWords (entryBytes e)
    answer (holdFor { d with flt := { d.flt with log := rest } } r FLT_ENT ws) (ws.take 1)
  | [] => answer (holdFor d r FLT_ENT (List.replicate 8 0)) [0]

def execFltEnt0Read (req : Requester) (s : State) : Host.Outcome State Fault Refusal :=
  act s fun d => withRead d req FLT_ENT fun d => fltPop d req

/-- FLT_SRC_DATA0–8 of a source (Table 20.7). -/
def srcData (d : Dev) (code : Nat) : List Word :=
  let s := fltSourceOf d code
  let cs := d.flt.chans.filter (·.code == code)
  words48 s.raised ++ words48 s.written ++ words48 s.coalesced ++ words48 s.lost
    ++ [w32 (min 65535 s.raised + 2 ^ 16 * b2n (cs.any (·.latched)) + 2 ^ 17 * b2n (cs.any (·.grace.isSome))
        + 2 ^ 18 * b2n (cs.any (·.perm)) + 2 ^ 24 * min 15 (sumN (cs.map (fun c => (retriesIn d c).length))))]

/-- A write of FLT_SRC_SEL copies the counters of the source in one coherent copy. -/
def fltSrcSel (d : Dev) (r : Requester) (val : Word) : Dev :=
  let w := val &&& 0xFFFF#32
  holdFor (putSel d r FLT_SRC_SEL w) r FLT_SRC_DATA (srcData d w.toNat)

def execFltSrcSelWrite (req : Requester) (val : Word) (s : State) : Host.Outcome State Fault Refusal :=
  act s fun d => withWrite d req FLT_SRC_SEL fun d => fltSrcSel d req val

end Sys2Proof.Machine
end

