-- ==== Sys2Proof/Machine/Apl.lean ====
section
/-! DEFINITION. The APLLs and clock outputs: lock, gating, restart, alignment and the phase stepper (R181 to R197, rows APLL_LOCK_ASSERT to PHASE_STEPPER_STEP). -/
namespace Sys2Proof.Machine
open Sys2Proof

/-- N_eff = N·(1 + y), to the nearest 2⁻⁴⁸ (R182). -/
def nEff (d : Dev) (n : Nat) : Nat :=
  let y := match steeringStall d (0x10 + n) with
    | some st => yOf d st
    | none => 0
  (ratNearest ((apN d n : Rat) * (1 + (y : Rat) / (2 ^ 48 : Rat)))).toNat

/-- f_IBS on the current word, Hz (R183). -/
def ibsHz (d : Dev) (n : Nat) : Rat :=
  let f : Rat := ((nEff d n % 2 ^ 48 : Nat) : Rat) / (2 ^ 48 : Rat)
  pfdHz d n * min f (1 - f)

/-- The spur evaluation of a Bell (R183). -/
def evalSpur (d : Dev) (n : Nat) : Dev :=
  if apllBuilt d n then
    let f := ibsHz d n
    updApll d n fun a => { a with ibs := (toNearest (f / 10000)).toNat, spur := decide (f < 4 * (abwHz d n : Rat)), range := rangeBad d n }
  else d

/-! ### Gating (R192, R197) -/

/-- The stalls that steer an APLL. -/
def stallOn (d : Dev) (n : Nat) : Option Nat := steeringStall d (0x10 + n)

/-- Gate every output of an APLL with a cause; PREM is cleared. -/
def gateApll (d : Dev) (n cause : Nat) : Dev :=
  (drivenBy d n).foldl (fun d o => gateOut d o cause)
    (updApll d n fun a => { a with gated := true, cause := cause, prem := 0 })

/-- An APLL gates for the loss of its lock or of its reference: LOSTLK, APn_EVT and the log. -/
def gateLost (d : Dev) (n cause src : Nat) : Dev :=
  if (apllOf d n).gated && (drivenBy d n).all (fun o => !(outOf d o).run) then d
  else
    let d1 := statSet (gateApll d n cause) baseApl (20 + n)
    logC (countUp d1 (apKey AP_EVT n) 15 0 1) src n 0

/-- The analogue detector loses lock (R184, R179). -/
def apllLockLoss (d : Dev) (n : Nat) : Dev :=
  if 4 ≤ n || !(apllOf d n).lock then d
  else
    let d1 := updApll d n (fun a => { a with lock := false })
    let d2 := match stallOn d1 n with
      | some st => unlockStall d1 st
      | none => d1
    gateLost d2 n 2 srcApllUnlock

def execApllLockLoss (n : Nat) (s : State) : Host.Outcome State Fault Refusal := act s fun d => apllLockLoss d n

/-- The reference of an APLL is lost (R184). -/
def apllRefLoss (d : Dev) (n : Nat) : Dev :=
  if 4 ≤ n || !apllBuilt d n || (apllOf d n).refLost then d
  else gateLost (updApll d n (fun a => { a with refLost := true })) n 3 srcApllRefloss

def execApllRefLoss (n : Nat) (s : State) : Host.Outcome State Fault Refusal := act s fun d => apllRefLoss d n

/-! ### Lock and the ETHREF output (R184, R438) -/

/-- The output the charter names for REFCLK_ETH, while one is named and built. -/
def ethrefOut (d : Dev) : Option Nat :=
  match d.cht.cur with
  | some c => if c.fabric.ethref < 24 && built d 3 c.fabric.ethref then some c.fabric.ethref else none
  | none => none

/-- An output starts to run. -/
def startOut (d : Dev) (o : Nat) : Dev := updOut d o (fun _ => { run := true, cause := 0 })

/-- The detector asserts lock; an APLL whose settings break R181 never locks. During a start the ETHREF output starts at once (R438). -/
def apllLockAssert (d : Dev) (n : Nat) : Dev :=
  if 4 ≤ n || !apllBuilt d n || rangeBad d n || (apllOf d n).lock then d
  else
    let d1 := updApll d n fun a => { a with lock := true, refLost := false, range := false, lockT := d.t }
    match ethrefOut d1 with
    | some o =>
      if !inService d1 && d1.gen.mode != .minimal && d1.gen.mode != .off && (drivenBy d1 n).contains o && !outInvalid d1 o n then
        let d2 := startOut d1 o
        { d2 with start := { d2.start with ethT := some d2.t } }
      else d1
    | none => d1

def execApllLockAssert (n : Nat) (s : State) : Host.Outcome State Fault Refusal := act s fun d => apllLockAssert d n

/-! ### Stepping (R185 to R189) -/

/-- The alignment period in 0.5 ps, and a phase change reduced into [−P/2, +P/2) and rounded to nearest, ties to even (R185, R186). -/
def reducePhase (d : Dev) (n : Nat) (x : Rat) : Int :=
  let p := alignPeriod d n * 2000000000000
  let r := if p == 0 then x else x - p * (ratFloor (x / p + 1 / 2) : Rat)
  ratNearest r

/-- One step of the stepper towards 0 (R187): 0.5 ps where `half`, else 1 ps. -/
def stepperStep (d : Dev) (n : Nat) (half : Bool) : Dev :=
  updApll d n fun a =>
    let m : Int := if half || a.prem.natAbs == 1 then 1 else 2
    { a with prem := if 0 < a.prem then a.prem - m else if a.prem < 0 then a.prem + m else 0 }

def execPhaseStepperStep (n : Nat) (half : Bool) (s : State) : Host.Outcome State Fault Refusal :=
  act s fun d => if 4 ≤ n then d else stepperStep d n half

/-- The Δ of a Bell joins PREM, or realigns the dividers (R186, R189). `delta` in 0.5 ps. -/
def addPhase (d : Dev) (n : Nat) (delta : Rat) : Dev :=
  let a := apllOf d n
  if !apllBuilt d n then d
  else if a.gated then updApll d n (fun a => { a with prem := 0 })
  else
    let x := if delta == 0 then a.prem else reducePhase d n ((a.prem : Rat) + delta)
    let lim := rgf d (apKey AP_SLEW n) 23 0 * 2000
    if rgb d (apKey AP_CFG n) 12 && lim < x.natAbs then
      let d1 := statSet (gateApll d n 4) baseApl (20 + n)
      let d2 := updApll d1 n (fun a => { a with realign := true })
      logC (countUp d2 (apKey AP_EVT n) 31 16 1) srcApllRealign n 0
    else updApll d n (fun a => { a with prem := x })

/-! ### Restart (R193, R194) -/

/-- May the gated outputs of an APLL restart at the Bell that is now? Its arming point, 2 µs back, lies 1 ms or more after LOCKn was last asserted; a realign does not wait for a relock (R189). -/
def mayRestart (d : Dev) (n : Nat) : Bool :=
  let a := apllOf d n
  apllBuilt d n && a.lock && !a.refLost && !rangeBad d n && (a.lockT.toNat + ms + 2000 ≤ d.t.toNat)

/-- Restart, or gate, the outputs of an APLL at a Bell: OUTn_MUTE in effect gates with cause 1, a broken limit with cause 7 (R190, R193, R194). `fresh`: outputs that this Bell itself gated or whose pitch it rebuilt, which wait for the next (R195); `now`: the APLL realigns at this Bell, and all its outputs wait (R189). -/
def restartOuts (d : Dev) (n : Nat) (fresh : List Nat) (now : Bool) : Dev :=
  if !(inService d || d.gen.mode == .factory) then d
  else if !apllBuilt d n then d
  else
    let ok := mayRestart d n && !now
    let d1 := (drivenBy d n).foldl (fun d o =>
      if outInvalid d o n then gateOut d o 7
      else if efb d (outKey OUT_MUTE o) 0 then
        if (outOf d o).run || ok then gateOut d o 1 else d
      else if (outOf d o).run then d
      else if ok && !fresh.contains o then startOut d o
      else d) d
    if ok then updApll d1 n (fun a => { a with gated := false, cause := 0, realign := false }) else d1

/-- CAUSE of OUTn_STAT: outputs that the mode keeps gated show 5 (R194, Table 8.9). -/
def outCause (d : Dev) (o : Nat) : Nat :=
  let x := outOf d o
  if x.run || !built d 3 o then 0 else if !(inService d || d.gen.mode == .factory) || x.cause == 0 then 5 else x.cause

/-- What the balls of an output carry: held levels of P and N, or a clock with its frequency, its delay in s and whether P and N are swapped (R190 to R192). -/
inductive OutDrive where
  | off
  | held (p n : Bool)
  | clock (hz delay : Rat) (swapped : Bool)
  deriving DecidableEq, Repr

/-- A built output runs at f_VCO / M, SKEW periods of the VCO late, swapped by INV; while gated it holds P low and N high whatever INV says. -/
def outDrive (d : Dev) (o : Nat) : OutDrive :=
  match linkOf d 3 o 3 with
  | some l =>
    if rgf d (outKey OUT_CFG o) 26 24 == 0 then .off
    else if (outOf d o).run then
      let f := pfdHz d l.arg * (nEff d l.arg : Rat) / (2 ^ 48 : Rat)
      .clock (f / (divOf d o : Rat)) ((rgf d (outKey OUT_SKEW o) 5 0 : Rat) / f) (rgb d (outKey OUT_CFG o) 28)
    else .held false true
  | none => .off

/-- APn_STAT as a read shows it. -/
def apStat (d : Dev) (n : Nat) : Nat :=
  let a := apllOf d n
  min 0xFFFF a.ibs * 2 ^ 16 + b2n a.realign * 64 + b2n (apllBuilt d n && rangeBad d n) * 32 + b2n a.spur * 16
    + b2n (a.prem != 0) * 8 + b2n (apllBuilt d n && a.gated) * 4 + b2n (apllBuilt d n && !a.refLost) * 2 + b2n a.lock

end Sys2Proof.Machine
end

