-- ==== Sys2Proof/Machine/Scl.lean ====
section
/-! DEFINITION. The Scales: bound components, the void state, the holdover model and Ledger Extracts (R14 to R16, R121 to R142, R157, R476, rows LEDGER_EXTRACT_ISSUE and HOLDOVER_POINT_BOUNDARY). -/
namespace Sys2Proof.Machine
open Sys2Proof

/-! ### BOUND_STAMP (R121, R124, R125, R298) -/

def portCal (d : Dev) (p : Nat) : PortCal := d.ptp.cals.getD p {}

/-- U_cal(p) in effect, ps; 0 while VALID = 0 (R298, PT_UCAL). -/
def uCal (d : Dev) (p : Nat) : Nat := if (portCal d p).valid then max (portCal d p).unc 500 else 0

/-- Q_p, ps (Table 6.2). -/
def quantOf (code : Nat) : Nat := if code ≤ 3 then 40 else if code == 4 then 100 else 800

/-- A built entry of port p. -/
def entryOn (d : Dev) (p : Nat) (f : Nat → DomEntry → Bool) : Bool :=
  (List.range 16).any (fun e => let x := d.ptp.entries.getD e {}; x.built && x.port == p && f e x)

/-- The port carries authenticated launch-time departures: an AUTH entry of the Crier, or an address entry of the Tollgate that serves NTS (R306, R335). -/
def authDepartures (d : Dev) (p : Nat) : Bool :=
  entryOn d p (fun e _ => efb d (PT_DCFG + e * 0x40) 5)
    || (List.range 16).any (fun i =>
        let c := rg d (TOL_IP_CFG + i * 0x20)
        bit c 31 && bit c 8 && bit c (16 + p))

/-- BOUND_STAMP(p), 2⁻¹⁶ ns. -/
def boundStamp (d : Dev) (p : Nat) : Nat :=
  ceilDiv ((quantOf (portSpeed d p) + uCal d p + 20 + (if authDepartures d p then 1000 else 0)) * 65536) 1000

/-- Ports whose timing is stamped from a scale, or from TS-O while the scale is selected (R121). -/
def portsStamped (d : Dev) (b : Bool) : List Nat :=
  (List.range 6).filter fun p =>
    built d 7 p && (let s := stampScale d 7 p; s == (if b then 2 else 1) || (s == 0 && d.tsc.cur == b))

/-! ### The selected reference's path (R124) -/

/-- Picoseconds as 2⁻¹⁶ ns, rounded up (R122). -/
def psUp (n : Nat) : Nat := ceilDiv (n * 65536) 1000

/-- The port a PTP reference is tracked on: that of its slot's entry. -/
def trackPort (d : Dev) (r : Nat) : Nat :=
  (d.ptp.entries.getD (eff d (PT_TCFG + (slotOfRef r) * 0x40) 3 0) {}).port

/-- Stored uncertainties on the path from a reference to a scale, 2⁻¹⁶ ns. -/
def pathOf (d : Dev) (r : Nat) : Nat :=
  match kindOf d r with
  | 6 => psUp (uCal d (trackPort d r) + (ef d (PT_TAUNC + (slotOfRef r) * 0x40)).toNat)
  | 7 => psUp (solOf d (solOfRef r)).pathUnc
  | 9 => psUp (ef d TWN_AUNC).toNat
  | _ => if r < 10 then psUp (ef d (refKey REF_CUNC r)).toNat else 0

/-- Bands a solution uses: 0 L1, 1 L5 (R248). -/
def solBands (d : Dev) (k : Nat) : List Nat :=
  if k == 2 then [0] else if k == 3 then [0, 1]
  else if efb d (SOL_CFG0 + k * 0x100) 30 then [0, 1] else [0]

/-- C4 of R14 for a scale: an uncalibrated port it stamps or is tracked through, or an uncalibrated band its solution uses (R254, R298). -/
def calMissingOf (d : Dev) (b : Bool) (cur : Option Nat) : Bool :=
  (portsStamped d b).any (fun p => !(portCal d p).valid)
    || (match cur with
        | some r =>
          (kindOf d r == 6 && !(portCal d (trackPort d r)).valid)
            || (kindOf d r == 7 && (solBands d (solOfRef r)).any (fun band => !rgb d (GN_BAND_CFG + band * 0x20) 27))
        | none => false)

/-- The temperature of TSENSE, 1/256 K: (V − 500 mV) / (10 mV/K), V in 1/256 of 10 mV (R478). -/
def tsenseTemp (v : Int) : Int := v - 50 * 256

/-- C3 of R14: junction or TSENSE out of range, 1/256 K (R476). -/
def tempBad (tChip tSense : Int) : Bool :=
  let lo : Int := if Config.gradeZE then -40 else 0
  tChip < (lo + 2) * 256 || 103 * 256 < tChip || tSense < -40 * 256 || 100 * 256 < tSense

/-! ### Holdover classes (Table 6.3) -/

/-- Fractional frequency, exact, from a value in 2⁻⁴⁸. -/
def frac48 (i : Int) : Rat := (i : Rat) / (2 ^ 48 : Rat)

structure Uncs where
  uy : Rat
  ua : Rat
  uc : Rat
  n  : Rat
  deriving DecidableEq, Repr

def pow10 (k : Nat) : Rat := (10 ^ k : Nat)

/-- Unlearned values. -/
def unlearned (cls : Nat) : Uncs :=
  match cls with
  | 0 => ⟨1 / pow10 9, 1 / pow10 10, 1 / pow10 10, 2⟩
  | 1 => ⟨5 / pow10 11, 1 / pow10 12, 1 / pow10 11, 1⟩
  | _ => ⟨1 / pow10 8, 1 / pow10 9, 1 / pow10 9, 10⟩

/-- Envelope; none for class 2, which is never ready. -/
def envelope (cls : Nat) : Option Uncs :=
  match cls with
  | 0 => some ⟨5 / pow10 12, 1 / pow10 11, 2 / pow10 12, 1 / 5⟩
  | 1 => some ⟨2 / pow10 13, 5 / pow10 14, 1 / pow10 13, 1 / 10⟩
  | _ => none

/-- Learning time, s, and point length, Bells. -/
def learnSeconds (cls : Nat) : Nat := if cls == 1 then 2592000 else 86400
def pointLength (cls : Nat) : Nat := if cls == 1 then 1024 else 64

def learned (m : Model) : Uncs := ⟨frac48 m.uy, frac48 m.ua, frac48 m.uc, (m.n : Rat) / 65536⟩

/-- The uncertainties in force (R131). -/
def uncsOf (d : Dev) (b : Bool) : Uncs :=
  if (sclOf d b).ready then learned (sclOf d b).model else unlearned (hclassOf d b)

/-- The horizon of R123, ns. -/
def horizon : Nat := 1500000000

/-- BOUND_HOLD after t ns with the temperature integral in 1/256 K·ns, 2⁻¹⁶ ns, rounded up (R122, R129). -/
def holdBound (u : Uncs) (t : Nat) (tempInt : Nat) : Nat :=
  let ts : Rat := (t : Rat) / 1000000000
  let lin := u.uy * ts + u.ua / 86400 * ts * ts / 2 + u.uc * ((tempInt : Rat) / 256 / 1000000000)
  (ratCeil (lin * 1000000000 * 65536)).toNat + ratSqrtUp (u.n * u.n * ts * 65536 * 65536)

/-! ### The bound of a Bell -/

/-- The states in which a scale is bounded (Table 6.1, R126, R142). -/
inductive BoundMode where
  | normal | freqOnly | hold | unref
  deriving DecidableEq, Repr

/-- The selector of the stall that steers a scale. -/
def scaleSel (d : Dev) (b : Bool) : Sel :=
  match steeringStall d (b2n b) with
  | some n => selOf d n
  | none => {}

/-- Its selected reference. -/
def scaleCur (d : Dev) (b : Bool) : Option Nat :=
  let s := scaleSel d b
  if s.curV then some s.cur else none

def boundMode (d : Dev) (b : Bool) : BoundMode :=
  match scaleCur d b with
  | some r => if hasPhase d r then .normal else if (sclOf d b).timeRefT.isNone then .unref else .freqOnly
  | none => if (sclOf d b).timeRefT.isNone then .unref else .hold

/-- The servo state shown of a scale (R142, R164). -/
def scaleServo (d : Dev) (b : Bool) : Servo := ((steeringStall d (b2n b)).map (servoShown d)).getD .freeRun

def maxAbs (l : List Int) : Nat := maxN (l.map (·.natAbs))

/-- 3σ of a window, population form, rounded up (Table 6.1, log 11). -/
def sigma3 (l : List Int) : Nat :=
  let n := l.length
  let s1 := sumI l
  let s2 := sumI (l.map (fun x => x * x))
  if n == 0 then 0 else ceilDiv (isqrtUp (9 * (n * s2 - s1 * s1)).toNat) n

/-- The MANUAL term of BOUND_LOOP (R125). -/
def manualTerm (d : Dev) (b : Bool) : Nat :=
  match steeringStall d (b2n b) with
  | some n =>
    if eff d (SC_CTRL + 0x100 * b2n b) 0 0 == 1 then
      ceilDiv ((efPairS d (SC_FADJ_LO + 0x100 * b2n b) - yOf d n).natAbs * horizon) (2 ^ 32)
    else 0
  | none => 0

/-- The window of e takes this Bell's value; a software step of x widens every value (R125). `x` in 2⁻¹⁶ ns. -/
def pushWindow (d : Dev) (b : Bool) (x : Int) : Dev :=
  match scaleCur d b, steeringStall d (b2n b) with
  | some _, some n =>
    let e := (stallOf d n).e
    updScl d b fun s =>
      let w := (e :: s.win).take 64
      { s with win := if x == 0 then w else w.map (fun v => (v.natAbs + x.natAbs : Nat)) }
  | _, _ => d

/-- When the holdover formula's time began; a stall put into free-run by a reset leaves its scale bounded from the last Bell of its reference. -/
def holdFrom (d : Dev) (b : Bool) : Nat :=
  let s := sclOf d b
  match boundMode d b with
  | .hold => (s.tEntry.getD (s.timeRefT.getD d.t)).toNat
  | .unref => (s.freeRunFrom.getD d.t).toNat
  | .freqOnly => (s.timeRefT.getD d.t).toNat
  | .normal => d.t.toNat

/-- The temperature integral takes the interval that ends: |T − T₀| sampled at its ends, the larger of the two (R122, R129). -/
def integrateTemp (d : Dev) (b : Bool) (prevT : Nat) (temp : Int) : Dev :=
  let m := boundMode d b
  let runs := m == .hold || m == .unref
  updScl d b fun s =>
    let dt := (temp - s.model.t0).natAbs
    let from_ := max prevT (holdFrom d b)
    { s with
      tempInt := if runs then s.tempInt + max s.lastDT dt * (d.t.toNat - from_) else s.tempInt
      lastDT := dt }

/-- BOUND_SNAP (R128), 2⁻¹⁶ ns. -/
def snapBound (d : Dev) (b : Bool) : Nat :=
  match (sclOf d b).snap with
  | some (rtw, uy, t0) => rtw + ceilDiv (uy * (d.t.toNat + horizon - t0.toNat)) (2 ^ 32)
  | none => 0

/-- Sums saturate (R122). -/
def satBound (c : Bound) : Bound :=
  ⟨satU 64 c.ref, satU 64 c.path, satU 64 c.hold, satU 64 c.loop, satU 64 c.stamp, satU 64 c.snap, satU 64 c.disp⟩

/-- BOUND_LOOP in normal service: max₆₄ |e| + 1 ps, and the MANUAL term (R125). -/
def loopBound (d : Dev) (b : Bool) : Nat := maxAbs (sclOf d b).win + 66 + manualTerm d b

/-- The components of a scale at a Bell before they saturate (Table 6.1, R126 to R129, R142). Under a reference that carries frequency only, REF and PATH stay those of the last reference that carried time, from which BOUND_HOLD grows (DEDUCED, log 51), and N is the unlearned value of the class (DESIGN CHOICE, log 51). -/
def bareComponents (d : Dev) (b : Bool) : Bound :=
  let s := sclOf d b
  let stamp := maxN ((portsStamped d b).map (fun p => d.stamps.getD p 0))
  let t := d.t.toNat + horizon - holdFrom d b
  let u := uncsOf d b
  let ti := s.tempInt + (s.lastDT + 1) * horizon
  match boundMode d b with
  | .normal =>
    let r := (scaleCur d b).getD 0
    let ud := udOf d r
    if s.frozen then { s.comp with hold := 0, stamp := stamp, snap := snapBound d b }
    else { ref := ud + (if s.win.length < 8 then ud else sigma3 s.win), path := pathOf d r, hold := 0,
           loop := loopBound d b, stamp := stamp, snap := snapBound d b, disp := s.dispMax }
  | .freqOnly =>
    let r := (scaleCur d b).getD 0
    { s.comp with
      hold := holdBound ⟨frac48 (funcOf d r), 0, 0, (unlearned (hclassOf d b)).n⟩ t 0,
      loop := if s.frozen then s.comp.loop else loopBound d b, stamp := stamp, snap := snapBound d b }
  | .hold => { s.comp with hold := holdBound u t ti, stamp := stamp }
  | .unref =>
    { ref := rgPair d (ssKey SS_SETUNC_LO b), path := 0, hold := holdBound u t ti, loop := 0, stamp := stamp,
      snap := snapBound d b, disp := 0 }

def components (d : Dev) (b : Bool) : Bound := satBound (bareComponents d b)

def boundCore (c : Bound) : Nat := satU 64 (c.ref + c.path + c.hold + c.loop + c.snap + c.disp)

/-- BOUND_TOTAL(s) and BOUND_TOTAL(s, p) before the void rule (R121). -/
def boundTotal (c : Bound) : Nat := satU 64 (boundCore c + c.stamp)

/-- HOLDTIME now, s (R133, R142). -/
def holdTimeOf (d : Dev) (b : Bool) : Nat :=
  let s := sclOf d b
  let since := fun (t : Tick) => (d.t.toNat - t.toNat) / 1000000000
  min 0xFFFFFFFF (match s.tEntry, s.freeRunFrom with
    | some t, _ => since t
    | none, some t => since t
    | none, none => s.holdTime)

/-- REF_OUT at a Bell (R157). -/
def refOutNow (d : Dev) (b : Bool) : Bool :=
  match scaleCur d b, steeringStall d (b2n b) with
  | some r, some n => markedIn d n r || (hasPhase d r && 3 * udOf d r < (stallOf d n).e.natAbs)
  | _, _ => false

/-- OSC_OUT at a Bell: the lost standard of a class 1 scale in holdover (R163), a model outside its envelope (R131), or an oscillator that the references find bad (Table 1.2, log 12). -/
def oscOutNow (d : Dev) (b : Bool) : Bool :=
  (hclassOf d b == 1 && (sclOf d b).tEntry.isSome
    && !((kindOf d (hstdOf d b) == 3 || kindOf d (hstdOf d b) == 1) && (refOf d (hstdOf d b)).present))
  || (sclOf d b).envOut || oscBad d

/-- The conditions of R14 and the end of a void (R16): the switch that it asks for is one made since the void began, and not while REF_OUT is set (R157). -/
def voidStep (d : Dev) (b : Bool) (tempOut : Bool) : Dev :=
  let ro := refOutNow d b
  let oo := oscOutNow d b
  let cm := calMissingOf d b (scaleCur d b)
  let any := ro || oo || tempOut || cm
  updScl d b fun s =>
    let s1 := { s with
      refOut := ro, oscOut := oo, tempOut := tempOut, calMissing := cm
      learnTime := if oo && !s.oscOut then 0 else s.learnTime }
    if any then { s1 with isVoid := true, clearFrom := none, reanchored := s.isVoid && !ro && s.reanchored }
    else if s.isVoid then
      let since := s.clearFrom.getD d.t
      let valid_ := s.reanchored && (match scaleCur d b with
        | some r => qtimePassed d r since
        | none => false)
      { s1 with clearFrom := if valid_ then none else some since, isVoid := !valid_, reanchored := if valid_ then false else s.reanchored }
    else { s1 with clearFrom := none, reanchored := false }

/-- OOS and the alarm (R133, R134). -/
def alarmStep (d : Dev) (b : Bool) : Dev :=
  let m := boundMode d b
  let holds := m == .hold || m == .unref
  let lim := efPair d (ssKey SS_HOLD_LIMIT_LO b)
  let maxT := (rg d (ssKey SS_HOLD_MAXTIME b)).toNat
  let al := rgPair d (ssKey SS_ALARM_LO b)
  let ht := holdTimeOf d b
  updScl d b fun s => { s with
    oosL := holds && decide (lim < s.total), oosT := holds && decide (maxT < ht), alm := decide (al < s.total) }

/-- BOUND_DELTA: the change of the bound in 2⁻⁴ ns towards +∞ (R138), and whether it saturates (R111). -/
def boundDelta (old new : Nat) : Word × Bool :=
  let x := ceilDivI ((new : Int) - old) 4096
  let lim : Int := 2 ^ 31 - 1
  let y := max (-lim) (min lim x)
  (loW y, x != y)

/-- The records of a half written since its count was `lwp0`, each owed a BOUND_DELTA of 0 (R113). -/
def owed (d : Dev) (b : Bool) (lwp0 : Word) : List (Bool × Nat × Word × Bool) :=
  (List.range ((scaleOf d b).lwp - lwp0).toNat).map (fun i => (b, lwp0.toNat + i, 0, false))

/-- The records of a Bell wait for BOUND_DELTA, which is filled in 50 µs after it (R113: by then; DESIGN CHOICE, log 51). -/
def oweDeltas (d : Dev) (lwpA lwpB : Word) : Dev :=
  { d with tsc := { d.tsc with fill := owed d false lwpA ++ owed d true lwpB, fillT := d.t + 50000 } }

/-- The first record of the scale among those that wait takes the change of its bound since the Bell before (R138). -/
def placeDelta (d : Dev) (b : Bool) : Dev :=
  let own := d.tsc.fill.find? fun x =>
    x.1 == b && (sparseGet blankRec (scaleOf d b).ram (x.2.1 % 4096)).scale == scaleCode b
  match own with
  | some o =>
    let (w, sat) := boundDelta (sclOf d b).prevTotal (sclOf d b).bellTotal
    { d with tsc := { d.tsc with fill := d.tsc.fill.map (fun x => if x.1 == b && x.2.1 == o.2.1 then (b, o.2.1, w, sat) else x) } }
  | none => d

/-! ### Learning (R130, R131) -/

/-- The stall is locked to a qualified reference that carries time. -/
def learns (d : Dev) (b : Bool) : Bool :=
  (scaleSel d b).servo == .locked && (match scaleCur d b with
    | some r => carriage d r == .time && qualifiedR d r
    | none => false)

/-- A Bell of learning joins the running point: the stall's steering offset against the holdover source, whether the scale applies it or not (R130). -/
def learnBell (d : Dev) (b : Bool) (prevT : Nat) (temp : Int) : Dev :=
  if learns d b then
    let y := ((steeringStall d (b2n b)).map (yOf d)).getD 0 - hsourceY d b
    updScl d b fun s => { s with
      accN := s.accN + 1, accY := s.accY + y, accT := s.accT + temp,
      learnBells := s.learnBells + 1, learnTime := s.learnTime + (d.t.toNat - prevT) }
  else d

/-- An integer next to a rational whose rounding the spec does not state: one of its two neighbours, freely (log 2). -/
def freeRound (d : Dev) (q : Rat) : Int × Dev := freeDiv d q.num q.den

/-- Residuals of a fit over points: mean offset less the fitted one, 2⁻⁴⁸. -/
def residuals (rows : List (Rat × List Rat × Rat)) (x : List Rat) : List Rat :=
  rows.map (fun r => r.2.2 - dot r.2.1 x)

/-- Sums of k consecutive values. -/
def windowSums (k : Nat) (l : List Rat) : List Rat :=
  (List.range (l.length + 1 - k)).map (fun i => ((l.drop i).take k).foldl (· + ·) 0)

def meanSq (l : List Rat) : Rat :=
  if l.isEmpty then 0 else (l.map (fun x => x * x)).foldl (· + ·) 0 / (l.length : Rat)

/-- N in 2⁻¹⁶ ns/√s from the phase residuals at 1 and 16 point lengths of `len` s (R130). -/
def noiseOf (len : Nat) (res : List Rat) : Nat :=
  let ns := res.map (fun r => r / (2 ^ 48 : Rat) * (len : Rat) * 1000000000)
  let at_ := fun (k : Nat) => if ns.length < k then 0 else
    ratSqrtUp (9 * meanSq (windowSums k ns) / ((k * len : Nat) : Rat) * 65536 * 65536)
  max (at_ 1) (at_ 16)

/-- The points as rows: weight, [1, days from the newest boundary, K from T₀], mean offset. -/
def pointRows (len learnBells : Nat) (t0 : Rat) (l : List Point) : List (Rat × List Rat × Rat) :=
  l.map fun p =>
    (1, [1, (((p.at2 : Int) - 2 * learnBells : Int) : Rat) / 2 / 86400, ((p.temp : Rat) / (len : Rat) - t0) / 256],
      (p.y : Rat) / (len : Rat))

/-- The unknowns that the points determine: y₀, a and c, or y₀ and a where the temperature never moved; none where they determine neither. -/
def holdFit (rows : List (Rat × List Rat × Rat)) : Option (Nat × List Rat × List (List Rat)) :=
  match lsq rows 3 with
  | some (x, inv) => some (3, x, inv)
  | none => (lsq (rows.map (fun r => (r.1, r.2.1.take 2, r.2.2))) 2).map fun f => (2, f.1, f.2)

/-- The fit of the newest points and their mean temperature, and whether they gave a fit (R130). Fewer points than the fit asks for leave the coefficients; a coefficient of temperature that no change of temperature shows is free, and its standard error has no bound (log 36). -/
def fitModel (d : Dev) (b : Bool) : Model × Bool × Dev :=
  let s := sclOf d b
  let len := pointLength (hclassOf d b)
  let n := s.points.length
  let t0 : Rat := (sumI (s.points.map (·.temp)) : Rat) / ((len * n : Nat) : Rat)
  let rows := pointRows len s.learnBells t0 s.points
  let (t, d1) := freeRound d t0
  match holdFit rows with
  | some (k, x, inv) =>
    if n ≤ k then ({ s.model with t0 := t }, false, d1)
    else
      let res := residuals rows x
      let s2 := (res.map (fun r => r * r)).foldl (· + ·) 0 / ((n - k : Nat) : Rat)
      let u := fun (i : Nat) => (ratSqrtUp (9 * s2 * ((inv.getD i []).getD i 0)) : Int)
      let (y0, d2) := freeRound d1 (x.getD 0 0)
      let (a, d3) := freeRound d2 (x.getD 1 0)
      if k == 3 then
        let (c, d4) := freeRound d3 (x.getD 2 0)
        (⟨y0, u 0, a, u 1, c, u 2, noiseOf len res, t⟩, true, d4)
      else
        let (c, d4) := drawBelow d3 (2 ^ 64)
        (⟨y0, u 0, a, u 1, (BitVec.ofNat 64 c).toInt, 2 ^ 63 - 1, noiseOf len res, t⟩, true, d4)
  | none => ({ s.model with t0 := t }, false, d1)

def inEnvelope (cls : Nat) (m : Model) : Bool :=
  match envelope cls with
  | some e =>
    let u := learned m
    u.uy ≤ e.uy && u.ua ≤ e.ua && u.uc ≤ e.uc && u.n ≤ e.n
  | none => false

/-- A point boundary: the running point closes, the model is fitted again, HOLD_READY and OSC_OUT follow (R130, R131). -/
def pointBoundary (d : Dev) (b : Bool) : Dev :=
  let cls := hclassOf d b
  let len := pointLength cls
  if (sclOf d b).accN < len then d
  else
    let d1 := updScl d b fun s => { s with
      points := (⟨2 * s.learnBells - len, s.accY, s.accT⟩ :: s.points).take 4096, accN := 0, accY := 0, accT := 0 }
    let (m, fitted, d2) := fitModel d1 b
    let ok := inEnvelope cls m
    let d3 := updScl d2 b (fun s => { s with model := m, envOut := s.envOut && !(fitted && ok) })
    if !fitted then d3
    else if (sclOf d3 b).ready && !ok then setOscOut (updScl d3 b (fun s => { s with ready := false, envOut := true })) b
    else if ok && learnSeconds cls * 1000 * ms ≤ (sclOf d3 b).learnTime then updScl d3 b (fun s => { s with ready := true })
    else d3

def execHoldoverPointBoundary (scale : Nat) (s : State) : Host.Outcome State Fault Refusal :=
  act s fun d => if 1 < scale then d else pointBoundary d (scale == 1)

/-! ### Extracts (R139 to R141) -/

/-- SHA-384 of the identity public key. -/
def idHash (d : Dev) : List Byte := sha384B (pointBytes (identityScalar d))

def bitIf (b : Bool) (i : Nat) : Nat := if b then 2 ^ i else 0

/-- EFLAGS but for UNSIGNED (Table 6.5). -/
def extractFlags (d : Dev) (b : Bool) : Nat :=
  let s := sclOf d b
  bitIf (voidOf s) 0 + bitIf (scaleServo d b == .holdover) 1 + bitIf (oosOf s) 2 + bitIf s.ready 3 + bitIf (almOf s) 4
    + bitIf (d.tsc.cur == b) 5 + bitIf (scaleOf d b).breach 7
    + bitIf ((scaleSel d b).curV && (scaleSel d b).disputes.any (fun x => x.i == (scaleSel d b).cur || x.j == (scaleSel d b).cur)) 8
    + bitIf (s.comp.snap != 0) 9 + bitIf (boundMode d b == .freqOnly) 10

/-- SCL_COND bits of a scale. -/
def condBits (s : Scl) : Nat := bitIf s.refOut 0 + bitIf s.oscOut 1 + bitIf s.tempOut 2 + bitIf s.calMissing 3

/-- BOUND_TOTAL(s) as published: all ones while void (R135). -/
def totalShown (s : Scl) : Nat := if voidOf s then 2 ^ 64 - 1 else if s.blank then 0 else s.total

def compList (c : Bound) : List Nat := [c.ref, c.path, c.hold, c.loop, c.stamp, c.snap, c.disp]

/-- Bytes 0x00 to 0x9F of an Extract whose Bell stood at V on its scale (Table 6.5). -/
def extractBody (d : Dev) (b unsigned : Bool) (v : Nat) : List Byte :=
  let s := sclOf d b
  beBytes 2 0x0100 ++ beBytes 1 (modeCode d.gen.mode) ++ beBytes 1 (scaleCode b)
    ++ beBytes 2 (extractFlags d b + bitIf unsigned 6) ++ beBytes 1 (condBits s) ++ beBytes 1 (hclassOf d b)
    ++ beBytes 8 d.bellCnt.toNat ++ beBytes 8 (secOf v) ++ beBytes 4 (nsOf v) ++ beBytes 4 (holdTimeOf d b)
    ++ beBytes 8 (totalShown s) ++ (compList s.comp).flatMap (beBytes 8)
    ++ beBytes 8 (scaleOf d b).sum.toNat ++ beBytes 8 (inEffectId d) ++ idHash d

/-- The Extract of a Bell is formed for a set scale whose enable is set; it waits for its signature. -/
def formExtract (d : Dev) (b : Bool) : Dev :=
  if (scaleOf d b).setDone && rgb d SCL_XCTRL (if b then 31 else 30) then
    updScl d b (fun s => { s with extractDue := some (extractBody d b false (scaleOf d b).v) })
  else updScl d b (fun s => { s with extractDue := none })

/-- EFLAGS with UNSIGNED set in a formed body. -/
def markUnsigned (l : List Byte) : List Byte := l.take 5 ++ [(l.getD 5 0) ||| 0x40#8] ++ l.drop 6

/-- Sign and deliver the Extract of a scale (R140, R141). -/
def issueExtract (d : Dev) (b inTime : Bool) : Dev :=
  match (sclOf d b).extractDue with
  | none => d
  | some body =>
    let signed := inTime && (workOf d 3).node.isSome && !(workOf d 3).orph
    let (bytes, d1) :=
      if signed then
        let (k, d0) := drawBelow d (2 ^ 384)
        (body ++ beBytes 96 (Config.ecdsaSign (sealScalar d) (sha384B body) k).toNat, d0)
      else (markUnsigned body ++ zeros 96, statSet d baseScl 16)
    let d2 := updScl d1 b (fun s => { s with extractDue := none, extract := some bytes })
    let (d3, ok) := deliver d2 (rgf d2 SCL_XCTRL 5 0) 2 bytes
    if ok then d3 else countUp d3 SCL_XDROP 31 0 1

def execLedgerExtractIssue (signedInTime : Bool) (s : State) : Host.Outcome State Fault Refusal :=
  act s fun d => issueExtract (issueExtract d false signedInTime) true signedInTime

/-! ### The bound of a Bell -/

/-- The Scales' part of a Bell for one scale: conditions, components, BOUND_TOTAL, OOS, alarm, BOUND_DELTA, learning and the Extract. -/
def sclBell (d : Dev) (b : Bool) (prevT : Nat) (temp tChip tSense : Int) (softStep : Int) : Dev :=
  if !(scaleOf d b).setDone then updScl d b (fun s => { s with extractDue := none })
  else
    let d1 := pushWindow d b softStep
    let d2 := learnBell (integrateTemp d1 b prevT temp) b prevT temp
    let d3 := voidStep d2 b (tempBad tChip tSense)
    let c := components d3 b
    let phased := match scaleCur d3 b with
      | some r => hasPhase d3 r
      | none => false
    let d4 := updScl d3 b fun s => { s with
      comp := c, prevTotal := s.bellTotal, total := boundTotal c, bellTotal := boundTotal c, blank := false,
      timeRefT := if phased then some d3.t else s.timeRefT,
      freeRunFrom := if phased then none else s.freeRunFrom }
    formExtract (placeDelta (alarmStep d4 b) b) b

/-- BOUND_STAMP of the ports stamped from a set scale, as of this Bell (R121). -/
def stampBell (d : Dev) : Dev :=
  let on := fun (b : Bool) => if (scaleOf d b).setDone then portsStamped d b else []
  { d with stamps := (List.range 6).map (fun p => if (on false ++ on true).contains p then boundStamp d p else 0) }

/-- V of a working scale on the last Bell's TCLK: its INC is constant since (R98). -/
def bellV (d : Dev) (b : Bool) : Nat :=
  (scaleOf d b).v - incOf (scaleOf d b).f * (d.t - d.tsc.lastBellT).toNat

/-- A Bell's bound is complete 50 µs after it (Table 2.3): what the evaluation at 20 µs changes is in it, in BOUND_DELTA and in the Extract that waits (R123, R127, R138, R158). -/
def boundAgain (d : Dev) (b : Bool) : Dev :=
  if (scaleOf d b).setDone && d.tsc.hadBell && decide (d.t.toNat ≤ d.tsc.lastBellT.toNat + 50000) then
    let c := components { d with t := d.tsc.lastBellT } b
    let d1 := updScl d b fun s => { s with comp := c, total := boundTotal c, bellTotal := boundTotal c }
    let d2 := placeDelta (alarmStep d1 b) b
    updScl d2 b fun s => { s with extractDue := s.extractDue.map (fun _ => extractBody d2 b false (bellV d2 b)) }
  else d

/-- The evaluation 20 µs after a Bell (R147, R153), and the bounds it bears on. -/
def refEvaluation (d : Dev) (l : List RefMeas) : Dev :=
  boundAgain (boundAgain (evaluateRefs d l) false) true

end Sys2Proof.Machine
end

