-- ==== Sys2Proof/Machine/Stage.lean ====
section
/-! DEFINITION. Class S writes taking effect at the boundaries of their own period (R34 to R36, R203). -/
namespace Sys2Proof.Machine
open Sys2Proof

/-- Of the writes to the same words, the last. -/
def lastOfWords : List Staged → List Staged
  | [] => []
  | e :: r => if r.any (fun x => sameKeys x.words e.words) then lastOfWords r else e :: lastOfWords r

/-- The writes staged to a boundary of their own period that is now take effect together, the last of each value that reached its block 2 µs before or was armed; those that missed it stay, with STAT.LATE set where the period is longer than 2 µs (R34 to R36). `period` in ns. -/
def takeBoundary (d : Dev) (b : Boundary) (period : Nat) : Dev :=
  let here := d.staged.filter (·.boundary == b)
  let ready := lastOfWords (here.filter (ripe d))
  let missed := here.filter (fun e => !ripe d e && !e.late && 2000 < period)
  let keep := d.staged.filter (fun e => !(e.boundary == b && ripe d e))
  let d1 := { d with staged := keep.map (fun e => if e.boundary == b then { e with late := true } else e) }
  let d2 := ready.foldl (fun d e => tallyStaged (effWords d b e.words) e) d1
  missed.foldl (fun d e => let key := (e.words.getLast?.map (·.1)).getD e.window
    markLate d key (e.by_.map (fun x => ⟨x.1, x.2, key⟩))) d2

end Sys2Proof.Machine
end

