-- ==== Sys2Proof/Machine/Out.lean ====
section
/-! DEFINITION. Pulses, grids, triggers and captures (R41, R42, R198 to R211, rows PULSE_INSTANT to TRN_CAP0_READ). -/
namespace Sys2Proof.Machine
open Sys2Proof

/-! ### Pins -/

/-- Pins in the record of outputs go by their codes of Table 21.5; TWALIVE, which has none, is 69. -/
def pinPulse (n : Nat) : Nat := n
def pinTrig (n : Nat) : Nat := 8 + n

def updPulse (d : Dev) (n : Nat) (f : Pulse → Pulse) : Dev := { d with pulses := upd d.pulses n f }
def updGrid (d : Dev) (n : Nat) (f : Grid → Grid) : Dev := { d with grids := upd d.grids n f }
def updTrig (d : Dev) (n : Nat) (f : Trig → Trig) : Dev := { d with trigs := upd d.trigs n f }

/-- The working scale a time of the coding of STAMP_SCALE stands for is set: TS-O is set with the scale it copies. -/
def scaleSet (d : Dev) (sc : Nat) : Bool :=
  match sc with
  | 1 => d.tsc.a.setDone
  | 2 => d.tsc.b.setDone
  | _ => (scaleOf d d.tsc.cur).setDone

/-! ### Pulses (R198 to R200) -/

/-- Period of a pulse, s (R198). -/
def pulsePeriod (d : Dev) (n : Nat) : Rat :=
  ((ef d (plKey PL_PNUM n)).toNat : Rat) / ((max 1 (ef d (plKey PL_PDEN n)).toNat : Nat) : Rat)

/-- OFFSET in ps, limited. -/
def pulseOffset (d : Dev) (n : Nat) : Int :=
  max (-500000000000) (min 500000000000 (efPairS d (plKey PL_OFS_LO n)))

/-- PLn_STAT.INVAL (R198, R199). -/
def pulseInvalid (d : Dev) (n : Nat) : Bool :=
  match pulseRef d n with
  | some r => kindOf d r != 2
  | none => pulsePeriod d n < 1 / 1000000 || 1000 < pulsePeriod d n

/-- The period of a pulse that is known, ns: of a scale's as written, of a REFIN's as last measured (R199). -/
def pulsePerNs (d : Dev) (n : Nat) : Option Rat :=
  match pulseRef d n with
  | none => some (pulsePeriod d n * 1000000000)
  | some _ => (pulseOf d n).inPeriod.map (fun t => (t : Rat) / 65536)

/-- PLn_STAT.WCLAMP: WIDTH of at least the period. -/
def pulseWClamp (d : Dev) (n : Nat) : Bool :=
  (pulsePerNs d n).any (fun p => decide (p ≤ ((ef d (plKey PL_WIDTH n)).toNat : Rat)))

/-- PLn_STAT.OCLAMP. -/
def pulseOClamp (d : Dev) (n : Nat) : Bool := pulseOffset d n != efPairS d (plKey PL_OFS_LO n)

/-- Width in ps, to the nearest (R200). -/
def pulseWidth (d : Dev) (n : Nat) : Int :=
  match pulsePerNs d n with
  | some p =>
    if pulseWClamp d n then ratNearest (p * 500) else (1000 * max 8 (ef d (plKey PL_WIDTH n)).toNat : Nat)
  | none => (1000 * max 8 (ef d (plKey PL_WIDTH n)).toNat : Nat)

def pulseScale (d : Dev) (n : Nat) : Nat := stampScale d 4 n

/-- A value of a scale, exact in ns. -/
def scaleNs (d : Dev) (sc : Nat) : Rat := (scaleVal d sc : Rat) / (nsUnit : Rat)

/-- The steering offset a scale counts with. -/
def scaleF (d : Dev) (sc : Nat) : Int :=
  match sc with
  | 1 => d.tsc.a.f
  | 2 => d.tsc.b.f
  | _ => d.tsc.oF

/-- Instant k of a pulse on its scale, ns (R198). -/
def pulseAt (d : Dev) (n : Nat) (k : Int) : Rat := (k : Rat) * pulsePeriod d n * 1000000000 + (pulseOffset d n : Rat) / 1000

/-- Index of the latest instant at or before a scale value in 2⁻⁴⁸ ns. -/
def pulseIndex (d : Dev) (n : Nat) (v : Nat) : Int :=
  ratFloor (((v : Rat) / (nsUnit : Rat) - (pulseOffset d n : Rat) / 1000) / (pulsePeriod d n * 1000000000))

/-- The picosecond of the free counter at which a scale stood at an instant within the TCLK that ends now: edges are placed to 1 ps (R200). An instant that a step has passed over is placed on the TCLK itself. -/
def edgePs (d : Dev) (sc : Nat) (instant : Rat) : Int :=
  let inc : Rat := (incOf (scaleF d sc) : Rat) / (nsUnit : Rat)
  let back := (scaleNs d sc - instant) / inc
  (d.t.toNat * 1000 : Nat) - (if inc ≤ 0 || 1 < back || back < 0 then 0 else ratNearest (back * 1000))

/-- A pin goes to its active level at a picosecond, or stays there while its width runs again (R207). -/
def pulsePin (d : Dev) (n : Nat) (ps : Int) : Dev :=
  let d1 := if (pulseOf d n).active then d else emit d (.pin (pinPulse n) (!efb d (plKey PL_CFG n) 0) ps)
  updPulse d1 n fun p => { p with active := true, endPs := some (ps + pulseWidth d n) }

/-- May a pulse fire: built, running, valid and not muted; a REFIN-aligned one with an input or flying on projected edges. -/
def pulseMayFire (d : Dev) (n : Nat) : Bool :=
  built d 4 n && (pulseOf d n).run && !pulseInvalid d n && !efb d (plKey PL_CFG n) 1
    && (match pulseRef d n with
        | some r => presentR d r || pulseFly d n
        | none => true)

/-- The level of a PULSE pin: inactive whenever the pulse may not fire (R198, R199, R210). -/
def pulseLevel (d : Dev) (n : Nat) : Bool := ((pulseOf d n).active && pulseMayFire d n) != efb d (plKey PL_CFG n) 0

/-- The instant of a REFIN-aligned pulse that has not fired, 2⁻¹⁶ ns of the free counter: OFFSET after the last edge where it is at least +200 ns, else OFFSET after the projected one (R199). -/
def pulseInDue (d : Dev) (n : Nat) : Option Rat :=
  let p := pulseOf d n
  let ofs : Rat := (pulseOffset d n : Rat) * 65536 / 1000
  match p.inEdge with
  | none => none
  | some e =>
    if p.inDone == some e then none
    else if 200000 ≤ pulseOffset d n then some ((e : Rat) + ofs)
    else p.inPeriod.map (fun t => ((e + t : Int) : Rat) + ofs)

/-- Index of the next instant of a pulse on a scale: that after the last, or the latest one where several have passed. -/
def pulseNextK (d : Dev) (n : Nat) : Int :=
  let k := pulseIndex d n (scaleVal d (pulseScale d n))
  match (pulseOf d n).lastK with
  | some l => max k (l + 1)
  | none => k + 1

/-- The instant that a pulse has reached fires. -/
def pulseInstant (d : Dev) (n : Nat) : Dev :=
  if !pulseMayFire d n then d
  else match pulseRef d n with
    | some _ =>
      match pulseInDue d n with
      | some q => updPulse (pulsePin d n (ratNearest (q * 1000 / 65536))) n (fun p => { p with inDone := p.inEdge })
      | none => d
    | none =>
      let k := pulseNextK d n
      updPulse (pulsePin d n (edgePs d (pulseScale d n) (pulseAt d n k))) n (fun p => { p with lastK := some k })

/-- A change of a pulse's fields, or its start: the first instant that fires lies at or after the TCLK that is now (R200, R210). -/
def pulseRestart (d : Dev) (n : Nat) : Dev :=
  let x := (scaleNs d (pulseScale d n) - (pulseOffset d n : Rat) / 1000) / (pulsePeriod d n * 1000000000)
  updPulse d n (fun p => { p with lastK := if pulsePeriod d n == 0 then none else some (ratCeil x - 1) })

/-- A change of a pulse's fields leaves its train to be laid on the scale as it stands after the Bell's steps (R211); a pin that may not be active any more is not. -/
def pulseChanged (d : Dev) (n : Nat) : Dev :=
  updPulse d n fun p => { p with
    lastK := none, active := p.active && pulseMayFire d n, endPs := if pulseMayFire d n then p.endPs else none }

/-- Instants that a positive step passes over: the pin fires once, every one counts as skipped (R41, R207); a train that changed at this Bell starts on the scale after the step (R211). `v0`: the scale before the step. -/
def pulseSkips (d : Dev) (n : Nat) (v0 : Nat) : Dev :=
  if !(pulseOf d n).run || (pulseRef d n).isSome then d
  else match (pulseOf d n).lastK with
    | none => pulseRestart d n
    | some l =>
      let v1 := scaleVal d (pulseScale d n)
      let from_ := max l (pulseIndex d n v0)
      let upTo := pulseIndex d n v1
      if pulseMayFire d n && v0 < v1 && from_ < upTo then
        let d1 := updPulse (pulsePin d n (d.t.toNat * 1000 : Nat)) n (fun p => { p with lastK := some upTo })
        statSet (countUp d1 (plKey PL_EVT n) 31 16 (upTo - from_).toNat) baseOut 16
      else d

/-- The width of a pulse or a trigger has elapsed (R200). -/
def widthEnd (d : Dev) (trig : Bool) (n : Nat) : Dev :=
  let ps := fun (e : Option Int) => e.getD (d.t.toNat * 1000 : Nat)
  if trig then
    let t := trigOf d n
    if t.active then
      updTrig (emit d (.pin (pinTrig n) (efb d (grKey TR_CFG n) 0) (ps t.endPs))) n (fun t => { t with active := false, endPs := none })
    else d
  else
    let p := pulseOf d n
    if p.active then
      updPulse (emit d (.pin (pinPulse n) (efb d (plKey PL_CFG n) 0) (ps p.endPs))) n (fun p => { p with active := false, endPs := none })
    else d

/-- Pulses that follow a REFIN. -/
def pulsesOn (d : Dev) (r : Nat) : List Nat := (List.range 8).filter (fun n => built d 4 n && pulseRef d n == some r)

/-- One second, and the ±1 ms in which a pulse is expected (R144), 2⁻¹⁶ ns. -/
def inSecond : Int := 65536 * 1000000000
def inSlack : Int := 65536 * 1000000

/-- A pulse of a reference gives a measurement point: the edge, delayed by REFn_CDLY, marks the start of the TAI second nearest to TS-O there (R144, R147). -/
def pulsePoint (d : Dev) (r sub : Nat) : Dev :=
  let (cd, d1) := freeDiv d ((sext 32 (ef d (refKey REF_CDLY r)).toNat) * 65536) 1000
  let mark : Int := (stampOf d.tsc.o : Int) + sub + cd
  measurePoint d1 r (-((sub : Int) + cd)) (((mark + inSecond / 2) / inSecond * inSecond : Int) : Rat)

/-- An edge of the selected polarity at a pulse reference (R144, R199). While the reference is present, one outside its window is not taken: the pulse expected is missing when the window closes. The trains take the edge; while the reference is lost they keep to their projected edges. -/
def pulseInput (d : Dev) (r : Nat) (falling : Bool) (sub : Nat) : Dev :=
  if kindOf d r != 2 || falling != efb d (refKey REF_CFG r) 8 then d
  else
    let m := refOf d r
    let now : Int := (d.t.toNat * 65536 + sub : Nat)
    let inside := m.lastPulse.any (fun l => decide ((now - l - inSecond).natAbs ≤ inSlack.natAbs))
    if m.present && !inside then d
    else
      let d1 := pulsePoint (updRef d r fun m => { m with lastPulse := some now, inWindow := inside, missed := 0 }) r sub
      if m.present then
        (pulsesOn d r).foldl (fun d n => updPulse d n fun p => { p with
          inEdge := some now
          inPeriod := match m.lastPulse with
            | some l => if m.missed == 0 then some (now - l) else p.inPeriod
            | none => p.inPeriod }) d1
      else d1

def execPulseInputEdge (ref : Nat) (falling : Bool) (sub : Nat) (s : State) : Host.Outcome State Fault Refusal :=
  act s fun d => pulseInput d ref falling sub

/-- A train goes on from the projected edge (R199). -/
def projectEdge (d : Dev) (n : Nat) : Dev :=
  updPulse d n fun p => { p with inEdge := match p.inEdge, p.inPeriod with
    | some e, some t => some (e + t)
    | _, _ => p.inEdge }

/-- The TCLK at which the window of the pulse expected next closes (R144). -/
def pulseWindowEnd (d : Dev) (r : Nat) : Option Nat :=
  (refOf d r).lastPulse.map (fun l => ceilDiv (l + inSecond + inSlack).toNat 65536)

/-- An expected input pulse is missing: each train takes the projected edge and counts it; two missing in a row lose the reference (R199, Table 7.3). -/
def missingPulse (d : Dev) (r : Nat) : Dev :=
  if kindOf d r != 2 then d
  else
    let d1 := (pulsesOn d r).foldl (fun d n => countUp (projectEdge d n) (plKey PL_EVT n) 15 0 1) d
    let d2 := updRef d1 r (fun m => { m with missed := m.missed + 1, inWindow := false, lastPulse := m.lastPulse.map (· + inSecond) })
    if 2 ≤ (refOf d2 r).missed then refLoss d2 r 1 else d2

/-! ### Grids (R201 to R204) -/

/-- Nominal period of a grid: the frame of video, the sample or cycle otherwise, s. -/
def gridNominal (d : Dev) (g : Nat) : Rat :=
  ((ef d (grKey GR_PNUM g)).toNat : Rat) / ((max 1 (ef d (grKey GR_PDEN g)).toNat : Nat) : Rat)

def gridLpf (d : Dev) (g : Nat) : Nat := max 1 (eff d (grKey GR_CFG g) 15 0)

/-- Line period of a video grid, s. -/
def linePeriod (d : Dev) (g : Nat) : Rat := gridNominal d g / (gridLpf d g : Rat)

def isVideo (d : Dev) (g : Nat) : Bool := pitchFunc d 5 g == 1
def isAudioGrid (d : Dev) (g : Nat) : Bool := pitchFunc d 5 g == 2

/-- GRn_STAT.INVAL (R201). -/
def gridInvalid (d : Dev) (g : Nat) : Bool := isVideo d g && (linePeriod d g < 1 / 1000000 || 10 < linePeriod d g)

/-- Period in effect, 2⁻¹⁶ ns: the line of a video grid, else the measured interval or the nominal period (R202). -/
def gridPer (d : Dev) (g : Nat) : Nat :=
  if isVideo d g then (ratFloor (linePeriod d g * 65536000000000)).toNat
  else if (gridOf d g).per == 0 then (ratFloor (gridNominal d g * 65536000000000)).toNat
  else (gridOf d g).per

/-- Count of the latest line start at or before a value of TS-O in 2⁻⁴⁸ ns. -/
def lineIndex (d : Dev) (g : Nat) (v : Nat) : Int :=
  if linePeriod d g == 0 then 0 else ratFloor ((v : Rat) / (nsUnit : Rat) / (linePeriod d g * 1000000000))

/-- Instant of a line, 2⁻¹⁶ ns. -/
def lineInstant (d : Dev) (g : Nat) (c : Int) : Int := ratFloor ((c : Rat) * linePeriod d g * 65536000000000)

/-- The words of a trigger output that decide when it fires. -/
def trigWords (d : Dev) (n : Nat) : List Word := [TR_CFG, TR_EVERY, TR_PHASE, TR_OFS_LO, TR_OFS_LO + 4].map (fun k => ef d (grKey k n))

/-- The grid a trigger names. -/
def trigGrid (d : Dev) (n : Nat) : Option Nat := (linkOf d 6 n 6).map (·.arg)

/-- Triggers of a grid whose fields have changed count from the instants that lie ahead (R203, R206). `old`: the state before. -/
def trigsRetime (old d : Dev) (g : Nat) : Dev :=
  (List.range 16).foldl (fun d n =>
    if trigGrid d n == some g && trigWords old n != trigWords d n then updTrig d n (fun t => { t with lastC := none }) else d) d

/-- A video grid's lines are numbered anew where its fields have changed: those up to now are passed (R201, R203). `old`: the state before. -/
def gridRetime (old d : Dev) (g : Nat) : Dev :=
  if isVideo d g && linePeriod old g != linePeriod d g then updGrid d g (fun x => { x with passed := some (lineIndex d g d.tsc.o) })
  else d

/-- A video grid runs. -/
def videoRuns (d : Dev) (g : Nat) : Bool := built d 5 g && (gridOf d g).run && isVideo d g && !gridInvalid d g

/-- Count of the boundary a video grid produces next: that after the last, or the latest one where several have passed (R201, R204). -/
def nextLine (d : Dev) (g : Nat) : Int :=
  match (gridOf d g).passed with
  | some p => max (lineIndex d g d.tsc.o) (p + 1)
  | none => lineIndex d g d.tsc.o

/-- A period boundary of a grid: what is staged for it and for its triggers takes effect (R203). -/
def gridTakes (d : Dev) (g period : Nat) : Dev :=
  let e := takeBoundary d (.gridPeriod g) period
  trigsRetime d (gridRetime d e g) g

/-- A video grid produces the next line start; at a frame start, and at the first boundary after a step that passed one over, the staged values take effect (R201, R203, R211). -/
def gridBoundary (d : Dev) (g : Nat) : Dev :=
  if !videoRuns d g then d
  else
    let c := nextLine d g
    let due := (gridOf d g).frameDue || c % (gridLpf d g : Int) == 0
    let d1 := updGrid d g fun x => { x with
      cnt := BitVec.ofInt 64 c, passed := some c, started := true, bnd := lineInstant d g c, per := gridPer d g,
      lastFly := false, frameDue := false }
    if due then gridTakes d1 g ((ratFloor (gridNominal d g * 1000000000)).toNat) else d1

/-- The count of an audio boundary: its instant in s since the epoch × PDEN / PNUM, to nearest (R202). -/
def audioCount (d : Dev) (g : Nat) (instant : Int) : Int :=
  ratFloor ((instant : Rat) / 65536000000000 / gridNominal d g + 1 / 2)

/-- An edge of a measured grid becomes a boundary at `i`, 2⁻¹⁶ ns; `replaces`: it takes the place of the last flywheel boundary (R202). -/
def acceptEdge (d : Dev) (g : Nat) (i : Int) (replaces : Bool) : Dev :=
  let x := gridOf d g
  let next : Int := if !x.started then 0 else if replaces then x.cnt.toInt else x.cnt.toInt + 1
  let c := if isAudioGrid d g then audioCount d g i else next
  let realign := isAudioGrid d g && x.started && c != next
  let per := if !x.started then gridPer d g else if replaces then (i - x.bnd + gridPer d g).toNat else (i - x.bnd).toNat
  let d1 := updGrid d g fun x => { x with
    cnt := BitVec.ofInt 64 c, started := true, bnd := i, per := per, lastFly := false, fly := false, lost := false }
  let d2 := if realign then countUp d1 (grKey GR_EVT g) 15 0 1 else d1
  if replaces then d2 else gridTakes d2 g (per / 65536)

/-- DIV of an audio grid (R202). -/
def gridDiv (d : Dev) (g : Nat) : Nat := if isAudioGrid d g then max 1 (eff d (grKey GR_DIV g) 23 0) else 1

/-- An interval lies within MTOL of another, 2⁻¹⁶ ns. -/
def withinMtol (d : Dev) (g : Nat) (off per : Int) : Bool := off.natAbs * 1000000 ≤ eff d (grKey GR_CFG g) 31 16 * per.natAbs

/-- An edge of a measured grid's source: for an audio grid every DIV-th edge of the probe output (R202). It is taken within MTOL of one period after the last boundary; after a flywheel boundary also within MTOL of that boundary itself, which it then replaces (log 13). -/
def gridEdge (d : Dev) (g sub : Nat) : Dev :=
  let x := gridOf d g
  if !built d 5 g || !x.run || isVideo d g then d
  else if x.divN + 1 < gridDiv d g then updGrid d g (fun x => { x with divN := x.divN + 1 })
  else
    let d0 := updGrid d g (fun x => { x with divN := 0 })
    let i : Int := stampOf d.tsc.o + sub
    let per : Int := gridPer d g
    if !x.started || withinMtol d g (i - x.bnd - per) per then acceptEdge d0 g i false
    else if x.lastFly && withinMtol d g (i - x.bnd) per then acceptEdge d0 g i true
    else countUp d0 (grKey GR_EVT g) 31 16 1

def execGridEdge (g sub : Nat) (s : State) : Host.Outcome State Fault Refusal := act s fun d => gridEdge d g sub

/-- No edge within 1.5 periods: a flywheel boundary (R202). -/
def gridFlywheel (d : Dev) (g : Nat) : Dev :=
  let x := gridOf d g
  if !built d 5 g || !x.run || isVideo d g || !x.started then d
  else
    let per := gridPer d g
    let d1 := updGrid d g fun x => { x with
      cnt := x.cnt + 1, bnd := x.bnd + per, per := per, lastFly := true, fly := true }
    let d2 := if x.fly then d1 else logC d1 srcGridFly g 0
    gridTakes d2 g (per / 65536)

/-- The value of TS-O, ns, at which 1.5 periods have passed since the last boundary of a measured grid (R202). -/
def flywheelAt (d : Dev) (g : Nat) : Rat := ((gridOf d g).bnd : Rat) / 65536 + (gridPer d g : Rat) * 3 / 131072

/-- A step of TS-O from `v0` acts on a grid (R204). -/
def gridStep (d : Dev) (g : Nat) (v0 : Nat) : Dev :=
  if !built d 5 g || !(gridOf d g).run then d
  else if isVideo d g then
    if gridInvalid d g then d
    else
      let from_ := match (gridOf d g).passed with
        | some p => max p (lineIndex d g v0)
        | none => lineIndex d g v0
      let upTo := lineIndex d g d.tsc.o
      if v0 < d.tsc.o && from_ < upTo then
        let lpf : Int := gridLpf d g
        statSet (countUp (updGrid d g (fun x => { x with
          passed := some upTo, frameDue := x.frameDue || decide (from_ / lpf < upTo / lpf) })) (grKey GR_SKIP g) 31 0 (upTo - from_).toNat) baseOut 16
      else d
  else updGrid d g (fun x => { x with bnd := x.bnd + ((stampOf d.tsc.o : Int) - stampOf v0) })

/-! ### Triggers (R205 upTo R207) -/

/-- OFFSET in ps, limited to ±10 s. -/
def trigOffset (d : Dev) (n : Nat) : Int := max (-10000000000000) (min 10000000000000 (efPairS d (grKey TR_OFS_LO n)))

/-- The instant for a count, from the latest boundary of the grid, 2⁻¹⁶ ns (R205). -/
def trigInstantFor (d : Dev) (n g : Nat) (count : Int) : Rat :=
  let x := gridOf d g
  let ofs : Rat := (trigOffset d n : Rat) * 65536 / 1000
  if isVideo d g then (count : Rat) * linePeriod d g * 65536000000000 + ofs
  else (x.bnd : Rat) + ((count - x.cnt.toInt : Int) : Rat) * (gridPer d g : Rat) + ofs

/-- A trigger's pin goes to its active level (R200, R207). -/
def trigPin (d : Dev) (n : Nat) (ps : Int) : Dev :=
  let d1 := if (trigOf d n).active then d else emit d (.pin (pinTrig n) (!efb d (grKey TR_CFG n) 0) ps)
  updTrig d1 n fun t => { t with active := true, endPs := some (ps + (1000 * max 8 (ef d (grKey TR_WIDTH n)).toNat : Nat)) }

/-- The level of a trigger output (R200). -/
def trigLevel (d : Dev) (n : Nat) : Bool := (trigOf d n).active != efb d (grKey TR_CFG n) 0

def trigPeriodic (d : Dev) (n : Nat) : Bool := efb d (grKey TR_CFG n) 1

/-- EVERY and PHASE in effect (R206). -/
def trigEvery (d : Dev) (n : Nat) : Nat := max 1 (ef d (grKey TR_EVERY n)).toNat
def trigPhase (d : Dev) (n : Nat) : Nat := (ef d (grKey TR_PHASE n)).toNat % trigEvery d n

/-- The greatest count c ≤ x with c mod EVERY = PHASE. -/
def hitBelow (d : Dev) (n : Nat) (x : Int) : Int := (x - trigPhase d n) / (trigEvery d n : Int) * (trigEvery d n : Int) + trigPhase d n

/-- The count, not necessarily whole, whose instant is TS-O's present value. -/
def countNow (d : Dev) (n g : Nat) : Rat :=
  let per : Rat := if isVideo d g then linePeriod d g * 65536000000000 else (gridPer d g : Rat)
  if per == 0 then 0 else (scaleNs d 0 * 65536 - trigInstantFor d n g 0) / per

/-- The count a trigger output fires at next (R206): in periodic mode that after the last one, or the latest where several have passed; the first lies at or after now. In one-shot mode the count armed. -/
def trigNext (d : Dev) (n g : Nat) : Option Int :=
  if trigPeriodic d n then
    match (trigOf d n).lastC with
    | some l => some (max (hitBelow d n l + trigEvery d n) (hitBelow d n (ratFloor (countNow d n g))))
    | none => some (hitBelow d n (ratCeil (countNow d n g) - 1) + trigEvery d n)
  else if (trigOf d n).armed then some (trigOf d n).count.toInt
  else none

/-- May a trigger fire: an output whose grid runs, is valid and has produced a boundary (R205). -/
def trigMayFire (d : Dev) (n g : Nat) : Bool :=
  pitchFunc d 6 n == 1 && (gridOf d g).run && !gridInvalid d g && (gridOf d g).started

/-- The instant of a trigger's next count, ns of TS-O, from the latest boundary of its grid (R205). -/
def trigDue (d : Dev) (n : Nat) : Option (Int × Rat) :=
  match trigGrid d n with
  | some g => if trigMayFire d n g then (trigNext d n g).map (fun c => (c, trigInstantFor d n g c / 65536)) else none
  | none => none

/-- A trigger falls due for a count at its instant, ns of TS-O (R205, R206): a one-shot is armed no longer. -/
def triggerInstant (d : Dev) (n : Nat) (c : Int) (q : Rat) : Dev :=
  updTrig (trigPin d n (edgePs d 0 q)) n (fun t => { t with
    armed := false, lastC := if trigPeriodic d n then some c else t.lastC })

/-- Counts that a periodic trigger fires at, in (a, b]. -/
def periodicHits (every phase : Nat) (a b : Int) : Nat :=
  let f := fun (x : Int) => (x - phase) / (every : Int)
  (f b - f a).toNat

/-- Instants that a positive step of TS-O passes over: the pin fires once on the Bell TCLK; each is counted, but for those that fired before a negative step (R41, R207, R211). Only a video grid's instants lie in the scale; those of a measured grid move with it (R204). -/
def trigSkips (d : Dev) (n : Nat) (v0 : Nat) : Dev :=
  match trigGrid d n with
  | some g =>
    if !trigMayFire d n g || !isVideo d g || d.tsc.o ≤ v0 then d
    else
      let ofs : Rat := (trigOffset d n : Rat) / 1000
      let at_ := fun (v : Nat) => ratFloor (((v : Rat) / (nsUnit : Rat) - ofs) / (linePeriod d g * 1000000000))
      let a := max (at_ v0) ((trigOf d n).lastC.getD (at_ v0))
      let b := at_ d.tsc.o
      let shot := (trigOf d n).count.toInt
      let hits :=
        if trigPeriodic d n then periodicHits (trigEvery d n) (trigPhase d n) a b
        else if (trigOf d n).armed && at_ v0 < shot && shot ≤ b then 1 else 0
      if hits == 0 then d
      else statSet (countUp (updTrig (trigPin d n (d.t.toNat * 1000 : Nat)) n (fun t => { t with armed := false, lastC := some b }))
        (grKey TR_EVT n) 31 16 hits) baseOut 16
  | none => d

/-- A write of TRn_CNT_HI arms the count held (R206), or misses. -/
def trigArm (d : Dev) (n : Nat) (val : Word) : Dev :=
  let d1 := setReg d (grKey TR_CNT_HI n) val
  let c : BitVec 64 := BitVec.ofNat 64 (rgPair d1 (grKey TR_CNT_LO n))
  match trigGrid d1 n with
  | some g =>
    let x := gridOf d1 g
    let started := x.started || isVideo d1 g
    let late := started && trigInstantFor d1 n g c.toInt < ((stampOf d1.tsc.o + 2000 * 65536 : Nat) : Rat)
    if pitchFunc d1 6 n != 1 || trigPeriodic d1 n then d1
    else if late then
      statSet (countUp (updTrig d1 n (fun t => { t with armed := false })) (grKey TR_EVT n) 15 0 1) baseOut 17
    else updTrig d1 n (fun t => { t with armed := true, count := c })
  | none => d1

def execTrnCntHiWrite (req : Requester) (n : Nat) (val : Word) (s : State) : Host.Outcome State Fault Refusal :=
  act s fun d => if 15 < n then d else withWrite d req (grKey TR_CNT_HI n) fun d => trigArm d n val

/-! ### Captures (R208, R209) -/

/-- A capture record's 32 bytes (Table 9.1). -/
def capBytes (n : Nat) (r : CapRec) : List Byte :=
  leBytes 8 (r.v / (65536 * 1000000000)) ++ leBytes 4 (r.v / 65536 % 1000000000) ++ leBytes 4 (r.v % 65536)
    ++ leBytes 8 r.gcount.toNat ++ leBytes 4 r.gphase ++ leBytes 1 n ++ leBytes 1 r.edge
    ++ leBytes 2 (1 + 2 * b2n r.fly + 4 * b2n r.lostBefore)

/-- The edge of a polarity is selected by CEDGE. -/
def edgeWanted (d : Dev) (n : Nat) (falling : Bool) : Bool :=
  match eff d (grKey TR_CFG n) 5 4 with
  | 0 => !falling
  | 1 => falling
  | _ => true

/-- A capture edge or record is lost (R208). -/
def capLost (d : Dev) (n : Nat) : Dev := statSet (countUp d (grKey TR_EVT n) 31 16 1) baseOut 19

/-- Count and instant of the latest boundary of a capture's grid at or before a value of TS-O, 2⁻¹⁶ ns (R209). -/
def latestBoundary (d : Dev) (n : Nat) (o : Int) : Int × Int :=
  match trigGrid d n with
  | some g =>
    let x := gridOf d g
    if !x.started then (x.cnt.toInt, o)
    else if isVideo d g then
      let c := min (lineIndex d g (o.toNat * 2 ^ 32)) ((x.passed).getD 0)
      (c, lineInstant d g c)
    else if x.bnd ≤ o then (x.cnt.toInt, x.bnd) else (x.cnt.toInt - 1, x.bnd - gridPer d g)
  | none => (0, o)

/-- An edge on a capture pin (R208). `sub`: the part of a TCLK, 2⁻¹⁶ ns. -/
def captureEdge (d : Dev) (n : Nat) (falling : Bool) (sub : Nat) : Dev :=
  if pitchFunc d 6 n != 2 || !(inService d || d.gen.mode == .factory) || !edgeWanted d n falling then d
  else
    let now : Int := d.t.toNat * 65536 + sub
    let close := match (trigOf d n).lastEdge with
      | some l => decide (now - l < 8 * 65536)
      | none => false
    if close then capLost d n
    else
      let g := (trigGrid d n).map (gridOf d)
      let o : Int := (stampOf d.tsc.o : Int) + sub - tapOf d (6 + n)
      let (c, base) := latestBoundary d n o
      let r : CapRec := {
        v := ((stampOf (scaleVal d (stampScale d 6 n)) : Int) + sub - tapOf d (6 + n)).toNat
        gcount := BitVec.ofInt 64 c
        gphase := satU 32 (((o - base) / 65536).toNat)
        edge := b2n falling
        fly := (g.map (·.fly)).getD false
        lostBefore := (trigOf d n).lostBefore }
      let d1 := updTrig d n (fun t => { t with lastEdge := some now })
      let full := 16 ≤ (trigOf d1 n).fifo.length
      let d2 := if full then updTrig (capLost d1 n) n (fun t => { t with lostBefore := true })
        else updTrig d1 n (fun t => { t with fifo := t.fifo ++ [r], lostBefore := false })
      if efb d2 (grKey TR_CFG n) 6 && rgb d2 OUT_CAPRING 31 then
        let (d3, ok) := deliver d2 (rgf d2 OUT_CAPRING 5 0) 3 (capBytes n r)
        if ok then d3 else countUp d3 OUT_CAPDROP 31 0 1
      else d2

def execCaptureEdge (n : Nat) (falling : Bool) (sub : Nat) (s : State) : Host.Outcome State Fault Refusal :=
  act s fun d => captureEdge d n falling sub

/-- A read of TRn_CAP0 pops the oldest record into the requester's words (R209). -/
def capPop (d : Dev) (r : Requester) (n : Nat) : Dev :=
  match (trigOf d n).fifo with
  | x :: rest =>
    let ws := leWords (capBytes n x)
    answer (holdFor (updTrig d n (fun t => { t with fifo := rest })) r (grKey TR_CAP n) ws) (ws.take 1)
  | [] => answer (holdFor d r (grKey TR_CAP n) (List.replicate 8 0)) [0]

def execTrnCap0Read (req : Requester) (n : Nat) (s : State) : Host.Outcome State Fault Refusal :=
  act s fun d => if 15 < n then d else withRead d req (grKey TR_CAP n) fun d => capPop d req n

/-! ### Start (R210) -/

/-- Pulses, grids and triggers start at the first Bell in service at which their scale is set. -/
def startOuts (d : Dev) : Dev :=
  if !(inService d || d.gen.mode == .factory) || heldInReset d 10 0 then d
  else
    let d1 := (List.range 8).foldl (fun d n =>
      if built d 4 n && !(pulseOf d n).run && scaleSet d (pulseScale d n) then
        pulseRestart (updPulse d n (fun p => { p with run := true })) n
      else d) d
    (List.range 8).foldl (fun d g =>
      if built d 5 g && !(gridOf d g).run && scaleSet d 0 then
        updGrid d g (fun x => { x with run := true, passed := if isVideo d g then some (lineIndex d g d.tsc.o - 1) else x.passed })
      else d) d1

end Sys2Proof.Machine
end

