-- ==== Sys2Proof/Machine/Tdc.lean ====
section
/-! DEFINITION. The TDC: edges, intervals, timestamps, reciprocal gates, OSC_WARM and calibration (R212 to R228, rows TDC_START_EDGE to TDC_RES0_READ and OSCRDY_FALL). -/
namespace Sys2Proof.Machine
open Sys2Proof

def inKey (k n : Nat) : Nat := k + n * 0x10

/-- Mode: 0 interval, 1 timestamp, 2 reciprocal; 3 acts as 0 (R215). -/
def tdcMode (d : Dev) : Nat := let m := rgf d (baseTdc + 4) 2 1; if m == 3 then 0 else m

/-- The block runs only in ACTIVE and STANDBY, with EN = 1 (R215). -/
def tdcRuns (d : Dev) : Bool := inService d && enOf d baseTdc && !heldInReset d 11 0

/-- Window or gate, ms (R216, Table 10.4). -/
def tdcWindow (d : Dev) : Nat := max 1 (min 10000 (rgf d TDC_WINDOW 13 0))

/-- The F of RATE = 1: the INC offset of the scale TSC_OUTSEL.CUR selects; 0 with RATE = 0 (R217). -/
def tdcF (d : Dev) : Int := if rgb d (baseTdc + 4) 7 then (scaleOf d d.tsc.cur).f else 0

/-! ### Edges (R212, R213) -/

/-- Hits in bin j of a table. -/
def tableBin (t : CalResult) (j : Nat) : Nat := ((t.bins.find? (·.1 == j)).map (·.2)).getD t.fill

/-- Fine time of code k in 1/(2·1,048,576) ns (R213). -/
def fineTime (t : CalResult) (k : Nat) : Nat :=
  2 * (List.range k).foldl (fun a j => a + tableBin t j) 0 + tableBin t k

def tdcTable (d : Dev) (i : Nat) : CalResult := d.tdc.tables.getD i ⟨i, 0, []⟩

/-- Coarse and fine time together, 2⁻²¹ ns. -/
def edgeTime (e : TdcEdge) : Nat := e.coarse * 2 ^ 21 + e.fine2

/-- An interval in 2⁻¹⁶ ns: the exact difference, scaled at F, rounded once to the nearest, ties to even (R213, R217). -/
def edgeDiff (f : Int) (a b : TdcEdge) : Int :=
  ratNearest (((edgeTime b : Int) - edgeTime a : Int) * ((2 : Rat) ^ 48 + f) / (2 : Rat) ^ 53)

/-- The polarity of an edge is one that SLOPE selects (R212). -/
def slopeWants (d : Dev) (n : Nat) (falling : Bool) : Bool :=
  match eff d (inKey TDC_CFG n) 29 28 with
  | 0 => !falling
  | 1 => falling
  | _ => true

/-- An input takes edges: enabled and not retired. -/
def inputTakes (d : Dev) (n : Nat) : Bool := n < 8 && efb d (inKey TDC_CFG n) 31 && d.tdc.intp.getD n 15 < 9

/-- Count an edge or a record that an input lost. -/
def tdcLost (d : Dev) (n : Nat) : Dev := countUp d (inKey TDC_EVT n) 31 16 1

/-- THR of an input, mV, limited (R212). -/
def thrOf (d : Dev) (n : Nat) : Int := max (-1200) (min 2500 (sext 13 (eff d (inKey TDC_CFG n) 12 0)))

def fallingIn (e : TdcIn) : Bool := e.after < e.before

/-- An edge passes the comparator of an enabled input and its SLOPE (R212). -/
def edgePasses (d : Dev) (n : Nat) (e : TdcIn) : Bool :=
  tdcRuns d && inputTakes d n && slopeWants d n (fallingIn e) && min e.before e.after < thrOf d n && thrOf d n ≤ max e.before e.after

/-- An edge on an input: none when the input takes it not, or when it falls into the dead time, in which case it is counted (R212). The coarse counter counts nanoseconds of the oscillator, as the free counter does (R213, R218). -/
def takeEdge (d : Dev) (n : Nat) (e : TdcIn) : Dev × Option TdcEdge :=
  if edgePasses d n e then
    let i := d.tdc.intp.getD n 15
    let x : TdcEdge := ⟨d.t.toNat, fineTime (tdcTable d i) (e.code % 2048), fallingIn e, tableStale d i, d.bellCnt.toNat % 65536⟩
    let close := match d.tdc.lastEdge.getD n none with
      | some l => decide (edgeTime x < l + 4 * 2 ^ 21)
      | none => false
    if close then (tdcLost d n, none)
    else ({ d with tdc := { d.tdc with lastEdge := upd d.tdc.lastEdge n (fun _ => some (edgeTime x)) } }, some x)
  else (d, none)

/-! ### Records (R227) -/

/-- A record's 32 bytes (Table 10.1). -/
def tdcBytes (r : TdcRec) : List Byte :=
  leBytes 8 r.val0.toNat ++ leBytes 4 r.val1 ++ leBytes 4 r.val2 ++ leBytes 8 r.seq.toNat ++ leBytes 2 r.bell16
    ++ leBytes 1 r.input ++ leBytes 1 r.edge ++ leBytes 2 r.flags ++ zeros 2

/-- RFLAGS but for LOSTBEFORE. -/
def rflags (cold stale fin full restarted : Bool) : Nat :=
  1 + 2 * b2n cold + 4 * b2n stale + 16 * b2n fin + 32 * b2n full + 64 * b2n restarted

/-- Write a record: into the FIFO, or lost there; a copy to the ring (R227). -/
def tdcWrite (d : Dev) (r0 : TdcRec) : Dev :=
  let r := { r0 with flags := r0.flags + 8 * b2n d.tdc.lostBefore }
  let d1 :=
    if 128 ≤ d.tdc.fifo.length then
      statSet (tdcLost { d with tdc := { d.tdc with lostBefore := true } } r.input) baseTdc 18
    else countUp { d with tdc := { d.tdc with fifo := d.tdc.fifo ++ [r], lostBefore := false } } (inKey TDC_EVT r.input) 15 0 1
  if rgb d1 TDC_RING 31 then
    let (d2, ok) := deliver d1 (rgf d1 TDC_RING 5 0) 4 (tdcBytes r)
    if ok then d2 else countUp d2 TDC_DROP 31 0 1
  else d1

/-! ### Interval mode (R216) -/

/-- Close the open measurement with its END record; the 64th stop's table counts for STALE where it closed it. -/
def tdcClose (d : Dev) (full restarted lastStale : Bool) : Dev :=
  match d.tdc.meas with
  | some m =>
    tdcWrite { d with tdc := { d.tdc with meas := none } }
      ⟨0, m.stops, 0, d.tdc.nextSeq - 1, m.start.bell16, 0, b2n m.start.falling,
       rflags m.coldSeen (m.start.stale || lastStale) true full restarted⟩
  | none => d

def tdcOpen (d : Dev) (x : TdcEdge) : Dev :=
  { d with tdc := { d.tdc with meas := some ⟨x, 0, tdcF d, !d.tdc.warm⟩, nextSeq := d.tdc.nextSeq + 1 } }

/-- TDC_WINDOW has elapsed in oscillator time since the start. -/
def windowOver (d : Dev) (m : TdcMeas) (e : TdcEdge) : Bool := edgeTime m.start + tdcWindow d * ms * 2 ^ 21 ≤ edgeTime e

/-- An accepted edge on TDCIN0 (R216, Table 10.2): an edge at or after the end of the window finds the measurement closed. -/
def tdcStart (d : Dev) (x : TdcEdge) : Dev :=
  match d.tdc.meas with
  | none => tdcOpen d x
  | some m =>
    if windowOver d m x then tdcOpen (tdcClose d false false false) x
    else if rgb d (baseTdc + 4) 3 then tdcOpen (tdcClose d false true false) x
    else tdcLost d 0

/-- An accepted edge on a stop input (R216). The 64th stop at the window's end still closes it (Table 10.2). -/
def tdcStop (d : Dev) (n : Nat) (x : TdcEdge) : Dev :=
  match d.tdc.meas with
  | none => d
  | some m =>
    if edgeTime x < edgeTime m.start then d
    else if windowOver d m x && !(m.stops == 63 && edgeTime x == edgeTime m.start + tdcWindow d * ms * 2 ^ 21) then
      tdcClose d false false false
    else
      let r : TdcRec := ⟨BitVec.ofInt 64 (edgeDiff m.fInc m.start x), m.stops, 0, d.tdc.nextSeq - 1, m.start.bell16, n,
        b2n x.falling, rflags m.coldSeen (m.start.stale || x.stale) false false false⟩
      let d1 := tdcWrite { d with tdc := { d.tdc with meas := some { m with stops := m.stops + 1 } } } r
      if m.stops == 63 then tdcClose d1 true false x.stale else d1

/-! ### Timestamp mode (R218) -/

def tdcScale (d : Dev) : Nat := let s := rgf d (baseTdc + 4) 6 5; if s == 3 then 0 else s

/-- Stamp an edge: the time-bus value at the preceding TCLK and the position after it; less the tap delay (R26). -/
def tdcStamp (d : Dev) (n : Nat) (x : TdcEdge) : Dev :=
  let v := ((stampOf (scaleVal d (tdcScale d)) : Int) + ratNearest ((x.fine2 : Rat) / 32) - tapOf d 22).toNat
  let seq := d.tdc.edgeSeq.getD n 0
  tdcWrite { d with tdc := { d.tdc with edgeSeq := upd d.tdc.edgeSeq n (· + 1) } }
    ⟨BitVec.ofNat 64 (v / (65536 * 1000000000)), v / 65536 % 1000000000, v % 65536, seq, x.bell16, n, b2n x.falling,
     rflags (!d.tdc.warm) x.stale false false false⟩

/-! ### Reciprocal mode (R219) -/

def tdcGateOf (d : Dev) (n : Nat) : TdcGate := d.tdc.gates.getD n {}

def putGate (d : Dev) (n : Nat) (g : TdcGate) : Dev := { d with tdc := { d.tdc with gates := upd d.tdc.gates n (fun _ => g) } }

/-- The record of a gate whose input had fewer than two edges; with no edge the spec gives BELL16 no value: a free one (log 2). -/
def emptyGate (d : Dev) (n : Nat) (g : TdcGate) : Dev :=
  let (b, d1) := match g.first with
    | some a => (a.bell16, d)
    | none => drawBelow d 65536
  tdcWrite d1 ⟨0, 0, 0, d1.tdc.gateNo, b, n, b2n (g.first.any (·.falling)),
    rflags (g.coldSeen || !d1.tdc.warm) (g.first.any (·.stale)) false false false⟩

/-- An accepted edge of an input is the second of a closed gate that waits for it, whose record it completes, and the first of the open gate (R219). -/
def gateEdge (d : Dev) (n : Nat) (x : TdcEdge) : Dev :=
  let c := d.tdc.edgeCnt.getD n 0
  let d1 := match d.tdc.gateWait.getD n none with
    | some (g, no) =>
      let e := { d with tdc := { d.tdc with gateWait := upd d.tdc.gateWait n (fun _ => none) } }
      match g.first with
      | some a =>
        tdcWrite e ⟨BitVec.ofInt 64 (edgeDiff g.fInc a x), c - g.count, 0, no, a.bell16, n, b2n a.falling,
          rflags (g.coldSeen || !d.tdc.warm) (a.stale || x.stale) false false false⟩
      | none => e
    | none => d
  if d1.tdc.gateOpen && (tdcGateOf d1 n).first.isNone then putGate d1 n ⟨some x, c, tdcF d1, !d1.tdc.warm⟩ else d1

/-- An edge in reciprocal mode: the edge counter counts it whether or not it is accepted (R219). -/
def countEdge (d : Dev) (n : Nat) (e : TdcIn) : Dev :=
  if edgePasses d n e then { d with tdc := { d.tdc with edgeCnt := upd d.tdc.edgeCnt n (· + 1) } } else d

/-- An input's part of a gate that closes: a gate without an edge has its record at once, one with an edge waits for its second. While an older gate still waits, none of a later gate's edges has come. -/
def closeInput (d : Dev) (n : Nat) : Dev :=
  let g := tdcGateOf d n
  match g.first with
  | none => putGate (emptyGate d n g) n {}
  | some _ => putGate { d with tdc := { d.tdc with gateWait := upd d.tdc.gateWait n (fun _ => some (g, d.tdc.gateNo)) } } n {}

/-- The free counter at which the open gate closes (R219). -/
def gateDue (d : Dev) : Option Nat :=
  if tdcRuns d && tdcMode d == 2 && d.tdc.gateOpen then some (d.tdc.gateT.toNat + tdcWindow d * ms) else none

/-- A gate closes, and the next one opens (R219). -/
def gateClose (d : Dev) : Dev :=
  if tdcRuns d && tdcMode d == 2 && d.tdc.gateOpen then
    let d1 := ((List.range 8).filter (inputTakes d)).foldl closeInput d
    { d1 with tdc := { d1.tdc with gateNo := d1.tdc.gateNo + 1, gateT := d1.t } }
  else d

/-- The first gate opens at the first Bell after CTRL.EN is set (R219). -/
def gateBell (d : Dev) : Dev :=
  if tdcRuns d && tdcMode d == 2 && !d.tdc.gateOpen then
    { d with tdc := { d.tdc with gateOpen := true, gateT := d.t, gates := List.replicate 8 {}, gateWait := List.replicate 8 none } }
  else d

/-- CTRL.EN is cleared (Table 10.2): the END record is written at once, and an open gate is given up. -/
def tdcDisable (d : Dev) : Dev :=
  let d1 := tdcClose d false false false
  { d1 with tdc := { d1.tdc with gateOpen := false, gates := List.replicate 8 {}, gateWait := List.replicate 8 none } }

/-! ### The edge commands -/

/-- An edge on an input, handled in the mode selected. -/
def tdcEdge (d : Dev) (n : Nat) (e : TdcIn) : Dev :=
  match takeEdge (if tdcMode d == 2 then countEdge d n e else d) n e with
  | (d1, none) => d1
  | (d1, some x) =>
    match tdcMode d1 with
    | 0 => if n == 0 then tdcStart d1 x else tdcStop d1 n x
    | 1 => tdcStamp d1 n x
    | _ => gateEdge d1 n x

def execTdcStartEdge (e : TdcIn) (s : State) : Host.Outcome State Fault Refusal := act s fun d => tdcEdge d 0 e

def execTdcStopEdge (input : Nat) (e : TdcIn) (s : State) : Host.Outcome State Fault Refusal :=
  act s fun d => if input == 0 then d else tdcEdge d input e

/-- The first coarse step at or after the end of the open measurement's window (R216). -/
def windowDue (d : Dev) : Option Nat := d.tdc.meas.map (fun m => m.start.coarse + tdcWindow d * ms + b2n (m.start.fine2 != 0))

def execTdcTimestampEdge (input : Nat) (e : TdcIn) (s : State) : Host.Outcome State Fault Refusal :=
  act s fun d => tdcEdge d input e

/-! ### OSC_WARM (R220, R221) -/

/-- What is open sees OSC_WARM at 0 (R221). -/
def coldNow (d : Dev) : Dev :=
  { d with tdc := { d.tdc with
      warm := false, warmMin := 0, rdyMin := 0,
      meas := d.tdc.meas.map (fun m => { m with coldSeen := true }),
      gates := d.tdc.gates.map (fun g => { g with coldSeen := g.coldSeen || g.first.isSome }) } }

/-- The reference whose drift counts: that of the stall of the scale TSC_OUTSEL.CUR gives (R220). -/
def driftRef (d : Dev) : Option Nat :=
  match steeringStall d (b2n d.tsc.cur) with
  | some n => if (selOf d n).curV then some (selOf d n).cur else none
  | none => none

/-- A Bell adds y_r to the minute's mean. -/
def driftBell (d : Dev) : Dev :=
  match driftRef d with
  | some r => { d with tdc := { d.tdc with minSum := d.tdc.minSum + (refOf d r).y, minN := d.tdc.minN + 1 } }
  | none => d

/-- One minute of the free counter, and the end of the minute that runs. -/
def minuteNs : Nat := 60000 * ms
def minuteDue (d : Dev) : Nat := (d.tdc.minT.toNat / minuteNs + 1) * minuteNs

/-- A minute of the free counter ends (R220): the oscillator is watched whatever CTRL.EN says, which decides on edges alone (R215). `rdy`: OSCRDY has been high through it. -/
def tdcMinute (d : Dev) (rdy : Bool) : Dev :=
  if heldInReset d 11 0 then d
  else
    let t := { d.tdc with minT := BitVec.ofNat 64 (d.t.toNat / minuteNs * minuteNs) }
    let mean : Option Rat := if t.minN == 0 then none else some ((t.minSum : Rat) / (t.minN : Rat))
    let t1 := { t with lastMean := mean, minSum := 0, minN := 0, rdyMin := if rdy then min 5 (t.rdyMin + 1) else 0 }
    if (driftRef d).isNone then { d with tdc := { t1 with warmMin := 0, warm := t1.warm || t1.rdyMin == 5 } }
    else match mean, t.lastMean with
      | some a, some b =>
        let dr := if a < b then b - a else a - b
        if dr * 1000000000 < (2 : Rat) ^ 48 then
          let k := min 5 (t1.warmMin + 1)
          { d with tdc := { t1 with warmMin := k, warm := t1.warm || k == 5 } }
        else
          let d1 := coldNow { d with tdc := t1 }
          { d1 with tdc := { d1.tdc with rdyMin := t1.rdyMin } }
      | _, _ => { d with tdc := { t1 with warmMin := 0 } }

/-- OSCRDY goes low (R220). -/
def execOscrdyFall (s : State) : Host.Outcome State Fault Refusal := act s fun d => coldNow d

/-! ### Calibration (R222 to R226) -/

/-- A table passes when every bin holds between 1 and 2,048 hits (R222). -/
def calPasses (c : CalResult) : Bool :=
  c.bins.all (fun b => 1 ≤ b.2 && b.2 ≤ 2048)
    && ((1 ≤ c.fill && c.fill ≤ 2048) || (List.range 2048).all (fun j => c.bins.any (·.1 == j)))

def installTable (d : Dev) (c : CalResult) : Dev :=
  { d with tdc := { d.tdc with
      tables := upd d.tdc.tables c.intp (fun _ => c), tableT := upd d.tdc.tableT c.intp (fun _ => some d.t) } }

/-- The next input to swap from n on: retired inputs are skipped (R224). -/
def nextSwap (d : Dev) (n : Nat) : Option Nat :=
  (List.range 8).find? (fun i => n ≤ i && d.tdc.intp.getD i 15 < 9)

/-- The calibration of a background round completes (R224, R226). -/
def calDone (d : Dev) (c : CalResult) : Dev :=
  if !d.tdc.calRun || c.intp != d.tdc.spare then d
  else if calPasses c then
    let d1 := installTable d c
    { d1 with tdc := { d1.tdc with calRun := false, swapReady := true, fails := 0 } }
  else
    let d1 := statSet (logC d srcTdcCalFail 8 c.intp) baseTdc 19
    let f := d1.tdc.fails + 1
    if 3 ≤ f then { d1 with tdc := { d1.tdc with calRun := false, fails := f, stopped := true, round := false } }
    else { d1 with tdc := { d1.tdc with calRun := false, fails := f } }

def execTdcCalibrationComplete (res : CalResult) (s : State) : Host.Outcome State Fault Refusal := act s fun d => calDone d res

/-- The Bell's part of a background round: swap a calibrated spare, calibrate a failed one again, or start a round (R224 to R226). -/
def calBell (d : Dev) : Dev :=
  let t := d.tdc
  if !tdcRuns d || t.stopped then d
  else if t.round then
    if t.swapReady then
      let old := t.intp.getD t.next 15
      let d1 := { d with tdc := { t with intp := upd t.intp t.next (fun _ => t.spare), spare := old, swapReady := false, fails := 0 } }
      match nextSwap d1 (t.next + 1) with
      | some n => { d1 with tdc := { d1.tdc with next := n, calRun := true } }
      | none => { d1 with tdc := { d1.tdc with next := 0, round := false } }
    else if t.calRun then d
    else { d with tdc := { t with calRun := true } }
  else if rgb d (baseTdc + 4) 4 && d.bellCnt.toNat % 600 == 0 then
    match nextSwap d 0 with
    | some n => { d with tdc := { t with round := true, next := n, calRun := true, fails := 0 } }
    | none => d
  else d

/-- The interpolator of each input after self-test: its own where it passed, else one of the pool, in order. -/
def assignIntps (passed : Nat → Bool) (keep : Nat) : List Nat → List Nat → List Nat
  | [], _ => []
  | i :: r, pool =>
    if keep ≤ i then 15 :: assignIntps passed keep r pool
    else if passed i then i :: assignIntps passed keep r pool
    else match pool with
      | p :: ps => p :: assignIntps passed keep r ps
      | [] => 15 :: assignIntps passed keep r []

/-- The calibrations of self-test (R223): every failure is logged; an input whose interpolator failed takes the spare, and the inputs left without one are retired from TDCIN7 downwards. -/
def tdcSelfTest (d : Dev) (res : List CalResult) : Dev :=
  let ok := fun i => match res.find? (·.intp == i) with
    | some c => calPasses c
    | none => false
  let d1 := (res.filter (fun c => c.intp < 9 && calPasses c)).foldl installTable d
  let bad := (List.range 9).filter (fun i => !ok i)
  let d2 := bad.foldl (fun d i => statSet (logC d srcTdcCalFail i i) baseTdc 19) d1
  let keep := min 8 (9 - bad.length)
  let pool := ((List.range 9).filter (fun i => keep ≤ i && ok i)).reverse
  let a := assignIntps ok keep (List.range 8) pool
  let free := (List.range 9).filter (fun i => !a.contains i)
  { d2 with tdc := { d2.tdc with
      tested := true, intp := a, spare := free.getLast?.getD 8,
      retired := (List.range 8).foldl (fun m i => m + b2n (a.getD i 15 == 15) * 2 ^ i) 0 } }

/-! ### Registers -/

/-- Seconds since an input's table was installed (Table 10.5). -/
def calAge (d : Dev) (n : Nat) : Nat :=
  match d.tdc.tableT.getD (d.tdc.intp.getD n 15) none with
  | some t => satU 32 ((d.t - t).toNat / 1000000000)
  | none => 0

/-- A read of TDC_RES0 pops the oldest record into the requester's words (R227). -/
def tdcPop (d : Dev) (r : Requester) : Dev :=
  match d.tdc.fifo with
  | x :: rest =>
    let ws := leWords (tdcBytes x)
    answer (holdFor { d with tdc := { d.tdc with fifo := rest } } r TDC_RES ws) (ws.take 1)
  | [] => answer (holdFor d r TDC_RES (List.replicate 8 0)) [0]

def execTdcRes0Read (req : Requester) (s : State) : Host.Outcome State Fault Refusal :=
  act s fun d => withRead d req TDC_RES fun d => tdcPop d req

end Sys2Proof.Machine
end

