-- ==== Sys2Proof/Machine/Gns.lean ====
section
/-! DEFINITION. The GNSS receiver: signals, channels, search bank, navigation data, aiding, notches, J/N (R229 to R247, R262 to R264; rows GCLK_RECOVERY to GN_JNCFG_LEARN but SOLUTION_EPOCH, and CHANNEL_LOCK_LOSS). -/
namespace Sys2Proof.Machine
open Sys2Proof

/-- The block runs in ACTIVE and STANDBY (R267). -/
def gnsRuns (d : Dev) : Bool := inService d && enOf d baseGns && !heldInReset d 12 0

def chAuto (d : Dev) : Bool := rgb d (baseGns + 4) 2

/-! ### Signals (Table 11.1) -/

def sigSys (sig : Nat) : Nat := [0, 0, 1, 1, 2, 2, 2, 3].getD sig 0
def sigBand (sig : Nat) : Nat := [0, 1, 0, 1, 0, 0, 1, 0].getD sig 0

/-- Carrier, Hz. -/
def sigHz (sig : Nat) (fch : Int) : Int :=
  match sig with
  | 1 | 3 | 6 => 1176450000
  | 4 => 1561098000
  | 7 => 1602000000 + 562500 * fch
  | _ => 1575420000

/-- Main-lobe half-width, Hz. -/
def sigHalf (sig : Nat) : Int := [1023000, 10230000, 2046000, 10230000, 2046000, 2046000, 10230000, 511000].getD sig 0

def bandKey (k b : Nat) : Nat := k + b * 0x20

/-- A band's samples are used: its pins are not ignored, and GCLK is within tolerance (R229, R230, R267). -/
def bandOn (d : Dev) (b : Nat) : Bool := gnsRuns d && rgb d (bandKey GN_BAND_CFG b) 31 && !d.gns.gclkF

/-- The value of a 4-bit sample code (R229). -/
def sampleVal (fmt code : Nat) : Int :=
  let c := code % 16
  match fmt with
  | 1 => if 8 ≤ c then -((c - 8 : Nat) : Int) else c
  | 2 => (c : Int) - 8
  | _ => if 8 ≤ c then (c : Int) - 16 else c

/-- The power of a band's samples, the squares summed. -/
def samplePower (fmt : Nat) (x : BandIn) : Nat :=
  let sq := fun (l : List Nat) => (l.zipIdx.map (fun e => e.1 * (sampleVal fmt e.2).natAbs ^ 2)).foldl (· + ·) 0
  sq x.codesI + sq x.codesQ

/-- Complex intermediate frequency of a signal, Hz (R232). -/
def sigIf (d : Dev) (sig : Nat) (fch : Int) : Int :=
  let b := sigBand sig
  let lo : Int := (rg d (bandKey GN_LO b)).toNat
  if rgb d (bandKey GN_BAND_CFG b) 30 then lo - sigHz sig fch else sigHz sig fch - lo

/-- Table 11.1 has the signal: GLONASS from k = −7 to +6. -/
def sigExists (sig : Nat) (fch : Int) : Bool := sig < 7 || (sig == 7 && -7 ≤ fch && fch ≤ 6)

def trackable (d : Dev) (sig : Nat) (fch : Int) : Bool :=
  sigExists sig fch && (sigIf d sig fch).natAbs + (sigHalf sig).toNat ≤ 40920000

def sigEnabled (d : Dev) (sig : Nat) : Bool := efb d GN_SIGEN sig

/-- A signal may be tracked: enabled, trackable, its band's samples used (R229, R232). -/
def mayTrack (d : Dev) (sig : Nat) (fch : Int) : Bool := sigEnabled d sig && trackable d sig fch && bandOn d (sigBand sig)

/-- GN_SIGSTAT: enabled signals that are not trackable; L1OF when any of its channels is not (R232). -/
def untracked (d : Dev) : Nat :=
  (List.range 8).foldl (fun m s =>
    let bad := if s == 7 then (List.range 14).any (fun k => !trackable d 7 ((k : Int) - 7)) else !trackable d s 0
    if sigEnabled d s && bad then m + 2 ^ s else m) 0

/-- Elevation mask, degrees. -/
def elMask (d : Dev) : Nat := min 90 (eff d GN_ELMASK 6 0)

/-- TAI seconds, as TS-O shows them. -/
def taiSec (d : Dev) : Nat := secOf d.tsc.o

def updCh (d : Dev) (c : Nat) (f : GnsChan → GnsChan) : Dev := { d with gns := { d.gns with chans := upd d.gns.chans c f } }
def chanOf (d : Dev) (c : Nat) : GnsChan := d.gns.chans.getD c {}

/-- The channel in TRACK on a signal of a satellite. -/
def trackOf (d : Dev) (sig sv : Nat) : Option Nat := d.gns.chans.findIdx? (fun c => c.st == .track && c.sig == sig && c.sv == sv)

/-- The signal has a pilot: VE to VL are formed on it; else on the data (R236, Table 11.1). -/
def hasPilot (sig : Nat) : Bool := !(sig == 0 || sig == 4 || sig == 7)

/-- E–L spacing in 1/16 chip: 1 to 8, 0 acting as 8; so, by inference, does what is above 8 (R236). -/
def chanSpc (d : Dev) (c : Nat) : Nat :=
  let n := eff d (CH_CFG + c * 0x40) 15 12
  if n == 0 then 8 else min 8 n

/-- Where the seven correlators of a channel stand, 1/32 chip from its prompt, and whether on the pilot: VE, E, P, L, VL, PD, N (R236). N is on the same component. -/
def corrAt (d : Dev) (c : Nat) : List (Int × Bool) :=
  let s : Int := chanSpc d c
  let p := hasPilot (chanOf d c).sig
  [(-2 * s, p), (-s, p), (0, p), (s, p), (2 * s, p), (0, false), (2048, p)]

/-! ### GCLK (R230) -/

/-- GCLK is within 10⁻⁶ of 81.84 MHz and has an edge in every microsecond. -/
def gclkGood (hz gap : Nat) : Bool := ((hz : Int) - 81840000000).natAbs * 1000000 ≤ 81840000000 && gap ≤ us

/-- The Bell's comparison of GCLK with OSC. -/
def gclkBell (d : Dev) (hz gap : Nat) : Dev :=
  if gclkGood hz gap then d else logC { d with gns := { d.gns with gclkF := true, gclkBadT := d.t } } srcGnssGclk 0 0

/-- GCLK has been within tolerance for 1 s. -/
def gclkRecovery (d : Dev) : Dev := { d with gns := { d.gns with gclkF := false } }

/-! ### The tags of the sample stream (R231) -/

/-- The part of a millisecond since the last boundary of 81,840 samples, with the phase of GCLK resolved to 10 ps. -/
def tagPart (e : EpochIn) : Rat := ((e.samples % 81840 : Nat) : Rat) / 81840 + ((e.phase / 10 : Nat) : Rat) / 100000000

/-- The tag of the last boundary: T and TS-O there, to 10 ps. -/
def tagBefore (d : Dev) (e : EpochIn) : GnsTag :=
  let back : Rat := tagPart e * 1000000000
  let r10 := fun (q : Rat) => ratFloor (q / 10 + 1 / 2) * 10
  ⟨e.samples / 81840 * 81840, r10 ((d.t.toNat * 1000 : Nat) - back),
    r10 ((d.tsc.o : Rat) * 1000 / (nsUnit : Rat) - back * (incOf d.tsc.oF : Rat) / (nsUnit : Rat))⟩

/-! ### TAI − UTC and weeks (R234, R235) -/

/-- A decoded value, from GPS (2) or Galileo (3), replaces any other. -/
def leapDecoded (d : Dev) (src : Nat) (v : Int) (next : Option (Nat × Option Int)) : Dev :=
  { d with gns := { d.gns with leapSrc := src, leap := v, leapNext := next } }

/-- A host value is used only while no decoded value exists. -/
def leapHost (d : Dev) (v : Int) (next : Option (Nat × Option Int)) : Dev :=
  if d.gns.leapSrc ≤ 1 then { d with gns := { d.gns with leapSrc := 1, leap := v, leapNext := next } } else d

/-- A scheduled change takes effect at its instant. -/
def leapChange (d : Dev) : Dev :=
  match d.gns.leapNext with
  | some (_, some v) => { d with gns := { d.gns with leap := v, leapNext := none } }
  | some (_, none) => { d with gns := { d.gns with leapSrc := 0, leapNext := none } }
  | none => d

/-- The TAI second of the scheduled change. -/
def leapDue (d : Dev) : Option Nat := d.gns.leapNext.map (·.1)

/-- TAI less a system's time, s: GPST and GST 19, BDT 33, GLONASST TAI − UTC less 3 h (R234). -/
def sysOffset (d : Dev) (sys : Nat) : Int :=
  match sys with
  | 2 => 33
  | 3 => d.gns.leap - 10800
  | _ => 19

/-- The TAI second, where it is known: by the selected scale once it is set, or by the last time aid (R239, R246). -/
def nowSec (d : Dev) : Option Nat :=
  if (scaleOf d d.tsc.cur).setDone then some (taiSec d)
  else d.gns.timeAid.map fun (_, s, _, t) => s + (d.t.toNat - t) / (1000 * ms)

/-- GLONASS may serve a solution: TAI − UTC is known, and no change to an unknown value lies within 10 s (R234, Table 11.11). -/
def glonassOk (d : Dev) : Bool :=
  d.gns.leapSrc != 0
    && (match d.gns.leapNext with
        | some (t, none) => decide (taiSec d + 10 < t)
        | _ => true)

/-- The GPS week a week field stands for: CNAV in full, Galileo's with its offset of 1,024, BeiDou's of 1,356, LNAV's 10 bits at or after the base (R235). -/
def weekOf (base sig w : Nat) : Nat :=
  match sigSys sig with
  | 1 => w + 1024
  | 2 => w + 1356
  | _ => if sig == 0 then base + (w % 1024 + 1024 - base % 1024) % 1024 else w

/-- A write of the NV store starts, where the hold-up check passes with an NV write's need of 2.4 mJ; else it waits for the next Bell and STAT.STORE_SKIP is set (R246). -/
def storeOr (d : Dev) (item : Nat) (f : Dev → Dev) : Dev :=
  if energyFor d 2400 then f { d with gns := { d.gns with retry := d.gns.retry.filter (· != item) } }
  else statSet { d with gns := { d.gns with retry := item :: d.gns.retry.filter (· != item) } } baseGns 19

/-- A resolved week above GN_WEEKBASE is stored there (R235, R246). -/
def storeWeek (d : Dev) : Dev :=
  match d.gns.weekDue with
  | some k => storeOr d 5 fun d => { d with
      gnsStore := { d.gnsStore with weekBase := max d.gnsStore.weekBase k }, gns := { d.gns with weekDue := none } }
  | none => d

/-- A decoded week: the first full one settles the week, and LNAV's serves only until then; a week above the base is stored (R235). -/
def weekDecoded (d : Dev) (sig w : Nat) : Dev :=
  if sig == 7 || (sig == 0 && d.gns.weekFull) then d
  else
    let k := weekOf d.gnsStore.weekBase sig w
    let d1 := { d with gns := { d.gns with week := some k, weekFull := d.gns.weekFull || sig != 0 } }
    if d1.gnsStore.weekBase < k then storeWeek { d1 with gns := { d1.gns with weekDue := some (max k (d1.gns.weekDue.getD 0)) } } else d1

/-! ### Navigation data (R242 to R246) -/

/-- Bits in order of transmission, the first in bit 7 of byte 0 (R244). -/
def packBits (l : List Bool) : List Byte :=
  (List.range ((l.length + 7) / 8)).map fun j =>
    BitVec.ofNat 8 ((List.range 8).foldl (fun a i => a * 2 + b2n (l.getD (8 * j + i) false)) 0)

/-- Cut bits into segments of 384. -/
def segments (l : List Bool) : List (List Bool) :=
  (List.range ((l.length + 383) / 384)).map (fun i => (l.drop (384 * i)).take 384)

/-- Units of Table 11.2: the lengths a signal's unit may have. -/
def unitLengths (sig : Nat) : List Nat := [[30], [300], [240], [244], [30], [600, 264], [288], [85]].getD sig []

/-- Exclusive or of the bits at the places given, from 1. -/
def parityOf (l : List Bool) (places : List Nat) : Bool := places.foldl (fun a i => xor a (l.getD (i - 1) false)) false

/-- LNAV parity (IS-GPS-200; PRESUMED, log 53): the places of the data bits that D25 to D30 take, and whether D29* (true) or D30* goes with them. -/
def lnavParity : List (Bool × List Nat) :=
  [(true, [1, 2, 3, 5, 6, 10, 11, 12, 13, 14, 17, 18, 20, 23]), (false, [2, 3, 4, 6, 7, 11, 12, 13, 14, 15, 18, 19, 21, 24]),
   (true, [1, 3, 4, 5, 7, 8, 12, 13, 14, 15, 16, 19, 20, 22]), (false, [2, 4, 5, 6, 8, 9, 13, 14, 15, 16, 17, 20, 21, 23]),
   (false, [1, 3, 5, 6, 7, 9, 10, 14, 15, 16, 17, 18, 21, 22, 24]), (true, [3, 5, 6, 8, 9, 10, 11, 13, 15, 19, 22, 23, 24])]

/-- A word's parity is right, with the last two bits of the word before it. -/
def lnavOk (tail : Bool × Bool) (l : List Bool) : Bool :=
  let data := (l.take 24).map (xor · tail.2)
  lnavParity.zipIdx.all fun e => (l.getD (24 + e.2) false) == xor (if e.1.1 then tail.1 else tail.2) (parityOf data e.1.2)

/-- The CRC-24Q register after the bits (generator 0x1864CFB; PRESUMED, log 53). -/
def crc24q (l : List Bool) : BitVec 24 :=
  l.foldl (fun c b => if xor b (c.getLsbD 23) then (c <<< 1) ^^^ 0x864CFB#24 else c <<< 1) 0

/-- The bits a CRC-24Q covers, and the 24 after them, by signal (Table 11.2; layouts PRESUMED, log 53). -/
def crcSpan (sig : Nat) (l : List Bool) : List Bool × List Bool :=
  match sig with
  | 2 => (l.take 114 ++ (l.drop 120).take 82, (l.drop 202).take 24)
  | 3 => (l.take 214, (l.drop 214).take 24)
  | _ => (l.take (l.length - 24), l.drop (l.length - 24))

def crcOk (sig : Nat) (l : List Bool) : Bool := (crc24q (crcSpan sig l).1).toNat == (crcSpan sig l).2.foldl (fun c b => 2 * c + b2n b) 0

/-- The remainder of a half word by x⁴ + x + 1 (BCH(15,11,1); PRESUMED, log 53). -/
def bchRem (l : List Bool) : BitVec 4 :=
  l.foldl (fun c b => let c' := (c <<< 1) ||| BitVec.ofNat 4 (b2n b); if c.getLsbD 3 then c' ^^^ 3 else c') 0

def flipAt (l : List Bool) (i : Nat) : List Bool := upd l i (!·)

/-- A half word with its single wrong bit, if any, put right. -/
def bchFix (l : List Bool) : List Bool :=
  if bchRem l == 0 then l
  else match (List.range 15).find? (fun i => bchRem (flipAt l i) == 0) with
    | some i => flipAt l i
    | none => l

/-- The places of the string's bits, numbered from 85 down as sent, that GLONASS check sums C1 to C7 take beside their own check bit (PRESUMED, log 53): those of the data bits whose number in the code has that bit. -/
def glonassCode : List Nat := (List.range 128).filter (fun n => 3 ≤ n && n ≤ 84 && !([4, 8, 16, 32, 64].contains n))

/-- Check sums C1 to C7 as a number, and C Σ. -/
def glonassSums (l : List Bool) : Nat × Bool :=
  let b := fun (n : Nat) => l.getD (85 - n) false
  let c := (List.range 7).foldl (fun a i =>
    let s := glonassCode.zipIdx.foldl (fun x e => if e.1.testBit i then xor x (b (9 + e.2)) else x) (b (i + 1))
    a + b2n s * 2 ^ i) 0
  (c, l.foldl xor false)

/-- The Hamming check of a string: CHECK and the bits, a single wrong one put right. -/
def glonassCheck (l : List Bool) : Nat × List Bool :=
  let (c, all) := glonassSums l
  if c == 0 && !all then (0, l)
  else if !all then (2, l)
  else if c == 0 || [1, 2, 4, 8, 16, 32, 64].contains c then (0, l)
  else match glonassCode.findIdx? (· == c) with
    | some i => (1, flipAt l (85 - (9 + i)))
    | none => (2, l)

/-- The check of a unit as Table 11.2 states it: 0 PASS, 1 CORRECTED, 2 FAIL; and its bits, corrected where the check corrects (R243). -/
def unitCheck (d : Dev) (sig sv : Nat) (l : List Bool) : Nat × List Bool :=
  match sig with
  | 0 => (if lnavOk (((d.gns.lnavTail.find? (·.1 == sv)).map (·.2)).getD (false, false)) l then 0 else 2, l)
  | 4 =>
    let f := bchFix (l.take 15) ++ bchFix (l.drop 15)
    (if f == l then 0 else 1, f)
  | 7 => glonassCheck l
  | _ => (if crcOk sig l then 0 else 2, l)

/-- A NAV record (Table 11.3). -/
def navBytes (u : NavUnit) (h : GnsChan) (check : Nat) (seg : List Bool) (i n : Nat) (fs lost : Bool) : List Byte :=
  leBytes 8 u.tFirst.toNat ++ leBytes 1 (sigSys h.sig) ++ leBytes 1 h.sig ++ leBytes 1 h.sv
    ++ leBytes 1 ((if h.sig == 7 then h.fch else 0) % 256).toNat ++ leBytes 2 seg.length ++ leBytes 1 (i + 16 * n)
    ++ leBytes 1 (check % 4 + 4 * b2n u.slip + 8 * b2n u.inverted + 16 * b2n fs + 32 * b2n lost)
    ++ padTo 48 (packBits seg)

/-- Deliver the NAV records of a unit (R242). -/
def navDeliver (d : Dev) (u : NavUnit) (h : GnsChan) (check : Nat) (bits : List Bool) : Dev :=
  let segs := segments bits
  (List.range segs.length).foldl (fun d i =>
    let (d1, ok) := deliver d (rgf d GN_RINGS 5 0) 5
      (navBytes u h check (segs.getD i []) i segs.length (fsExcluded d (sigSys h.sig)) d.gns.navLost)
    let d2 := { d1 with gns := { d1.gns with navLost := !ok } }
    if ok then d2 else countUp d2 GN_NAVDROP 31 0 1) d

/-- Data of the same satellite and kind. -/
def sameData (x y : NavData) : Bool := x.sys == y.sys && x.sv == y.sv && x.almanac == y.almanac

/-- Keep an ephemeris or almanac, in place of the older one of that satellite; its system's NV write falls due. -/
def keepNav (d : Dev) (x : NavData) : Dev :=
  { d with gns := { d.gns with
      nav := x :: d.gns.nav.filter (fun y => !sameData x y),
      storeDue := upd d.gns.storeDue x.sys (fun _ => true) } }

/-- A new ephemeris passes or fails FS5 (R245, Table 11.8): one that fails is rejected and excludes its satellite until one passes; the one in use received again is no new one. -/
def newEphemeris (d : Dev) (sys sv km : Nat) (bits : List Byte) (clk : Option ClockPoly) : Dev :=
  let x : NavData := ⟨sys, sv, false, bits, clk, d.t, (nowSec d).getD 0, false⟩
  if d.gns.nav.any (fun y => sameData x y && y.bits == bits && y.clk == clk && !y.stored) then d
  else if 50 < km then
    let d1 := { d with gns := { d.gns with
      fs5 := (sys, sv) :: d.gns.fs5.filter (· != (sys, sv)), fs5Flag := true } }
    logC d1 srcGnssFalsesig sys 16
  else keepNav { d with gns := { d.gns with fs5 := d.gns.fs5.filter (· != (sys, sv)) } } x

/-- LNAV's rule: the second of two consecutive receptions that pass and are identical (R245). -/
def lnavReception (d : Dev) (sv km : Nat) (bits : List Byte) (clk : Option ClockPoly) : Dev :=
  if d.gns.lnavSeen.any (· == (sv, bits)) then newEphemeris d 0 sv km bits clk
  else { d with gns := { d.gns with lnavSeen := (sv, bits) :: d.gns.lnavSeen.filter (·.1 != sv) } }

/-- An ephemeris with its clock correction, or an almanac, that a message of a satellite completes (R245). -/
def takeOrbit (d : Dev) (sig sv : Nat) (c : NavContent) : Dev :=
  let d1 := match c.almanac with
    | some b => keepNav d ⟨sigSys sig, sv, true, b, none, d.t, (nowSec d).getD 0, false⟩
    | none => d
  match c.ephemeris with
  | some b => if sig == 0 then lnavReception d1 sv c.fs5Km b c.clk else newEphemeris d1 (sigSys sig) sv c.fs5Km b c.clk
  | none => d1

/-- What a message that passed its check tells the device (R234, R235, R245, R255). -/
def navUse (d : Dev) (sig sv : Nat) (c : NavContent) : Dev :=
  let sys := sigSys sig
  let d1 := match c.utc with
    | some (v, n) => if sys == 0 then leapDecoded d 2 v n else if sys == 1 then leapDecoded d 3 v n else d
    | none => d
  let d2 := match c.week with
    | some w => weekDecoded d1 sig w
    | none => d1
  let d3 := { d2 with gns := { d2.gns with
    iono := if c.iono.isSome then upd d2.gns.iono sys (fun _ => c.iono) else d2.gns.iono,
    offset := if c.offset.isSome then upd d2.gns.offset sys (fun _ => c.offset) else d2.gns.offset } }
  takeOrbit d3 sig sv c

/-- A failed word of LNAV subframes 1 to 3 breaks the run of receptions (R245). -/
def navFailed (d : Dev) (sig sv subframe : Nat) : Dev :=
  if sig == 0 && 1 ≤ subframe && subframe ≤ 3 then
    { d with gns := { d.gns with lnavSeen := d.gns.lnavSeen.filter (·.1 != sv) } }
  else d

/-- The word's last bits are kept for the next (R243). -/
def keepTail (d : Dev) (sig sv : Nat) (l : List Bool) : Dev :=
  if sig == 0 then
    { d with gns := { d.gns with lnavTail := (sv, l.getD 28 false, l.getD 29 false) :: d.gns.lnavTail.filter (·.1 != sv) } }
  else d

/-- A navigation unit of a channel in TRACK is checked, used and delivered (R242 to R245). -/
def navUnit (d : Dev) (u : NavUnit) : Dev :=
  let h := chanOf d u.ch
  if h.st != .track || !bandOn d (sigBand h.sig) || !(unitLengths h.sig).contains u.bits.length then d
  else
    let (check, bits) := unitCheck d h.sig h.sv u.bits
    let d1 := keepTail (if check == 2 then navFailed d h.sig h.sv u.subframe else navUse d h.sig h.sv u.content) h.sig h.sv bits
    if rgb d1 GN_RINGS 31 then navDeliver d1 u h check bits else d1

def execNavUnitDecoded (u : NavUnit) (s : State) : Host.Outcome State Fault Refusal := act s fun d => navUnit d u

/-- At most once per 3,600 s per system (R246). -/
def storeReady (d : Dev) (sys : Nat) : Bool :=
  d.gns.storeDue.getD sys false
    && (match d.gns.storeT.getD sys none with
        | some t => decide (t.toNat + 3600 * 1000 * ms ≤ d.t.toNat)
        | none => true)

/-- A system's data go to the NV store in place of those it held (R246). -/
def storeSystem (d : Dev) (sys : Nat) : Dev :=
  { d with
    gnsStore := { d.gnsStore with
      nav := d.gns.nav.filter (·.sys == sys) ++ d.gnsStore.nav.filter (·.sys != sys) },
    gns := { d.gns with storeDue := upd d.gns.storeDue sys (fun _ => false), storeT := upd d.gns.storeT sys (fun _ => some d.t) } }

/-- A write to the NV store starts, or is deferred for want of hold-up energy (R246). Items 0 to 3 are the systems, 4 the position, 5 the week base. -/
def gnssStore (d : Dev) (item : Nat) : Dev :=
  if item < 4 then (if storeReady d item then storeOr d item (fun d => storeSystem d item) else d)
  else if item == 4 && d.gns.posDue.isSome then
    storeOr d 4 fun d => { d with gnsStore := { d.gnsStore with pos := d.gns.posDue }, gns := { d.gns with posDue := none } }
  else if item == 5 then storeWeek d
  else d

def execGnssStoreWrite (item : Nat) (s : State) : Host.Outcome State Fault Refusal := act s fun d => gnssStore d item

/-- Writes that waited are tried again at the Bell (R246). -/
def storeRetries (d : Dev) : Dev := d.gns.retry.reverse.foldl gnssStore d

/-- What a start loads from the NV store for aiding (R246). -/
def gnssLoad (d : Dev) : Dev :=
  { d with gns := { d.gns with nav := d.gnsStore.nav.map (fun x => { x with stored := true }) } }

/-- Data may aid: stored ephemerides no older than 4 h and almanacs no older than 30 days, by a time that is known (R246). -/
def navUsable (d : Dev) (x : NavData) : Bool :=
  !x.stored || ((nowSec d).map (fun n => decide (n ≤ x.sec + (if x.almanac then 30 * 86400 else 4 * 3600)))).getD false

/-! ### The position held (R251) -/

def posMode (d : Dev) : Nat := let m := eff d GN_POSCFG 1 0; if m == 3 then 0 else m

/-- GN_POS in effect, mm. -/
def fixedPos (d : Dev) : Int × Int × Int × Nat :=
  (efPairS d GN_POS, efPairS d (GN_POS + 8), efPairS d (GN_POS + 16), (ef d GN_POSUNC).toNat)

/-- The position a solution holds, and U_pos, mm. -/
def heldPos (d : Dev) (k : Nat) : Option (Int × Int × Int × Nat) :=
  let s := solOf d k
  match posMode d with
  | 1 => if s.posBad then none else some (fixedPos d)
  | 2 => if s.posBad then none else match s.pos with
    | some p => some p
    | none => d.gnsStore.pos
  | _ => s.pos

/-! ### Aiding (R239, R247) -/

/-- The time aid's uncertainty in ns: TS-O, the last type 1 record of at most 1 ms, or none (R239). -/
def timeAidOf (d : Dev) : Option Nat :=
  if rgb d (baseGns + 4) 1 && (scaleOf d d.tsc.cur).setDone && totalShown (sclOf d d.tsc.cur) < ms * 65536 then
    some (ceilDiv (totalShown (sclOf d d.tsc.cur)) 65536)
  else d.gns.timeAid.map (·.1)

/-- U_pos of the position aid, mm: that of the held position, or of the last type 2 record of at most 3 km (R239). -/
def posAidOf (d : Dev) : Option Nat :=
  match (List.range 4).findSome? (heldPos d) with
  | some (_, _, _, u) => some u
  | none => d.gns.posAid.map (·.1)

/-- Half-width of the code window of an aided channel, ns, rounded up; none for the whole code period (R238). -/
def codeWindow (d : Dev) (band : Nat) : Option Nat :=
  if d.gns.bandTracked.getD band false then
    (posAidOf d).map (fun u => ceilDiv (u * 1000000000) 299792458000 + 2000)
  else none

/-- Half-width of the Doppler window of an aided channel, Hz: 500 with ephemeris, 1,500 with almanac only (R238). -/
def dopWindow (d : Dev) (sys sv : Nat) : Nat :=
  if d.gns.nav.any (fun x => x.sys == sys && x.sv == sv && !x.almanac && navUsable d x) then 500 else 1500

/-- Apply one aid record (Table 11.4); the bits of types 3 and 4 are decoded as if received. -/
def applyAid (d : Dev) (x : List Byte × NavContent) : Dev :=
  let r := x.1
  let i64 := fun (o : Nat) => sext 64 (leAt r o 8)
  match leAt r 0 1 with
  | 1 =>
    if ms < leAt r 4 4 then d
    else { d with gns := { d.gns with
      timeAid := some (leAt r 4 4, leAt r 8 8, leAt r 0x10 4, leAt r 0x14 8), bandTracked := [false, false] } }
  | 2 =>
    if 3000000 < leAt r 4 4 then d
    else { d with gns := { d.gns with posAid := some (leAt r 4 4, i64 8, i64 0x10, i64 0x18) } }
  | 3 | 4 => takeOrbit d (leAt r 9 1) (leAt r 0xA 1) x.2
  | 5 =>
    let t := leAt r 0xC 8
    leapHost d (sext 16 (leAt r 8 2)) (if t == 0 then none else some (t, some (sext 16 (leAt r 0x14 2))))
  | 6 => { d with gns := { d.gns with nav := [], lnavSeen := [], storeDue := List.replicate 4 true } }
  | _ => d

/-- Records that wait are applied at a dwell or an allocation (R247). -/
def applyAids (d : Dev) : Dev :=
  let l := d.gns.aidWait
  l.foldl applyAid { d with gns := { d.gns with aidWait := [] } }

/-- A record is discarded: ATYPE unknown, or type 3 or 4 whose CHECK is not PASS or CORRECTED (R247). -/
def aidBad (r : List Byte) : Bool :=
  let a := leAt r 0 1
  a == 0 || 6 < a || ((a == 3 || a == 4) && (1 < leAt r 0xF 1 % 4 || 7 < leAt r 9 1))

/-- The device reads the next aid record of its ring (R247). -/
def aidRecord (d : Dev) (c : NavContent) : Dev :=
  match aidRing d with
  | some q =>
    if gnsRuns d && txEn d q && !(txRing d q).stop then
      match (txRing d q).posted with
      | x :: rest =>
        let b := padTo 64 x.bytes
        let st := if aidBad b then 7 else 0
        let d1 := updTx d q fun r => { r with posted := rest, filled := r.filled ++ [⟨[], 0, txComp [] false st, 0, none⟩] }
        if aidBad b then statSet d1 baseGns 20 else { d1 with gns := { d1.gns with aidWait := d1.gns.aidWait ++ [(b, c)] } }
      | [] => d
    else d
  | none => d

def execAidRecord (content : NavContent) (s : State) : Host.Outcome State Fault Refusal := act s fun d => aidRecord d content

/-! ### Channels (R236 to R238) -/

/-- A candidate: system, signal, satellite, frequency channel, elevation. -/
abbrev Cand := Nat × Nat × Nat × Int × Nat

/-- A candidate comes before another: descending elevation, then SYS, then SIG (R237). -/
def candBefore (a b : Cand) : Bool :=
  b.2.2.2.2 < a.2.2.2.2 || (b.2.2.2.2 == a.2.2.2.2 && (a.1 < b.1 || (a.1 == b.1 && a.2.1 ≤ b.2.1)))

def insertCand (x : Cand) : List Cand → List Cand
  | [] => [x]
  | y :: ys => if candBefore x y then x :: y :: ys else y :: insertCand x ys

def sameSat (a b : Cand) : Bool := a.1 == b.1 && a.2.2.1 == b.2.2.1

/-- Group the signals of each satellite at its first place. -/
def groupSats : Nat → List Cand → List (List Cand)
  | 0, _ => []
  | _ + 1, [] => []
  | n + 1, x :: r => (x :: r.filter (sameSat x)) :: groupSats n (r.filter (fun y => !sameSat x y))

/-- Whole satellites while they fit. -/
def limitSats : Nat → List (List Cand) → List Cand
  | _, [] => []
  | room, g :: r => if g.length ≤ room then g ++ limitSats (room - g.length) r else []

def chanMatches (c : GnsChan) (x : Cand) : Bool := c.st != .idle && c.sig == x.2.1 && c.sv == x.2.2.1 && c.fch == x.2.2.2.1

/-- The candidates of R237 among those the sky offers: enabled, trackable, predicted from data that may aid at the aided or held position, above the mask. -/
def candOk (d : Dev) (x : Cand) : Bool :=
  x.2.1 < 8 && sigSys x.2.1 == x.1 && sigEnabled d x.2.1 && trackable d x.2.1 x.2.2.2.1 && elMask d < x.2.2.2.2
    && (posAidOf d).isSome && d.gns.nav.any (fun n => n.sys == x.1 && n.sv == x.2.2.1 && navUsable d n)

/-- A channel begins to search a signal of a satellite. -/
def searching (d : Dev) (sig sv : Nat) (fch : Int) : GnsChan := { st := .search, sig := sig, sv := sv, fch := fch, searchT := d.t }

/-- Give candidates to free channels, lowest index first; those left wait. -/
def giveChannels : List Cand → Dev → Dev
  | [], d => { d with gns := { d.gns with candWait := [] } }
  | x :: r, d =>
    match d.gns.chans.findIdx? (fun c => c.st == .idle) with
    | some i => giveChannels r (updCh d i fun _ => searching d x.2.1 x.2.2.1 x.2.2.2.1)
    | none => { d with gns := { d.gns with candWait := x :: r } }

/-- The allocation of R237. A channel keeps its assignment while its signal is still wanted, in TRACK while its satellite remains a candidate. -/
def allocate (d0 : Dev) (cands : List Cand) : Dev :=
  let d := applyAids d0
  let all := (cands.filter (candOk d)).foldr insertCand []
  let chosen := limitSats 160 (groupSats all.length all)
  let keep := fun (c : GnsChan) =>
    if c.st == .track then all.any (fun x => x.1 == sigSys c.sig && x.2.2.1 == c.sv)
    else c.st != .lost && chosen.any (chanMatches c)
  let d1 := { d with gns := { d.gns with chans := d.gns.chans.map (fun c => if keep c then c else {}) } }
  giveChannels (chosen.filter (fun x => !d1.gns.chans.any (fun c => chanMatches c x))) d1

/-- CHAUTO = 0: the host's assignments in effect (R237); a signal that is not enabled or not trackable is not tracked (R232). -/
def hostAssign (d : Dev) : Dev :=
  (List.range 160).foldl (fun d c =>
    let k := CH_CFG + c * 0x40
    let sig := eff d k 26 24
    let sv := eff d k 21 16
    let fch := if sig == 7 then sext 4 (eff d k 11 8) else 0
    let ch := chanOf d c
    if efb d k 31 && sigEnabled d sig && trackable d sig fch then
      if ch.st != .idle && ch.sig == sig && ch.sv == sv && ch.fch == fch then d
      else updCh d c fun _ => searching d sig sv fch
    else if ch.st == .idle then d else updCh d c fun _ => {}) d

/-- A channel has found no signal within 2 s: it returns to the allocator and goes to the next candidate (R238). -/
def searchTimeout (d : Dev) (c : Nat) : Dev :=
  if (chanOf d c).st != .search then d
  else
    let d1 := updCh d c fun _ => {}
    if chAuto d1 then giveChannels d1.gns.candWait d1 else d1

/-- When a channel's search of 2 s ends. -/
def searchEnd (d : Dev) (c : Nat) : Option Nat :=
  if (chanOf d c).st == .search then some ((chanOf d c).searchT.toNat + 2000 * ms) else none

/-- A channel reaches TRACK, from PULLIN, or from LOST: its carrier loop is locked and its synchronisation found (R236). -/
def channelTrack (d : Dev) (c : Nat) : Dev :=
  let h := chanOf d c
  if !(h.st == .pullIn || h.st == .lost) || !mayTrack d h.sig h.fch then d
  else
    let d1 := updCh d c fun x => { x with st := .track }
    { d1 with gns := { d1.gns with bandTracked := upd d1.gns.bandTracked (sigBand h.sig) (fun _ => true) } }

def execChannelTrack (ch : Nat) (s : State) : Host.Outcome State Fault Refusal := act s fun d => channelTrack d ch

/-- A channel loses its lock and enters LOST (R236). -/
def channelLost (d : Dev) (c : Nat) : Dev :=
  if (chanOf d c).st == .track then
    countUp (updCh d c fun x => { x with st := .lost, inSol := false, excl := false }) (CH_EVT + c * 0x40) 15 0 1
  else d

def execChannelLockLoss (ch : Nat) (s : State) : Host.Outcome State Fault Refusal := act s fun d => channelLost d ch

/-! ### The search bank (R240) -/

/-- The device runs the slots itself: CHAUTO, and neither time aid nor ephemeris nor almanac. -/
def slotsAuto (d : Dev) : Bool := chAuto d && (timeAidOf d).isNone && !d.gns.nav.any (navUsable d)

/-- Satellites of a system that a slot takes in turn. -/
def svCount (sys : Nat) : Nat := [32, 36, 63, 24].getD sys 32

/-- Signal and satellite of a slot, 0 for all of them, if it runs; the device itself gives slot s the signal s (DESIGN CHOICE, log 53). -/
def slotJob (d : Dev) (s : Nat) : Option (Nat × Nat) :=
  let k := SLOT_CFG + s * 0x10
  let job := if slotsAuto d then some (s, 0)
    else if efb d k 31 then some (eff d k 26 24, eff d k 21 16) else none
  job.filter fun j => if j.1 == 7 then (List.range 14).any (fun k => mayTrack d 7 ((k : Int) - 7)) else mayTrack d j.1 0

/-- The slot whose dwell a band's half of the bank makes: the next in turn of those enabled on the band (R240). -/
def bankTurn (d : Dev) (b : Nat) : Option Nat :=
  ((List.range 8).map (fun i => (d.gns.bankSlot.getD b 7 + 1 + i) % 8)).find? (fun s =>
    match slotJob d s with
    | some (sig, _) => sigBand sig == b
    | none => false)

/-- Non-coherent sums of a slot (R240). -/
def slotNcoh (d : Dev) (s : Nat) : Nat :=
  let n := if slotsAuto d then 0 else eff d (SLOT_CFG + s * 0x10) 3 0
  if n == 0 then 10 else n

/-- A cell's power over n sums exceeds the noise floor by 10 dB. -/
def detected (floor n : Nat) (x : Cell) : Bool := 10 * (n * floor) ≤ (x.sums.take n).foldl (· + ·) 0 && x.sums.length == n && floor != 0

/-- A detection goes to a free channel, which starts in PULLIN (R240). -/
def handOver (d : Dev) (s sig sv : Nat) (x : Cell) : Dev :=
  let d1 := { d with gns := { d.gns with detections := upd d.gns.detections s (fun n => min 65535 (n + 1)) } }
  match d1.gns.chans.findIdx? (fun c => c.st == .idle) with
  | some i => updCh d1 i fun _ => { st := .pullIn, sig := sig, sv := sv, fch := if sig == 7 then x.fch else 0, doppler := x.dop * 256 }
  | none => d1

/-- A dwell of a band's half of the bank ends: its slot's detections are handed over, and the slot steps to its next satellite (R240). -/
def bankDwell (d : Dev) (b : Nat) (inp : DwellIn) : Dev :=
  match bankTurn d b with
  | none => d
  | some s => match slotJob d s with
    | none => d
    | some (sig, all) =>
      let sv := if all == 0 then max 1 (d.gns.slotSv.getD s 0) else all
      let found := inp.cells.filter (fun x => mayTrack d sig (if sig == 7 then x.fch else 0) && detected inp.floor (slotNcoh d s) x)
      let d1 := found.foldl (fun d x => handOver d s sig sv x) d
      { d1 with gns := { d1.gns with
          slotSv := upd d1.gns.slotSv s (fun _ => if all == 0 then sv % svCount (sigSys sig) + 1 else sv),
          bankSlot := upd d1.gns.bankSlot b (fun _ => s) } }

/-- An aided channel's search: a detection inside its windows takes it to PULLIN (R236, R238). -/
def chanDwell (d : Dev) (c : Nat) (inp : DwellIn) : Dev :=
  let h := chanOf d c
  if h.st != .search || !mayTrack d h.sig h.fch then d
  else
    let inside := fun (x : Cell) => x.dop.natAbs ≤ dopWindow d (sigSys h.sig) h.sv
      && (match codeWindow d (sigBand h.sig) with
          | some w => decide (x.code.natAbs ≤ w)
          | none => true)
    match inp.cells.find? (fun x => inside x && detected inp.floor x.sums.length x) with
    | some x => updCh d c fun y => { y with st := .pullIn, doppler := (inp.pred + x.dop) * 256 }
    | none => d

/-- A dwell ends (R238, R240). -/
def dwell (d0 : Dev) (who : Searcher) (inp : DwellIn) : Dev :=
  if !gnsRuns d0 then d0
  else
    let d := applyAids d0
    match who with
    | .bank b => bankDwell d b inp
    | .chan c => chanDwell d c inp

def execSearchDwellComplete (who : Searcher) (inp : DwellIn) (s : State) : Host.Outcome State Fault Refusal :=
  act s fun d => dwell d who inp

/-! ### Notches (R262, R263) -/

def ntKey (k b n : Nat) : Nat := k + b * 0x40 + n * 0x10
def notchIx (b n : Nat) : Nat := b * 4 + n
def notchMode (d : Dev) (b n : Nat) : Nat := eff d (ntKey NT_CFG b n) 1 0
def notchRaw (d : Dev) (b n : Nat) : Notch := d.gns.notches.getD (notchIx b n) {}

/-- Where a notch stands, if it is engaged. -/
def notchAt (d : Dev) (b n : Nat) : Option Int :=
  match notchMode d b n with
  | 1 => some (efS d (ntKey NT_FREQ b n))
  | 2 => if (notchRaw d b n).engaged then some (notchRaw d b n).freq else none
  | _ => none

def updNotch (d : Dev) (b n : Nat) (f : Notch → Notch) : Dev := { d with gns := { d.gns with notches := upd d.gns.notches (notchIx b n) f } }

/-- NTH in 0.1 dB. -/
def notchTh (d : Dev) (b n : Nat) : Int := (eff d (ntKey NT_CFG b n) 15 8 * 10 : Nat)

/-- The line an engaged notch follows: the nearest within 200 kHz per ms over the 16 ms of the average. -/
def nearestLine (f : Int) (l : List SpecLine) : Option SpecLine :=
  (l.filter (fun x => (x.freq - f).natAbs ≤ 3200000)).foldl (fun b x =>
    match b with
    | none => some x
    | some y => if (x.freq - f).natAbs < (y.freq - f).natAbs then some x else some y) none

def strongest (l : List SpecLine) : Option SpecLine :=
  l.foldl (fun b x => match b with
    | none => some x
    | some y => if y.db < x.db then some x else some y) none

/-- An engaged adaptive notch tracks its line, or is released when the line has been weak for 100 ms. -/
def notchTrack (d : Dev) (b n : Nat) (lines : List SpecLine) : Dev × List SpecLine :=
  let x := notchRaw d b n
  match nearestLine x.freq lines with
  | some l =>
    let d1 := updNotch d b n fun y => { y with
      freq := l.freq
      belowFrom := if notchTh d b n - 30 ≤ l.db then none else some (x.belowFrom.getD d.t) }
    (d1, lines.erase l)
  | none => (updNotch d b n fun y => { y with belowFrom := some (x.belowFrom.getD d.t) }, lines)

def notchRelease (d : Dev) (b n : Nat) : Dev :=
  match (notchRaw d b n).belowFrom with
  | some t => if t.toNat + 100 * ms ≤ d.t.toNat then updNotch d b n (fun _ => {}) else d
  | none => d

/-- The 3 dB width of a notch, Hz. -/
def notchWidth (d : Dev) (b n : Nat) : Nat := 50000 * 2 ^ eff d (ntKey NT_CFG b n) 5 4

/-- A line has a notch: it lies within the 3 dB width of one that is engaged (DEDUCED, log 53). -/
def lineNotched (d : Dev) (b : Nat) (l : SpecLine) : Bool :=
  (List.range 4).any (fun n => match notchAt d b n with
    | some f => decide (2 * (l.freq - f).natAbs ≤ notchWidth d b n)
    | none => false)

/-- A free adaptive notch engages on the strongest line at or above NTH that has no notch. -/
def notchEngage (d : Dev) (b n : Nat) (lines : List SpecLine) : Dev × List SpecLine :=
  match strongest (lines.filter (fun l => notchTh d b n ≤ l.db && !lineNotched d b l)) with
  | some l => (updNotch d b n fun _ => { engaged := true, freq := l.freq }, lines.erase l)
  | none => (d, lines)

/-- Notches that are not adaptive hold no line. -/
def notchesIdle (d : Dev) (b : Nat) : Dev :=
  (List.range 4).foldl (fun d n => if notchMode d b n == 2 then d else updNotch d b n (fun _ => {})) d

/-- An averaged spectrum of a band (R262): the engaged notches follow their lines, then the free ones engage in ascending index. -/
def spectrum (d0 : Dev) (b : Nat) (lines : List SpecLine) : Dev :=
  if !bandOn d0 b || 1 < b then d0
  else
    let d := notchesIdle d0 b
    let mine := (List.range 4).filter (fun n => notchMode d b n == 2)
    let (on, off) := mine.partition (fun n => (notchRaw d b n).engaged)
    let (d1, l1) := on.foldl (fun (s : Dev × List SpecLine) n => notchTrack s.1 b n s.2) (d, lines)
    let d2 := on.foldl (fun d n => notchRelease d b n) d1
    let free := mine.filter (fun n => off.contains n || !(notchRaw d2 b n).engaged)
    (free.foldl (fun (s : Dev × List SpecLine) n => notchEngage s.1 b n s.2) (d2, l1)).1

def execSpectrumUpdate (band : Nat) (lines : List SpecLine) (s : State) : Host.Outcome State Fault Refusal :=
  act s fun d => spectrum d band lines

/-- An engaged notch is near a signal (R263). -/
def notchNear (d : Dev) (b n sig : Nat) (fch : Int) : Bool :=
  sigBand sig == b
    && (match notchAt d b n with
        | some f => decide ((f - sigIf d sig fch).natAbs ≤ (sigHalf sig).toNat)
        | none => false)

/-! ### J/N (R264) -/

/-- The largest n ≤ 600 with 10ⁿ ≤ x¹⁰⁰ for x = p/q: 10·log₁₀ x in 0.1 dB, rounded down. -/
def dbFloor (p q : Nat) : Nat :=
  ((List.range 601).filter (fun n => 10 ^ n * q ^ 100 ≤ p ^ 100)).length - 1

/-- 10·log₁₀(p/q) in 0.1 dB, 0 at or below 1, saturating at 60 dB; its rounding is free (log 2). -/
def dbOf (d : Dev) (p q : Nat) : Nat × Dev :=
  if p ≤ q then (0, d)
  else
    let n := dbFloor p q
    if n == 600 || 10 ^ n * q ^ 100 == p ^ 100 then (n, d)
    else
      let (r, d1) := drawBelow d 2
      (min 600 (n + r), d1)

/-- The largest r below 2ᵏ⁺¹ with r²⁰⁰ ≤ v. -/
def root200 (v : Nat) : Nat → Nat → Nat
  | 0, r => if (r + 1) ^ 200 ≤ v then r + 1 else r
  | k + 1, r => if (r + 2 ^ (k + 1)) ^ 200 ≤ v then root200 v k (r + 2 ^ (k + 1)) else root200 v k r

/-- 10^(k/200) in 10⁻¹², rounded down. -/
def tenTo (k : Nat) : Nat := root200 (10 ^ (k + 2400)) 60 0

/-- Method 0: J/N from the mean power and P₀ = s/n. -/
def jnPower (d : Dev) (p s n : Nat) : Nat × Dev := if s == 0 then (0, d) else if p * n ≤ s then (0, d) else dbOf d (p * n - s) s

/-- C/N0 profile key: signal and 5° step. -/
def profKey (sig el : Nat) : Nat := sig * 18 + min 17 (el / 5)

/-- The channels of a list that track in a band. -/
def inBand (d : Dev) (b : Nat) (cn : List ChanIn) : List ChanIn :=
  cn.filter (fun x => (chanOf d x.ch).st == .track && sigBand (chanOf d x.ch).sig == b)

/-- Median in 0.05 dB of the losses of a band's channels in TRACK against the learned profile, in 0.1 dB. -/
def medianLoss (d : Dev) (b : Nat) (cn : List ChanIn) : Option Int :=
  let l := (inBand d b cn).filterMap fun x =>
    (d.gns.cnProfile.find? (·.1 == profKey (chanOf d x.ch).sig x.elev)).map fun e =>
      roundDiv ((2 * e.2.1 : Int) - 2 * x.cn0 * e.2.2) e.2.2
  if l.length < 4 then none else some (median l)

/-- Add to the profile being learned. -/
def learnCn (l : List (Nat × Nat × Nat)) (k v : Nat) : List (Nat × Nat × Nat) :=
  if l.any (·.1 == k) then l.map (fun e => if e.1 == k then (k, e.2.1 + v, e.2.2 + 1) else e) else l ++ [(k, v, 1)]

/-- The method of a band: 1 by C/N0 (R264). -/
def jnByCn (d : Dev) (b : Nat) : Bool := rgb d (bandKey GN_BAND_CFG b) 26

/-- A second of learning the C/N0 profile; its last makes it the learned one. -/
def learnProfile (d : Dev) (b : Nat) (cn : List ChanIn) : Dev :=
  let g := d.gns
  let l := (inBand d b cn).foldl (fun l x => learnCn l (profKey (chanOf d x.ch).sig x.elev) x.cn0) g.cnLearn
  let g1 := { g with cnLearn := l, learnLeft := upd g.learnLeft b (fun n => n - 1) }
  if g.learnLeft.getD b 0 == 1 then
    { d with gns := { g1 with
        cnProfile := l.filter (fun e => sigBand (e.1 / 18) == b) ++ g.cnProfile.filter (fun e => sigBand (e.1 / 18) != b),
        cnLearn := l.filter (fun e => sigBand (e.1 / 18) != b) } }
  else { d with gns := g1 }

/-- A second of learning P₀; its last makes the mean the reference. -/
def learnPower (d : Dev) (b : Nat) (power : Option Nat) : Dev :=
  let g := d.gns
  let s := g.learnSum.getD b 0 + power.getD 0
  let n := g.learnN.getD b 0 + b2n power.isSome
  let g1 := { g with learnSum := upd g.learnSum b (fun _ => s), learnN := upd g.learnN b (fun _ => n),
                     learnLeft := upd g.learnLeft b (fun n => n - 1) }
  if g.learnLeft.getD b 0 == 1 && n != 0 then { d with gns := { g1 with p0 := upd g1.p0 b (fun _ => some (s, n)) } } else { d with gns := g1 }

/-- A Bell of learning. -/
def learnBellJn (d : Dev) (b : Nat) (power : Option Nat) (cn : List ChanIn) : Dev :=
  if d.gns.learnLeft.getD b 0 == 0 then d
  else if jnByCn d b then learnProfile d b cn
  else learnPower d b power

/-- The learned reference of a band is there (GN_JNSTAT.LEARNED). -/
def jnLearned (d : Dev) (b : Nat) : Bool :=
  if jnByCn d b then d.gns.cnProfile.any (fun e => sigBand (e.1 / 18) == b) else (d.gns.p0.getD b none).isSome

def putJn (d : Dev) (b : Nat) (v : Nat × Nat) (stale : Bool) : Dev :=
  { d with gns := { d.gns with jn := upd d.gns.jn b (fun _ => v), jnStale := upd d.gns.jnStale b (fun _ => stale) } }

/-- Method 1, from the C/N0 of the channels in TRACK. -/
def jnFromCn (d : Dev) (b : Nat) (cn : List ChanIn) : Dev :=
  match medianLoss d b cn with
  | some m =>
    let x := tenTo m.toNat
    if m ≤ 0 || x ≤ 2 * 10 ^ 12 then putJn d b (0, 0) false
    else
      let (v, d') := dbOf d (x - 10 ^ 12) (10 ^ 12)
      putJn d' b (v, v) false
  | none => putJn d b (d.gns.jn.getD b (0, 0)) true

/-- Method 0, from the power of the samples before and after the notches. -/
def jnFromPower (d : Dev) (b : Nat) (power : Option (Nat × Nat)) : Dev :=
  match d.gns.p0.getD b none, power with
  | some (s, n), some (p, q) =>
    let (v, d') := jnPower d p s n
    let (w, d'') := jnPower d' q s n
    putJn d'' b (v, w) false
  | _, _ => d

/-- J/N at or above JN_WARN logs once per crossing. -/
def jnWarn (d : Dev) (b : Nat) : Dev :=
  let v := (d.gns.jn.getD b (0, 0)).1
  let above := eff d (bandKey GN_JNCFG b) 9 0 ≤ v
  let d1 := { d with gns := { d.gns with jnAbove := upd d.gns.jnAbove b (fun _ => above) } }
  if above && !d.gns.jnAbove.getD b false then logC d1 srcGnssJam b v else d1

/-- J/N of a band at a Bell (R264). Until a reference is learned, and while the band's samples are ignored or discarded, it keeps its last value. -/
def jnBand (d0 : Dev) (b : Nat) (bands : List BandIn) (cn : List ChanIn) : Dev :=
  let power := if bandOn d0 b then (bands[b]?).map (fun x => (samplePower (rgf d0 (bandKey GN_BAND_CFG b) 29 28) x, x.post)) else none
  let d := learnBellJn d0 b (power.map (·.1)) cn
  jnWarn (if jnByCn d b then jnFromCn d b cn else jnFromPower d b power) b

/-- J/N of a band is at or above JN_WD. -/
def jnWithdraws (d : Dev) (b : Nat) : Bool := eff d (bandKey GN_JNCFG b) 25 16 ≤ (d.gns.jn.getD b (0, 0)).1

/-- LEARN starts learning: 60 s of power, or 86,400 s of C/N0 (R264). -/
def jnLearn (d : Dev) (b : Nat) : Dev :=
  let n := if jnByCn d b then 86400 else 60
  { d with gns := { d.gns with
      learnLeft := upd d.gns.learnLeft b (fun _ => n), learnSum := upd d.gns.learnSum b (fun _ => 0),
      learnN := upd d.gns.learnN b (fun _ => 0),
      cnLearn := d.gns.cnLearn.filter (fun e => sigBand (e.1 / 18) != b) } }

/-! ### Writes of the indirect space -/

/-- A write that has reached a register of the GNS indirect space: by its fields' classes, and with the effects of LEARN and GN_LEAP. -/
def gnsWrite (d : Dev) (key : Nat) (val : Word) (acc : Option Access) : Dev :=
  let d1 := classWrite d key val acc
  if (key == GN_JNCFG || key == bandKey GN_JNCFG 1) && bit val 31 then jnLearn d1 (if key == GN_JNCFG then 0 else 1)
  else if key == GN_LEAP then leapHost d1 (sext 16 (bits val 15 0)) none
  else d1

/-- IND_DATA of GNS. -/
def gnsIndData : Nat := baseGns + 0x44

def execGnPosZHiWrite (req : Requester) (val : Word) (s : State) : Host.Outcome State Fault Refusal :=
  act s fun d => withWrite d req gnsIndData fun d => gnsWrite d GN_POS_Z_HI val (some (accOf req gnsIndData))

def execGnJncfgLearn (req : Requester) (band : Nat) (val : Word) (s : State) : Host.Outcome State Fault Refusal :=
  act s fun d => if 1 < band then d else
    withWrite d req gnsIndData fun d => gnsWrite d (bandKey GN_JNCFG band) (val ||| 0x80000000) (some (accOf req gnsIndData))

end Sys2Proof.Machine
end

