-- ==== Sys2Proof/Machine/Sol.lean ====
section
/-! DEFINITION. The GNSS time solutions: fit, T-RAIM, uncertainty, states, withdrawals, false-signal checks and the Bell's part of GNS (R234, R248 to R265; row SOLUTION_EPOCH). -/
namespace Sys2Proof.Machine
open Sys2Proof

def solKey (k n : Nat) : Nat := k + n * 0x100
def updSol (d : Dev) (n : Nat) (f : Sol → Sol) : Dev := { d with gns := { d.gns with sols := upd d.gns.sols n f } }

/-! ### Configuration (R248, R249) -/

def solEn (d : Dev) (k : Nat) : Bool := efb d (solKey SOL_CFG0 k) 31
def solDual (d : Dev) (k : Nat) : Bool := (solBands d k).contains 1
def solSys (d : Dev) (k : Nat) : Nat := if k == 3 then 1 else eff d (solKey SOL_CFG0 k) 27 24
/-- TRAIM_TH in ps. -/
def solTh (d : Dev) (k : Nat) : Nat := (if k == 3 then 50 else eff d (solKey SOL_CFG0 k) 23 16) * 1000
def solMaxEx (d : Dev) (k : Nat) : Nat := if k == 3 then 3 else eff d (solKey SOL_CFG0 k) 15 12
def solMinSv (d : Dev) (k : Nat) : Nat := if k == 3 then 4 else eff d (solKey SOL_CFG0 k) 11 8
/-- The elevation mask of a solution: REF27 keeps its own 10° (R249). -/
def solMask (d : Dev) (k : Nat) : Nat := if k == 3 then 10 else elMask d

/-- U_pos / c in ps. -/
def posPs (mm : Nat) : Rat := (mm : Rat) * 1000000000 / 299792458

/-! ### Observations (R248, R253) -/

/-- D_b,s in ps (R253). -/
def delayOf (d : Dev) (sig : Nat) : Int :=
  let b := sigBand sig
  efS d (bandKey GN_ANTDLY b) + efS d (bandKey GN_RXDLY b) + efS d (GN_SIGBIAS + 8 * sig)

/-- α1 and α5, exact ratios of the squares (R253). -/
def alpha1 : Rat := (157542 * 157542 : Rat) / (157542 * 157542 - 117645 * 117645)
def alpha5 : Rat := (117645 * 117645 : Rat) / (157542 * 157542 - 117645 * 117645)

/-- A satellite in a fit: its corrected residual in ps and its direction cosines. -/
structure Obs where
  sat : SatMeas
  y   : Rat
  dx  : Rat
  dy  : Rat
  dz  : Rat

/-- 1 mm of range in ps. -/
def mmPs : Rat := 1000000000 / 299792458

/-- The ephemeris of a satellite that an epoch now may use: accepted before it, or stored and young enough (R245, R246). -/
def ephOf (d : Dev) (sys sv : Nat) : Option NavData :=
  d.gns.nav.find? (fun x => x.sys == sys && x.sv == sv && !x.almanac && navUsable d x && (x.stored || x.acceptedT.toNat < d.t.toNat))

/-- TAI of transmission, ps: the satellite's clock, corrected as broadcast, in its system's time (R234). -/
def taiOfTx (d : Dev) (sys : Nat) (c : ClockPoly) (tx : Rat) : Rat :=
  let sysT := tx + sysOffset d sys * 1000000000000
  sysT - c.a0 - (c.a1 : Rat) / (2 ^ 48 : Rat) * (sysT - c.toc * 1000000000000)

/-- The ionospheric model of a system: Klobuchar or NeQuick-G, and whose parameters; GLONASS takes the GPS model (R248). -/
def ionoModel (sys : Nat) : Nat × Nat := match sys with
  | 1 => (1, 1)
  | 2 => (0, 2)
  | _ => (0, 0)

/-- The model's ionospheric delay of a satellite's L1-band signal, ps. -/
def ionoOf (d : Dev) (m : SatMeas) : Int :=
  let (model, s) := ionoModel m.sys
  Config.ionoDelay model ((d.gns.iono.getD s none).getD []) m.elev m.azim (taiSec d) m.m1.sig

/-- A signal's pseudorange against TS-O at the epoch, less the range, the troposphere and D_b,s, ps (R234, R249, R250, R253): the tags on either side are interpolated. -/
def signalObs (d : Dev) (k : Nat) (e : EpochIn) (p : Int × Int × Int) (m : SatMeas) (c : ClockPoly) (x : BandMeas) : Rat :=
  let tx : Rat := x.txA + (x.txB - x.txA) * tagPart e
  (d.tsc.o : Rat) * 1000 / (nsUnit : Rat) - taiOfTx d m.sys c tx - (m.range : Rat)
    - Config.tropoDelay (k == 3) m.elev p - delayOf d x.sig

/-- The observation of a satellite, referred to a position: the ionosphere-free combination, or L1 less the model's delay (R248, R253). -/
def obsOf (d : Dev) (k : Nat) (e : EpochIn) (p : Int × Int × Int) (m : SatMeas) : Obs :=
  let clk := ((ephOf d m.sys m.sv).bind (·.clk)).getD ⟨0, 0, 0⟩
  let y1 := signalObs d k e p m clk m.m1
  let y := match solDual d k, m.m5 with
    | true, some m5 => alpha1 * y1 - alpha5 * signalObs d k e p m clk m5
    | _, _ => y1 - ionoOf d m
  let c := fun (i : Int) => (i : Rat) / 1048576
  let shift := (c m.dx * (p.1 - e.pos.1 : Int) + c m.dy * (p.2.1 - e.pos.2.1 : Int) + c m.dz * (p.2.2 - e.pos.2.2 : Int)) * mmPs
  ⟨m, y + shift, c m.dx, c m.dy, c m.dz⟩

/-- The channels in TRACK that a solution takes a satellite from. -/
def chansOf (d : Dev) (k : Nat) (m : SatMeas) : List Nat :=
  (trackOf d m.m1.sig m.sv).toList ++ (if solDual d k then (m.m5.bind (fun x => trackOf d x.sig m.sv)).toList else [])

/-- A satellite serves a solution: its system, its signals in TRACK on the solution's bands, its ephemeris with a clock correction, above the mask, neither it nor its system excluded (R230, R234, R245, R248, R249, R265). -/
def satUsable (d : Dev) (k : Nat) (m : SatMeas) : Bool :=
  let serves := fun (x : BandMeas) (b : Nat) =>
    sigSys x.sig == m.sys && sigBand x.sig == b && bandOn d b && sigEnabled d x.sig && (trackOf d x.sig m.sv).isSome
  m.sys < 4 && (solSys d k).testBit m.sys && !fsExcluded d m.sys && !d.gns.fs5.contains (m.sys, m.sv)
    && ((ephOf d m.sys m.sv).bind (·.clk)).isSome && solMask d k < m.elev && serves m.m1 0
    && (if solDual d k then m.sys != 3 && (m.m5.map (serves · 1)).getD false else m.sys != 3 || glonassOk d)
    && (k != 3 || (m.m1.sig == 0 && (m.m5.map (·.sig)) == some 1))

/-! ### The fit (R254 to R256) -/

/-- A fit: clock in ps, its element of the inverse normal matrix, inter-system estimates, position shift in mm, residuals, systems on broadcast, satellites used and excluded, unknowns. -/
structure Fit where
  clock : Rat
  qbb   : Rat
  isb   : List (Nat × Rat)
  shift : Int × Int × Int
  obs   : List Obs
  res   : List Rat
  onBc  : List Nat
  excl  : List SatMeas
  unknowns : Nat

def countSys (l : List Obs) (s : Nat) : Nat := (l.filter (·.sat.sys == s)).length

/-- The broadcast offsets the device holds, by system (R255). -/
def bcList (d : Dev) : List (Nat × Option Int) := [1, 2, 3].map (fun s => (s, d.gns.offset.getD s none))

/-- Broadcast offset of a system, ps. -/
def bcOf (bc : List (Nat × Option Int)) (s : Nat) : Option Int := (bc.find? (·.1 == s)).bind (·.2)

/-- Systems whose offset is estimated: those with 2 satellites. Without a GPS satellite nothing ties the clock to GPS time but a broadcast offset: the first system that has one keeps it (DESIGN CHOICE). -/
def estSystems (l : List Obs) (bc : List (Nat × Option Int)) : List Nat :=
  let two := [1, 2, 3].filter (fun s => 2 ≤ countSys l s)
  if countSys l 0 != 0 then two
  else match [1, 2, 3].find? (fun s => countSys l s != 0 && (bcOf bc s).isSome) with
    | some s => two.filter (· != s)
    | none => []

/-- One fit of the satellites left: none where the unknowns are not determined; satellites of a system with neither estimate nor broadcast offset are out. -/
def fitOnce (bc : List (Nat × Option Int)) (withPos : Bool) (l0 : List Obs) : List Obs × Nat × Option (List Rat × List (List Rat) × List Rat × List Nat × List Nat) :=
  let est := estSystems l0 bc
  let l := l0.filter (fun o => o.sat.sys == 0 || est.contains o.sat.sys || (bcOf bc o.sat.sys).isSome)
  let onBc := [1, 2, 3].filter (fun s => !est.contains s && countSys l s != 0)
  let n := 1 + est.length + (if withPos then 3 else 0)
  let rows := l.map fun o =>
    let y : Rat := o.y + (if est.contains o.sat.sys then 0 else (((bcOf bc o.sat.sys).getD 0 : Int) : Rat))
    ((1 : Rat), (1 : Rat) :: (est.map (fun s => if o.sat.sys == s then -1 else 0))
      ++ (if withPos then [-o.dx * mmPs, -o.dy * mmPs, -o.dz * mmPs] else []), y)
  (l, n, (lsq rows n).map fun (x, q) => (x, q, rows.map (fun r => r.2.2 - dot r.2.1 x), est, onBc))

def absR (q : Rat) : Rat := if q < 0 then -q else q

/-- Index of the largest residual. -/
def worstIx (res : List Rat) : Nat :=
  (res.zipIdx.foldl (fun (b : Rat × Nat) x => if b.1 < absR x.1 then (absR x.1, x.2) else b) (-1, 0)).2

/-- T-RAIM (R256): fits, excluding the worst satellite while it exceeds the threshold. The answer is a fit, or the cause it failed with: 1 NSV, 2 TRAIM. -/
def traim (th maxEx minSv : Nat) (bc : List (Nat × Option Int)) (withPos : Bool) : Nat → List Obs → List SatMeas → Fit ⊕ (Nat × List SatMeas)
  | fuel, l0, out =>
    let (l, n, r) := fitOnce bc withPos l0
    if l.length < max minSv (n + 1) then .inr (1, out)
    else match r with
      | none => .inr (1, out)
      | some (x, q, res, est, onBc) =>
        let w := worstIx res
        if (th : Rat) < absR (res.getD w 0) then
          match fuel with
          | 0 => .inr (2, out)
          | f + 1 =>
            if out.length < maxEx then
              match l[w]? with
              | some o => traim th maxEx minSv bc withPos f (l.eraseIdx w) (out ++ [o.sat])
              | none => .inr (2, out)
            else .inr (2, out)
        else
          let m := 1 + est.length
          .inl ⟨x.getD 0 0, (q.getD 0 []).getD 0 0, (est.zipIdx).map (fun (s, i) => (s, x.getD (1 + i) 0)),
            (ratFloor (x.getD m 0 + 1 / 2), ratFloor (x.getD (m + 1) 0 + 1 / 2), ratFloor (x.getD (m + 2) 0 + 1 / 2)),
            l, res, onBc, out, n⟩

/-! ### Uncertainties (R254, R257) -/

/-- The least integer at or above √a + b, for a, b ≥ 0. -/
def ceilSqrtPlus (a b : Rat) : Nat :=
  let k := isqrt (ratFloor a).toNat + (ratFloor b).toNat
  ((List.range 4).find? (fun i => let m : Rat := (k + i : Nat); b ≤ m && a ≤ (m - b) * (m - b))).elim (k + 4) (k + ·)

/-- The frequency channel a satellite's L1-band channel tracks. -/
def fchOf (d : Dev) (m : SatMeas) : Int := ((trackOf d m.m1.sig m.sv).map (fun c => (chanOf d c).fch)).getD 0

/-- Near notches on the signals a fit uses (R263). -/
def nearNotches (d : Dev) (k : Nat) (l : List Obs) : Nat :=
  ((List.range 8).filter fun i =>
    let b := i / 4
    (solBands d k).contains b && l.any fun o =>
      if b == 0 then notchNear d 0 (i % 4) o.sat.m1.sig (fchOf d o.sat)
      else (o.sat.m5.map (fun x => notchNear d 1 (i % 4) x.sig 0)).getD false).length

/-- UNC, 2⁻¹⁶ ns, rounded up (R257). -/
def uncOf (d : Dev) (k : Nat) (f : Fit) (upos : Option Nat) : Nat :=
  let n : Rat := ((max 1 f.obs.length : Nat) : Rat)
  let ms2 := (f.res.map (fun r => r * r)).foldl (· + ·) 0 / n
  let s02 := if ms2 < 1000000 then 1000000 else ms2
  let unit : Rat := 65536 / 1000
  let bun := maxN (f.onBc.map (fun s => (ef d (GN_ISB_BUNC + 0x10 * (s - 1))).toNat))
  let b := (((upos.map posPs).getD 0) + ((nearNotches d k f.obs * (ef d GN_NOTCHUNC).toNat : Nat) : Rat)) * unit + (bun : Rat)
  satU 32 (ceilSqrtPlus (9 * s02 * f.qbb * unit * unit) b)

/-- PATHUNC in ps, rounded up (R254). -/
def pathUncOf (d : Dev) (k : Nat) (l : List Obs) : Nat :=
  let u := fun (sig : Nat) =>
    let b := sigBand sig
    ((ef d (bandKey GN_ANTUNC b)).toNat + (ef d (bandKey GN_RXUNC b)).toNat + (ef d (GN_SIGUNC + 8 * sig)).toNat : Nat)
  satU 32 (maxN (l.map fun o =>
    match solDual d k, o.sat.m5 with
    | true, some m5 => (ratCeil (alpha1 * (u o.sat.m1.sig : Rat) + alpha5 * (u m5.sig : Rat))).toNat
    | _, _ => u o.sat.m1.sig))

/-! ### False-signal checks before the fits (FS1, FS2) -/

/-- Six of a list within less than 1 dB of each other, in 0.1 dB. -/
def sixClose (l : List Int) : Bool :=
  let s := sortInt l
  (List.range (s.length - 5)).any (fun i => s.getD (i + 5) 0 - s.getD i 0 < 10)

def fs1 (e : EpochIn) (sys : Nat) : Bool :=
  let m := (e.sats.filter (·.sys == sys)).flatMap (fun x => x.m1 :: x.m5.toList)
  m.any (fun x => 550 < x.cn0)
    || (List.range 8).any (fun sig => sixClose ((m.filter (·.sig == sig)).map (fun x => (x.cn0 : Int))))

/-- A satellite's Doppler is more than 20 Hz from what its ephemeris, the held position and the solution's rate predict. -/
def dopplerOff (d : Dev) (s : Sol) (m : SatMeas) : Bool :=
  20 * 2 ^ 48 < (m.m1.rate - s.rate).natAbs * (sigHz m.m1.sig (fchOf d m)).toNat

def fs2 (d : Dev) (e : EpochIn) (sys : Nat) : Bool :=
  d.gns.sols.any (fun s => s.st == .hold && 3 ≤ (e.sats.filter (fun x => x.sys == sys && dopplerOff d s x)).length)

/-- Exclude a system until FSHOLD after this flagging, and log it (R265). -/
def flagSystem (d : Dev) (sys checks : Nat) : Dev :=
  if checks == 0 then d
  else
    let t := d.t + BitVec.ofNat 64 (eff d GN_FSCFG 15 0 * 1000000000)
    let d1 := { d with gns := { d.gns with
      fsUntil := upd d.gns.fsUntil sys (fun _ => some t), fsChecks := d.gns.fsChecks ||| checks } }
    logC d1 srcGnssFalsesig sys checks

/-- FS3: since when each non-GPS system's estimate has been out of its broadcast offset (R265). -/
def fs3Track (d : Dev) (isb : List (Nat × Rat)) (bc : List (Nat × Option Int)) : Dev :=
  let tol : Rat := (eff d GN_FSCFG 31 16 * 1000 : Nat)
  [1, 2, 3].foldl (fun d s =>
    let err : Option Rat := match isb.find? (·.1 == s), bcOf bc s with
      | some e, some b => some (e.2 - (b : Rat))
      | _, _ => none
    match err with
    | some x =>
      if tol < absR x then
        { d with gns := { d.gns with
            fs3From := upd d.gns.fs3From s (fun o => some (o.getD d.t)), fs3Err := upd d.gns.fs3Err s (fun _ => ratFloor x) } }
      else { d with gns := { d.gns with fs3From := upd d.gns.fs3From s (fun _ => none) } }
    | none => { d with gns := { d.gns with fs3From := upd d.gns.fs3From s (fun _ => none) } }) d

/-- FS3 flags the systems out for 60 s, or GPS where two or more agree. -/
def fs3Flag (d : Dev) : Dev :=
  let tol := eff d GN_FSCFG 31 16 * 1000
  let out := [1, 2, 3].filter fun s => match d.gns.fs3From.getD s none with
    | some t => decide (t.toNat + 60 * 1000 * ms ≤ d.t.toNat)
    | none => false
  let e := fun (s : Nat) => d.gns.fs3Err.getD s 0
  let agree := out.any (fun a => out.any (fun b => a < b && (0 < e a) == (0 < e b) && (e a - e b).natAbs ≤ tol))
  if agree then flagSystem d 0 4 else out.foldl (fun d s => flagSystem d s 4) d

/-! ### Publishing -/

/-- The inter-system registers (R255). -/
def putIsb (d : Dev) (f : Option Fit) (bc : List (Nat × Option Int)) : Dev :=
  [1, 2, 3].foldl (fun d s =>
    let o := 0x10 * (s - 1)
    let to16 := fun (q : Rat) => loW (ratNearest (q * 65536 / 1000))
    let est := f.bind (fun f => f.isb.find? (·.1 == s))
    let d1 := match est with
      | some e => setReg d (GN_ISB_EST + o) (to16 e.2)
      | none => d
    let d2 := match bcOf bc s with
      | some b => setReg d1 (GN_ISB_BC + o) (to16 (b : Rat))
      | none => d1
    setReg d2 (GN_ISB_STAT + o) (w32 (b2n est.isSome + 2 * b2n (bcOf bc s).isSome + 4 * b2n (d2.gns.fs3From.getD s none).isSome))) d

/-- A SOL record (Table 11.10). -/
def solBytes (d : Dev) (k : Nat) (s : Sol) : List Byte :=
  let st := match s.st with
    | .disabled => 0
    | .noFix => 1
    | .survey => 2
    | .hold => 3
    | .withdrawn => 4
  leBytes 8 d.t.toNat ++ leBytes 8 (secOf d.tsc.o) ++ leBytes 4 (nsOf d.tsc.o) ++ zeros 4
    ++ leBytes 8 (BitVec.ofInt 64 s.delta).toNat ++ leBytes 8 (BitVec.ofInt 64 s.rate).toNat
    ++ leBytes 4 s.unc ++ leBytes 4 s.pathUnc ++ leBytes 1 (24 + k) ++ leBytes 1 st ++ leBytes 1 s.nsv ++ leBytes 1 s.nexcl
    ++ leBytes 2 s.sysUsed ++ leBytes 2 s.sflags ++ leBytes 1 (if s.st == .withdrawn then s.wcause else 0) ++ zeros 7

def solRecord (d : Dev) (k : Nat) : Dev :=
  if rgb d GN_RINGS 30 then
    let (d1, ok) := deliver d (rgf d GN_RINGS 13 8) 6 (solBytes d k (solOf d k))
    if ok then d1 else countUp d1 GN_SOLDROP 31 0 1
  else d

/-- The monitor of a solution learns of its validity: REF24–27 with KIND GNSS (R259). -/
def solValid (d : Dev) (k : Nat) (v : Bool) : Dev :=
  let d1 := updSol d k fun s => { s with valid := v }
  if kindOf d1 (24 + k) != 7 then d1
  else if v then refPresent d1 (24 + k) else refLoss d1 (24 + k) 3

/-- Withdraw a solution (R260). -/
def withdraw (d : Dev) (k cause : Nat) : Dev :=
  let d1 := updSol d k fun s => { s with st := .withdrawn, wcause := cause, clean := 0, lastT := none, shifts := [] }
  let d2 := countUp (logC d1 srcGnssWithdraw k cause) (solKey SOL_EVT k) 23 12 1
  solValid d2 k false

/-! ### Survey (R251) -/

/-- U_pos of a survey's mean: 3 standard errors, epochs independent at 30 s, at least 0.5 m. -/
def surveyUnc (s : Sol) : Nat :=
  let n : Rat := ((max 1 s.surveyN : Nat) : Rat)
  let m := fun (i : Int) => (i : Rat) / n
  let v := (s.surveySq : Rat) / n - m s.surveySum.1 * m s.surveySum.1 - m s.surveySum.2.1 * m s.surveySum.2.1
    - m s.surveySum.2.2 * m s.surveySum.2.2
  let indep : Rat := ((max 1 s.surveyTenths : Nat) : Rat) / 300
  max 500 (ratSqrtUp (9 * v / indep))

/-- An epoch of a survey adds its position; at SURVEY_TIME the mean is held and stored (R246, R251). -/
def surveyStep (d : Dev) (k : Nat) (p : Int × Int × Int) : Dev :=
  let d1 := updSol d k fun s => { s with
    surveyTenths := s.surveyTenths + 10 / epochRate d k, surveyN := s.surveyN + 1,
    surveySum := (s.surveySum.1 + p.1, s.surveySum.2.1 + p.2.1, s.surveySum.2.2 + p.2.2),
    surveySq := s.surveySq + p.1 * p.1 + p.2.1 * p.2.1 + p.2.2 * p.2.2 }
  let s := solOf d1 k
  if eff d1 GN_POSCFG 31 8 * 10 ≤ s.surveyTenths then
    let m := fun (i : Int) => roundDiv i (max 1 s.surveyN)
    let pos := (m s.surveySum.1, m s.surveySum.2.1, m s.surveySum.2.2, surveyUnc s)
    let d2 := updSol d1 k fun s => { s with st := .hold, pos := some pos, posBad := false,
                                            surveyTenths := 0, surveyN := 0, surveySum := (0, 0, 0), surveySq := 0 }
    gnssStore { d2 with gns := { d2.gns with posDue := some pos } } 4
  else d1

/-! ### One solution at an epoch (R250 to R261) -/

/-- The lowest cause of Table 11.7 that holds; `failed`: the cause a fit failed with, 0 where it did not or none was made. -/
def withdrawCause (d : Dev) (k failed unc : Nat) (jump : Bool) : Option Nat :=
  if failed == 1 then some 1 else if failed == 2 then some 2
  else if (solBands d k).any (jnWithdraws d) then some 3
  else if (ef d GN_UNCMAX).toNat < unc then some 4
  else if jump then some 5
  else if (solOf d k).posBad && posMode d == 1 then some 6
  else if d.gns.gclkF then some 7
  else none

/-- Mark the channels of a fit. -/
def markChans (d : Dev) (k : Nat) (l : List SatMeas) (f : GnsChan → GnsChan) : Dev :=
  l.foldl (fun d m => (chansOf d k m).foldl (fun d c => updCh d c f) d) d

/-- FS4 (Table 11.8). -/
def jumped (s : Sol) (t : Tick) (delta rate : Int) (unc : Nat) : Bool :=
  match s.st, s.lastT with
  | .hold, some l =>
    decide ((3 * (unc + s.unc : Nat) : Rat) < absR ((delta - s.delta : Int) - (rate : Rat) * ((t - l).toNat : Rat) / (2 : Rat) ^ 32))
  | _, _ => false

/-- The position shift that a fit's residuals ask for, kept for 600 s (R252). -/
def noteShift (d : Dev) (k : Nat) (f : Fit) : Dev :=
  match (fitOnce (bcList d) true f.obs).2.2 with
  | some (x, _, _, est, _) =>
    let m := 1 + est.length
    let r := fun (i : Nat) => ratFloor (x.getD (m + i) 0 + 1 / 2)
    updSol d k fun s => { s with
      shifts := (d.t, r 0, r 1, r 2) :: s.shifts.filter (fun y => decide (d.t.toNat < y.1.toNat + 600 * 1000 * ms)) }
  | none => d

/-- The state a solution takes when its fit is good (Table 11.6). -/
def afterGood (d : Dev) (k : Nat) (e : EpochIn) (f : Fit) : Dev :=
  let s := solOf d k
  let held := (heldPos d k).isSome
  match s.st with
  | .noFix => solValid (updSol d k fun s => { s with st := if held then .hold else .survey }) k true
  | .survey =>
    if posMode d == 1 && held then updSol d k fun s => { s with st := .hold }
    else surveyStep d k (e.pos.1 + f.shift.1, e.pos.2.1 + f.shift.2.1, e.pos.2.2 + f.shift.2.2)
  | .withdrawn =>
    if 10 ≤ s.clean + 1 then
      solValid (updSol d k fun s => { s with st := if held then .hold else .survey, clean := 0 }) k true
    else updSol d k fun s => { s with clean := s.clean + 1 }
  | .hold => noteShift d k f
  | .disabled => d

/-- A condition of Table 11.7 holds: a solution in service is withdrawn, another's clean epochs start anew. -/
def condition (d : Dev) (k cause : Nat) : Dev :=
  if (solOf d k).st == .survey || (solOf d k).st == .hold then withdraw d k cause
  else updSol d k fun s => { s with clean := 0 }

/-- SFLAGS of an epoch before its fit: DUAL, LEAPUNK, FS (Table 11.10). -/
def epochFlags (d : Dev) (k : Nat) : Nat :=
  2 * b2n (solDual d k) + 4 * b2n (d.gns.leapSrc == 0)
    + 16 * b2n ((List.range 4).any (fun y => (solSys d k).testBit y && fsExcluded d y))

/-- An epoch without a fit: it failed with NSV or TRAIM, or none was made for want of samples (R230, R256). -/
def epochFails (d : Dev) (k failed nexcl : Nat) : Dev :=
  let d1 := updSol d k fun s => { s with nsv := 0, nexcl := nexcl, sysUsed := 0, sflags := epochFlags d k, clean := 0 }
  match withdrawCause d1 k failed 0 false with
  | some c => condition d1 k c
  | none => d1

/-- RATE: the mean of the satellites' (DEDUCED, log 53); its rounding is free (log 2). -/
def solRate (d : Dev) (l : List Obs) : Int × Dev := freeDiv d (sumI (l.map (·.sat.m1.rate))) l.length

/-- What a fit publishes: DELTA, RATE, UNC, PATHUNC and the counts of the epoch (R254, R257, R261). -/
def publishFit (d : Dev) (k : Nat) (f : Fit) (upos : Option Nat) : Dev × Bool :=
  let s := solOf d k
  let (rate, d1) := solRate (markChans d k (f.obs.map (·.sat)) (fun c => { c with inSol := true })) f.obs
  let unc := uncOf d1 k f upos
  let delta := ratNearest (-f.clock * 65536 / 1000)
  let jump := jumped s d1.t delta rate unc
  let sysUsed := (List.range 4).foldl (fun m y => if countSys f.obs y != 0 then m + 2 ^ y else m) 0
  let d2 := updSol d1 k fun s => { s with
    delta := delta, rate := rate, unc := unc, pathUnc := pathUncOf d1 k f.obs, nsv := f.obs.length, nexcl := f.excl.length,
    sysUsed := sysUsed, lastT := some d1.t, isb := f.isb.map (fun x => (x.1, ratNearest x.2)),
    sflags := epochFlags d k + 8 * b2n (nearNotches d1 k f.obs != 0) + 32 * b2n (!f.onBc.isEmpty) }
  (if jump then { d2 with gns := { d2.gns with fsChecks := d2.gns.fsChecks ||| 8 } } else d2, jump)

/-- A valid solution's reference is measured: its TAI at the epoch is TS-O plus DELTA (R147, R250, R261). -/
def measureSol (d : Dev) (k : Nat) : Dev :=
  if (solOf d k).valid && kindOf d (24 + k) == 7 then
    measurePoint d (24 + k) 0 ((d.tsc.o : Rat) / (2 ^ 32 : Rat) + ((solOf d k).delta : Rat))
  else d

/-- A solution's epoch; the fit is handed on for the inter-system registers. -/
def solEpoch (d : Dev) (k : Nat) (e : EpochIn) : Dev × Option Fit :=
  let s := solOf d k
  if s.st == .disabled then (d, none)
  else if d.gns.gclkF then (solRecord (epochFails d k 0 0) k, none)
  else
    let pos := if s.st == .survey && posMode d != 1 then none else heldPos d k
    let p := match pos with
      | some (x, y, z, _) => (x, y, z)
      | none => e.pos
    let obs := (e.sats.filter (satUsable d k)).map (obsOf d k e p)
    let r := traim (solTh d k) (solMaxEx d k) (solMinSv d k) (bcList d) pos.isNone obs.length obs []
    let excl := match r with
      | .inl f => f.excl
      | .inr (_, l) => l
    let d1 := countUp (markChans d k excl (fun c => { c with excl := true })) (solKey SOL_EVT k) 11 0 excl.length
    match r with
    | .inr (c, _) => (solRecord (epochFails d1 k c excl.length) k, none)
    | .inl f =>
      let (d2, jump) := publishFit d1 k f (if s.st == .survey || pos.isNone then none else pos.map (·.2.2.2))
      let d3 := match withdrawCause d2 k 0 (solOf d2 k).unc jump with
        | some c => condition d2 k c
        | none => afterGood d2 k e f
      let d4 := updSol (measureSol d3 k) k fun s => { s with sflags := s.sflags + b2n s.valid }
      (solRecord d4 k, some f)

/-- The period of a solution's epochs in TS-O, 2⁻⁴⁸ ns. -/
def epochPer (d : Dev) (k : Nat) : Nat := secUnit / epochRate d k

/-- The epoch instant that falls on the TCLK of the last Bell, if that is now (Table 11.11). -/
def bellEpochNow (d : Dev) : Option Nat := if d.t == d.tsc.lastBellT then d.gns.bellEpoch else none

/-- TS-O at the next epoch instant; one that has been made is not made again after a negative step (R41, R250). -/
def epochNext (d : Dev) : Nat :=
  let per := epochPer d 0
  let cur := d.tsc.o / per * per
  if d.gns.epochV < cur && d.tsc.o - cur < incOf d.tsc.oF then cur else max (cur + per) ((d.gns.epochV / per + 1) * per)

/-- An epoch (R250): the checks, then each solution that has an epoch now. -/
def solutionEpoch (d : Dev) (e : EpochIn) : Dev :=
  if !gnsRuns d then d
  else
    let v := (bellEpochNow d).getD (d.tsc.o / epochPer d 0 * epochPer d 0)
    let d0 := { d with gns := { d.gns with
      tag := tagBefore d e, epochV := max d.gns.epochV v, bellEpoch := none,
      fsChecks := if d.gns.fs5Flag then 16 else 0, fs5Flag := false,
      chans := d.gns.chans.map (fun c => { c with inSol := false, excl := false }) } }
    let d1 := if d.gns.gclkF then d0 else (List.range 4).foldl (fun d y => flagSystem d y (b2n (fs1 e y) + 2 * b2n (fs2 d0 e y))) d0
    let ks := (List.range 4).filter (fun k => k != 3 || v % secUnit == 0)
    let (d2, fits) := ks.foldl (fun (s : Dev × List Fit) k =>
      let (d', f) := solEpoch s.1 k e
      (d', match f with
        | some x => s.2 ++ [x]
        | none => s.2)) (d1, [])
    let isb := (fits.head?.map (·.isb)).getD []
    putIsb (fs3Flag (fs3Track d2 isb (bcList d2))) fits.head? (bcList d2)

/-! ### The Bell's part of GNS -/

/-- SOL_CFG.EN takes effect (Table 11.6). -/
def solEnables (d : Dev) : Dev :=
  (List.range 4).foldl (fun d k =>
    let s := solOf d k
    if gnsRuns d && solEn d k then (if s.st == .disabled then updSol d k (fun x => { x with st := .noFix }) else d)
    else if s.st == .disabled then d
    else updSol (if s.valid then solValid d k false else d) k (fun _ => {})) d

/-- A block reset is released; after one of GNS the enabled solutions stand in NOFIX (Table 11.6). -/
def resetReleased (d : Dev) : Dev :=
  let d1 := blockResetRelease d
  if (d.gen.rst.map (·.target)) == some 12 then solEnables d1 else d1

/-- The staged position has taken effect: a solution stopped for POSERR goes on (R252). -/
def posWritten (d : Dev) : Dev :=
  if posMode d == 1 then { d with gns := { d.gns with sols := d.gns.sols.map (fun s => { s with posBad := false }) } } else d

/-- The position error of a solution, the length of the mean shift of the last 600 s, exceeds 3·U_pos + 1 m (R252; the mean is a DESIGN CHOICE, log 53). -/
def posErrHigh (d : Dev) (k u : Nat) : Bool :=
  let l := (solOf d k).shifts.filter (fun y => decide (d.t.toNat < y.1.toNat + 600 * 1000 * ms))
  let sq := fun (g : Tick × Int × Int × Int → Int) => (sumI (l.map g)) ^ 2
  ((3 * u + 1000) * l.length : Nat) ^ 2 < (sq (·.2.1) + sq (·.2.2.1) + sq (·.2.2.2)).toNat

/-- The Bell's check of the position errors (R252). -/
def posErrBell (d : Dev) : Dev :=
  (List.range 4).foldl (fun d k =>
    match heldPos d k with
    | some (_, _, _, u) =>
      if (solOf d k).st == .hold && posErrHigh d k u then
        updSol (withdraw d k 6) k fun s => { s with posBad := true, pos := none }
      else d
    | none => d) d

/-- Epoch instants of TS-O that a positive step from v0 passes over are not made (R41, R250); one that fell on the Bell's own TCLK is (Table 11.11). -/
def epochSkips (d : Dev) (v0 : Nat) : Dev :=
  let own := v0 / epochPer d 0 * epochPer d 0
  let fresh := d.gns.epochV < own && v0 - own < incOf d.tsc.oF
  let d1 := (List.range 4).foldl (fun d k =>
    let from_ := max v0 d.gns.epochV / epochPer d k
    if (solOf d k).st != .disabled && v0 < d.tsc.o && from_ < (d.tsc.o - 1) / epochPer d k then
      countUp d (solKey SOL_EVT k) 31 24 ((d.tsc.o - 1) / epochPer d k - from_) else d) d
  { d1 with gns := { d1.gns with
      bellEpoch := if fresh then some own else none,
      epochV := if v0 < d.tsc.o then max d1.gns.epochV ((d.tsc.o - 1) / epochPer d 0 * epochPer d 0) else d1.gns.epochV } }

/-- What the channels in TRACK measure. -/
def chanBell (d : Dev) (l : List ChanIn) : Dev :=
  l.foldl (fun d x => if (chanOf d x.ch).st == .track then updCh d x.ch (fun c => { c with cn0 := x.cn0, doppler := x.dop, corr := x.corr }) else d) d

/-- Everything a Bell does in GNS, once its staged writes are in effect. -/
def gnsBell (d : Dev) (inp : BellIn) : Dev :=
  let d0 := solEnables d
  if !gnsRuns d0 then d0
  else
    let d1 := chanBell (gclkBell d0 inp.gclkHz inp.gclkGap) inp.chans
    let d2 := [0, 1].foldl (fun d b => jnBand d b inp.bands inp.chans) d1
    let d3 := storeRetries (posErrBell d2)
    if chAuto d3 then (if d3.bellCnt.toNat % 10 == 0 then allocate d3 inp.cands else d3) else hostAssign d3

end Sys2Proof.Machine
end

