-- ==== Sys2Proof/Machine/Frame.lean ====
section
/-! DEFINITION. Frames as bytes: headers, checksums, PTP encapsulation, one-step insertion, authentication, NTP timestamps (R287, R295 to R305, R307, R320, R324). -/
namespace Sys2Proof.Machine
open Sys2Proof

/-- Replace bytes of a frame from an offset. -/
def patch (l : List Byte) (o : Nat) (b : List Byte) : List Byte := l.take o ++ b ++ l.drop (o + b.length)

/-! ### Headers -/

/-- VLAN TCI of a tagged frame. -/
def frameTci (b : List Byte) : Option Nat := if beAt b 12 2 == 0x8100 then some (beAt b 14 2) else none

/-- Offset of the payload after the EtherType, and the EtherType. -/
def etherOfs (b : List Byte) : Nat := if (frameTci b).isSome then 18 else 14
def etherType (b : List Byte) : Nat := beAt b (etherOfs b - 2) 2

/-- A UDP datagram in a frame: whether over IPv6, offset of the IP and the UDP header, addresses as 16 bytes, whether it has options or is a fragment. -/
structure UdpAt where
  v6    : Bool
  ip    : Nat
  udp   : Nat
  src   : List Byte
  dst   : List Byte
  plain : Bool

/-- An IPv4 address as ::FFFF:a.b.c.d. -/
def v4Mapped (a : List Byte) : List Byte := zeros 10 ++ [0xFF, 0xFF] ++ a

def udpOf (b : List Byte) : Option UdpAt :=
  let o := etherOfs b
  if etherType b == 0x0800 && beAt b (o + 9) 1 == 17 then
    let h := beAt b o 1 % 16 * 4
    some ⟨false, o, o + h, v4Mapped (slice b (o + 12) 4), v4Mapped (slice b (o + 16) 4), h == 20 && beAt b (o + 6) 2 % 0x4000 == 0⟩
  else if etherType b == 0x86DD && beAt b (o + 6) 1 == 17 then
    some ⟨true, o, o + 40, slice b (o + 8) 16, slice b (o + 24) 16, true⟩
  else none

/-- UDP destination port and payload. -/
def udpPort (b : List Byte) (u : UdpAt) : Nat := beAt b (u.udp + 2) 2
def udpPayload (b : List Byte) (u : UdpAt) : List Byte := slice b (u.udp + 8) (beAt b (u.udp + 4) 2 - 8)

/-! ### Checksums -/

/-- 16-bit one's-complement sum, folded. -/
def sum16 (l : List Byte) : Nat :=
  let s := (List.range ((l.length + 1) / 2)).foldl (fun a i => a + beNat (padTo 2 (slice l (2 * i) 2))) 0
  if s == 0 then 0 else (s - 1) % 65535 + 1

/-- The UDP checksum of a datagram: pseudo header and datagram with its checksum field zero (R301). -/
def udpSum (v6 : Bool) (src dst udp : List Byte) : Nat :=
  let a := fun (x : List Byte) => if v6 then x else x.drop 12
  let c := 65535 - sum16 (a src ++ a dst ++ beBytes 4 17 ++ beBytes 4 udp.length ++ patch udp 6 [0, 0])
  if c == 0 then 65535 else c

/-- Recompute the UDP checksum of a frame; any other frame is left as it is. -/
def fixUdp (b : List Byte) : List Byte :=
  match udpOf b with
  | some u => patch b (u.udp + 6) (beBytes 2 (udpSum u.v6 u.src u.dst (slice b u.udp (beAt b (u.udp + 4) 2))))
  | none => b

/-- The checksum of a received UDP datagram is valid or, for IPv4, zero (R322). -/
def udpOk (b : List Byte) (u : UdpAt) : Bool :=
  let c := beAt b (u.udp + 6) 2
  (c == 0 && !u.v6) || c == udpSum u.v6 u.src u.dst (slice b u.udp (beAt b (u.udp + 4) 2))

/-- A frame with its FCS, as it crosses the wire. -/
def withFcs (b : List Byte) : List Byte := b ++ leBytes 4 (crc32 b).toNat

/-- A frame shorter than 60 bytes is padded with zero bytes (R356). -/
def padFrame (b : List Byte) : List Byte := if b.length < 60 then padTo 60 b else b

/-! ### Times -/

/-- Seconds, nanoseconds and fraction of a time in 2⁻¹⁶ ns. -/
def tSec (v : Nat) : Nat := v / (65536 * 1000000000)
def tNs (v : Nat) : Nat := v / 65536 % 1000000000
def tFrac (v : Nat) : Nat := v % 65536

/-- A stamp as completions carry it: TS_SEC, TS_NS, TS_FRAC (Tables 15.7, 15.8). -/
def stampBytes (v : Nat) : List Byte := leBytes 8 (tSec v) ++ leBytes 4 (tNs v) ++ leBytes 2 (tFrac v)

/-- Picoseconds in 2⁻¹⁶ ns. -/
def psTo16 (p : Int) : Int := roundDiv (p * 65536) 1000

/-- TAI − UTC: GN_LEAP while VALID, else PT_UTC while VALID (R312, R324). -/
def utcOffset (d : Dev) : Option Int :=
  if d.gns.leapSrc != 0 then some d.gns.leap
  else if rgb d PT_UTC 31 then some (sext 16 (rgf d PT_UTC 15 0))
  else none

/-- An NTP timestamp of a scale value in 2⁻¹⁶ ns, with TAI − UTC = Δ (R324). -/
def ntpWith (d : Dev) (delta : Int) (v : Nat) : Nat :=
  let s := tSec v
  let s1 : Int := match d.gns.leapNext with
    | some (t, some n) => if d.gns.leapSrc != 0 && delta < n && s + 1 == t then (s : Int) - 1 else s
    | _ => s
  let f := ratNearest ((((tNs v * 65536 + tFrac v : Nat) : Rat) * 4294967296) / (65536000000000 : Rat))
  (((s1 - delta + 2208988800) * 4294967296 + f) % 18446744073709551616).toNat

/-- The same with the Δ in force; where neither source is valid the spec states no value: a free one (log 2). -/
def ntpOf (d : Dev) (v : Nat) : Nat × Dev :=
  match utcOffset d with
  | some u => (ntpWith d u v, d)
  | none => drawBelow d (2 ^ 64)

/-! ### Stamps of a port (R295 to R298) -/

/-- TXDLY and RXDLY in effect, 2⁻¹⁶ ns: 0 while the record is not valid. -/
def txDly (d : Dev) (p : Nat) : Int := let c : PortCal := d.ptp.cals.getD p {}; if c.valid then psTo16 c.tx else 0
def rxDly (d : Dev) (p : Nat) : Int := let c : PortCal := d.ptp.cals.getD p {}; if c.valid then psTo16 c.rx else 0

/-- The scale of a port's stamps now, 2⁻¹⁶ ns. -/
def portNow (d : Dev) (p : Nat) : Nat := stampOf (scaleVal d (stampScale d 7 p))

/-- The receive stamp of a frame whose timestamp point passes now; `sub` is its place in the TCLK as the unit finds it, with its tap delay (R26). -/
def rxStamp (d : Dev) (p sub : Nat) : Nat := ((portNow d p : Int) + sub - rxDly d p - tapOf d p).toNat

/-- One bit at a port, ps (Table 12.1). -/
def bitPs (d : Dev) (p : Nat) : Nat :=
  match portSpeed d p with
  | 1 => 10
  | 2 => 20
  | 3 => 40
  | 4 => 100
  | _ => 1000

/-- Preamble and start delimiter, 2⁻¹⁶ ns. -/
def preamble (d : Dev) (p : Nat) : Int := psTo16 ((64 * bitPs d p : Nat) : Int)

/-- Time on the wire of a frame without its FCS: preamble, FCS and inter-packet gap added, ps. -/
def wirePs (d : Dev) (p len : Nat) : Nat := (len + 24) * 8 * bitPs d p

/-! ### One-step insertion (R301, R302, R324) -/

/-- A PTP message at `o` of a frame takes its departure instant; `base` is the receive stamp of a Pdelay_Req. -/
def insertPtp (b : List Byte) (o : Nat) (t : Nat) (base : Option Int) : List Byte :=
  let corr := sext 64 (beAt b (o + 8) 8) + tFrac t + (match base with
    | some x => (t : Int) - x
    | none => 0)
  patch (patch b (o + 34) (beBytes 6 (tSec t) ++ beBytes 4 (tNs t))) (o + 8) (beBytes 8 (BitVec.ofInt 64 corr).toNat)

/-- Apply an insertion to a frame that departs at t: 0 PTP, 1 NTP. -/
def insertStamp (d : Dev) (f : TxFrame) (t : Nat) : List Byte × Dev :=
  match f.insert with
  | some (0, o) => (fixUdp (insertPtp f.bytes o t f.base), d)
  | some (_, o) =>
    let (n, d1) := ntpOf d t
    (fixUdp (patch f.bytes (o + 40) (beBytes 8 n)), d1)
  | none => (f.bytes, d)

/-! ### Domain entries (R308, R320) -/

def domKey (k e : Nat) : Nat := k + e * 0x40
def domEntry (d : Dev) (e : Nat) : DomEntry := d.ptp.entries.getD e {}

/-- TRANSPORT as the profile allows it (Table 13.2). -/
def domTransport (d : Dev) (e : Nat) : Nat :=
  let t := eff d (domKey PT_DCFG e) 1 0
  match (domEntry d e).profile with
  | 2 | 6 => 0
  | 3 => if t == 2 then 2 else 1
  | 4 | 5 => 1
  | _ => if t == 3 then 0 else t

def domP2p (d : Dev) (e : Nat) : Bool :=
  match (domEntry d e).profile with
  | 1 => efb d (domKey PT_DCFG e) 2
  | 6 => true
  | _ => false

def domUni (d : Dev) (e : Nat) : Bool :=
  match (domEntry d e).profile with
  | 1 | 4 => efb d (domKey PT_DCFG e) 3
  | 3 => true
  | _ => false

def domTwo (d : Dev) (e : Nat) : Bool := efb d (domKey PT_DCFG e) 4
def domAuth (d : Dev) (e : Nat) : Bool := efb d (domKey PT_DCFG e) 5
def domAcc (d : Dev) (e : Nat) : Bool := efb d (domKey PT_DCFG e) 6

def holdI (lo hi v : Int) : Int := max lo (min hi v)

/-- Limits of LOGSYNC and LOGANN of a profile. -/
def syncLimits (p : Nat) : Int × Int :=
  match p with
  | 2 => (-4, -4)
  | 3 => (-7, 0)
  | 4 => (-7, -1)
  | 5 => (-4, 1)
  | 6 => (-7, 0)
  | _ => (-7, 1)

def annLimits (p : Nat) : Int × Int :=
  match p with
  | 2 => (-3, -3)
  | 3 => (-3, 0)
  | 4 => (-3, 1)
  | 5 => (0, 4)
  | 6 => (0, 0)
  | _ => (-3, 4)

def domLogSync (d : Dev) (e : Nat) : Int :=
  let l := syncLimits (domEntry d e).profile
  holdI l.1 l.2 (sext 8 (eff d (domKey PT_DCFG e) 15 8))

def domLogAnn (d : Dev) (e : Nat) : Int :=
  let l := annLimits (domEntry d e).profile
  holdI l.1 l.2 (sext 8 (eff d (domKey PT_DCFG e) 23 16))

def domLogReq (d : Dev) (e : Nat) : Int := sext 8 (eff d (domKey PT_DCFG e) 31 24)

/-! ### Authentication (R305) -/

/-- The Crier-auth working key, if it holds one. -/
def crierKey (d : Dev) : Option (List Byte) :=
  let w : WorkKey := d.key.work.getD 1 {}
  if w.node.isSome && !w.orph then some w.key else none

/-- The TLV's part before its ICV: type, length, SPP, parameters, key ID. -/
def authHead (spp keyId : Nat) : List Byte := beBytes 2 0x8009 ++ beBytes 2 22 ++ beBytes 1 spp ++ [0] ++ beBytes 4 keyId

def icvOf (key msg : List Byte) : List Byte := beBytes 16 ((Config.hmac256 key msg).toNat / 2 ^ 128)

/-- A message with its authentication TLV and its messageLength set. -/
def authMsg (d : Dev) (key msg : List Byte) : List Byte :=
  let m := patch msg 2 (beBytes 2 (msg.length + 26)) ++ authHead (rgf d PT_AUTH 15 8) (rgf d PT_AUTH 7 0)
  m ++ icvOf key m

/-- Verification of a received message: its last TLV is the authentication TLV, the SPP is PT_AUTH's, the ICV is that of all that stands before it (R305). -/
def authOk (d : Dev) (key msg : List Byte) : Bool :=
  let o := msg.length - 26
  60 ≤ msg.length && slice msg o 4 == (authHead 0 0).take 4 && beAt msg (o + 4) 1 == rgf d PT_AUTH 15 8
    && slice msg (o + 10) 16 == icvOf key (msg.take (o + 10))

/-! ### Encapsulation (R307, Table 13.1) -/

/-- Station address of a port: octets 0 to 5. -/
def macAddr (d : Dev) (p : Nat) : List Byte :=
  beBytes 2 (rgf d (macReg p 0x1C) 15 0) ++ beBytes 4 (rg d (macReg p 0x18)).toNat

def tolIp (d : Dev) (n : Nat) : List Byte := (List.range 4).flatMap (fun i => leBytes 4 (rg d (TOL_IP_ADDR + n * 0x20 + 4 * i)).toNat)
def isV4 (a : List Byte) : Bool := a.take 12 == zeros 10 ++ [0xFF, 0xFF]

/-- A port's IP addresses: the address table's entries for it. -/
def portIps (d : Dev) (p : Nat) : List (List Byte) :=
  ((List.range 16).filter (fun n =>
    let w := rg d (TOL_IP_CFG + n * 0x20)
    bit w 31 && bit w (16 + p))).map (tolIp d)

/-- Multicast destinations: Ethernet, IPv4, IPv6; non-peer and peer. -/
def ethMulti (fwd peer : Bool) : List Byte := if fwd && !peer then [0x01, 0x1B, 0x19, 0, 0, 0] else [0x01, 0x80, 0xC2, 0, 0, 0x0E]
def ip4Multi (peer : Bool) : List Byte := if peer then [224, 0, 0, 107] else [224, 0, 1, 129]
def ip6Multi (peer : Bool) : List Byte :=
  (if peer then [0xFF, 0x02] else [0xFF, 0x0E]) ++ zeros 12 ++ (if peer then [0, 0x6B] else [0x01, 0x81])

/-- A PTP message in its frame for a domain entry: to a client's address (as Table 13.8 carries it) or, with none, the multicast address. What Table 13.1 leaves open of the headers (the MAC address behind an IP address, identification, time to live) is free (log 2). The answer gives the frame and the offset of the PTP header. -/
def encapPtp (d : Dev) (e : Nat) (dest : Option (List Byte)) (peer event : Bool) (msg : List Byte) : List Byte × Nat × Dev :=
  let x := domEntry d e
  let p := x.port
  let w := rg d (domKey PT_DVLAN e)
  let tag := if bit w 31 then beBytes 2 0x8100 ++ beBytes 2 (bits w 15 13 * 2 ^ 13 + bits w 11 0) else []
  let port := if event then 319 else 320
  match domTransport d e with
  | 0 =>
    let dst := match dest with
      | some a => a.take 6
      | none => ethMulti (efb d (domKey PT_DCFG e) 7 && x.profile != 6) peer
    let head := dst ++ macAddr d p ++ tag ++ beBytes 2 0x88F7
    (head ++ msg, head.length, d)
  | t =>
    let v6 := t == 2
    let (fr, d1) := drawBytes d 9
    let src := ((portIps d p).find? (fun a => isV4 a != v6)).getD (if v6 then zeros 16 else v4Mapped (zeros 4))
    let dst := match dest with
      | some a => a
      | none => if v6 then ip6Multi peer else v4Mapped (ip4Multi peer)
    let mac := match dest with
      | some _ => fr.take 6
      | none => if v6 then [0x33, 0x33] ++ dst.drop 12 else [0x01, 0x00, 0x5E, dst.getD 13 0 &&& 0x7F] ++ dst.drop 14
    let len := 8 + msg.length
    let udp := beBytes 2 port ++ beBytes 2 port ++ beBytes 2 len ++ [0, 0] ++ msg
    let ttl := fr.drop 8
    let ip := if v6 then beBytes 4 0x60000000 ++ beBytes 2 len ++ [17] ++ ttl ++ src ++ dst
      else
        let h := [0x45, 0x00] ++ beBytes 2 (20 + len) ++ slice fr 6 2 ++ [0, 0] ++ ttl ++ [17, 0, 0] ++ src.drop 12 ++ dst.drop 12
        patch h 10 (beBytes 2 (65535 - sum16 h))
    let head := mac ++ macAddr d p ++ tag ++ beBytes 2 (if v6 then 0x86DD else 0x0800)
    (fixUdp (head ++ ip ++ udp), head.length + ip.length + 8, d1)

/-! ### PRP trailers (R287, R289) -/

/-- A frame with its redundancy control trailer. -/
def addTrailer (b : List Byte) (seq lan : Nat) : List Byte :=
  let c := if b.length < 54 then padTo 54 b else b
  c ++ beBytes 2 seq ++ beBytes 2 (lan * 4096 + (c.length - etherOfs c + 6) % 4096) ++ [0x88, 0xFB]

/-- The trailer of a received frame without its FCS: sequence number and LAN, where it is valid. -/
def trailerOf (b : List Byte) : Option (Nat × Nat) :=
  let o := b.length - 6
  let lan := beAt b (o + 2) 2 / 4096
  if 20 ≤ b.length && slice b (o + 4) 2 == [0x88, 0xFB] && (lan == 10 || lan == 11)
      && beAt b (o + 2) 2 % 4096 == (b.length - etherOfs b) % 4096 then some (beAt b o 2, lan)
  else none

/-- PTP frames: EtherType 0x88F7, or UDP to port 319 or 320 (R307). -/
def ptpOfs (b : List Byte) : Option Nat :=
  if etherType b == 0x88F7 then some (etherOfs b)
  else match udpOf b with
    | some u => if udpPort b u == 319 || udpPort b u == 320 then some (u.udp + 8) else none
    | none => none

end Sys2Proof.Machine
end

