-- ==== Sys2Proof/Machine/Mac.lean ====
section
/-! DEFINITION. Ethernet ports: reception, transmission, gates, launch queue, flow control, PRP, states (R268 to R294; rows FRAME_RECEIVED to PORT_RETRY_BACKOFF_END). -/
namespace Sys2Proof.Machine
open Sys2Proof

def maxLen (d : Dev) (p : Nat) : Nat := max 64 (min 9216 (rgf d (macReg p 0x14) 13 0))

/-- The RING link of a port and traffic class: RXQ and TXQ (R73). -/
def ringLink (d : Dev) (p tc : Nat) : Option (Nat × Nat) :=
  (pitchOf d 7 p).bind fun x =>
    (x.links.find? (fun l => l.type == 8 && l.arg == tc)).map (fun l => (l.value.toNat % 256 % 64, l.value.toNat / 256 % 256 % 64))

/-! ### Frames into receive rings (R357 to R359) -/

/-- Cells that are free: 49,152 less the load buffer and those held (R359). -/
def loadCells (d : Dev) : Nat :=
  match d.cht.cur with
  | some c => c.fabric.loadBuf * 4096
  | none => 0

def freeCells (d : Dev) : Nat := 49152 - loadCells d - d.qmg.held

/-- Spread a frame over posted buffers, in order; short buffers carry nothing. None where the buffers do not hold it. -/
def spread (comp : Nat → Bool → List Byte) (short : List Byte) (cells : Nat) (port : Nat × Nat) : List Byte → List Desc → Option (List Done × List Desc)
  | _, [] => none
  | b, x :: r =>
    let n := x.bufLen / 64 * 64
    if n == 0 then (spread comp short cells port b r).map (fun (l, rest) => (⟨[], x.addr, short, 0, none⟩ :: l, rest))
    else if b.length ≤ n then some ([⟨b, x.addr, comp b.length false, cells, some port⟩], r)
    else (spread comp short cells port (b.drop n) r).map (fun (l, rest) => (⟨b.take n, x.addr, comp n true, 0, none⟩ :: l, rest))

/-- Deliver a frame to RXQ q (R357): whether there was credit and room. -/
def deliverFrame (d : Dev) (q port tc errs : Nat) (tci : Option Nat) (prp : Bool) (stamp : Option Nat) (b : List Byte) : Dev × Bool :=
  let cells := cellsOf b.length
  if rxEn d q && !(rxRing d q).stop && cells ≤ freeCells d
      && d.qmg.portHeld.getD port 0 + cells ≤ (rgf d (QMG_PBUF + 4 * port) 15 0) then
    let fl := 2 * b2n tci.isSome + 4 * b2n prp + 8 * b2n stamp.isSome
    let st := (stamp.map stampBytes).getD []
    let comp := fun (n : Nat) (more : Bool) => rxComp st n errs port tc (tci.getD 0) (fl + b2n more) 0
    match spread comp (rxComp [] 0 0 0 0 0 0 0) cells (port, tc) b (rxRing d q).posted with
    | some (l, rest) =>
      let d1 := updRx (takeCells d cells) q fun r => { r with posted := rest, filled := r.filled ++ l }
      ({ d1 with qmg := { d1.qmg with portHeld := upd d1.qmg.portHeld port (· + cells) } }, true)
    | none => (d, false)
  else (d, false)

/-! ### Reception (R273 to R275) -/

/-- Errors of Table 12.2 as RXERR bits. -/
def rxErrors (d : Dev) (p : Nat) (f : RxFrame) : Nat :=
  let n := f.bytes.length
  let body := f.bytes.take (n - 4)
  b2n (leAt f.bytes (n - 4) 4 != (crc32 body).toNat) + 2 * b2n (n < 64) + 4 * b2n (maxLen d p < n)
    + 8 * b2n (f.errs.testBit 3 && 5 ≤ portSpeed d p) + 16 * b2n (f.errs.testBit 4)

/-- The traffic class of step 8. -/
def classOf (d : Dev) (p : Nat) (b : List Byte) : Nat :=
  match frameTci b with
  | some t => let pcp := t / 2 ^ 13; rgf d (macReg p 0x24) (3 * pcp + 2) (3 * pcp)
  | none => rgf d (macReg p 0x20) 2 0

/-- Hand a frame to the ring of a class; no link: filtered; no credit: counted. -/
def toRing (d : Dev) (p tc errs : Nat) (prp : Bool) (stamp : Option Nat) (b : List Byte) : Dev :=
  match ringLink d p tc with
  | some (q, _) =>
    let (d1, ok) := deliverFrame d q p tc errs (frameTci b) prp stamp b
    if ok then d1 else macCount d1 p cntRxNocredit
  | none => macCount d p cntRxFiltered

/-- A frame with errors (R275). -/
def errorFrame (d : Dev) (p errs : Nat) (f : RxFrame) : Dev :=
  let d1 := (List.range 5).foldl (fun d i => if errs.testBit i then macCount d p (cntRxFcs + i) else d) d
  let d2 := statSet d1 (macWin p) 19
  let tc := if f.bytes.length < 18 then 0 else classOf d p f.bytes
  match ringLink d p tc with
  | some (q, _) =>
    if rgb d (cfgRx q) 8 then toRing d2 p tc errs false (some (rxStamp d p f.sub)) (f.bytes.take (maxLen d p)) else d2
  | none => d2

/-- MAC_FC.MODE: 1 PAUSE, 2 PFC; 3 acts as 0 (R283). -/
def fcMode (d : Dev) (p : Nat) : Nat := let m := rgf d (macReg p 0x30) 1 0; if m == 3 then 0 else m

/-- A time of so many quanta at a port, ns, rounded up. -/
def quantaNs (d : Dev) (p n : Nat) : Nat := ceilDiv (n * 512 * bitPs d p) 1000

def afterNs (d : Dev) (n : Nat) : Option Tick := if n == 0 then none else some (d.t + BitVec.ofNat 64 n)

/-- A MAC control frame, at its last bit (R283). -/
def macControl (d : Dev) (p : Nat) (b : List Byte) : Dev :=
  if !rgb d (macReg p 0x30) 4 then d
  else if beAt b 14 2 == 1 && fcMode d p == 1 then
    macCount (updPort d p fun x => { x with pauseEnd := afterNs d (quantaNs d p (beAt b 16 2)) }) p cntRxPause
  else if beAt b 14 2 == 0x0101 && fcMode d p == 2 then
    let en := beAt b 16 2
    let ends (x : Port) := (List.range 8).map fun i =>
      if en.testBit i then afterNs d (quantaNs d p (beAt b (18 + 2 * i) 2)) else x.pfcEnd.getD i none
    macCount (updPort d p fun x => { x with pfcEnd := ends x }) p cntRxPause
  else d

def isMulticast (b : List Byte) : Bool := beAt b 0 1 % 2 == 1

/-- The address of a PTP frame is the port's or one of Table 13.1 (R307). -/
def ptpAddressed (d : Dev) (p : Nat) (b : List Byte) : Bool :=
  match udpOf b with
  | some u =>
    (portIps d p).contains u.dst
      || (if u.v6 then u.dst == ip6Multi false || u.dst == ip6Multi true
          else u.dst.drop 12 == ip4Multi false || u.dst.drop 12 == ip4Multi true)
  | none => b.take 6 == macAddr d p || b.take 6 == ethMulti true false || b.take 6 == ethMulti false false

def ptpRuns (d : Dev) : Bool := inService d && enOf d basePtp && !heldInReset d 15 0
def tolRuns (d : Dev) : Bool := inService d && enOf d baseTol && !heldInReset d 14 0

/-- The Crier takes a frame in step 5 (R307). -/
def crierTakes (d : Dev) (p : Nat) (b : List Byte) : Bool :=
  match ptpOfs b with
  | some o =>
    let sdo := beAt b o 1 / 16
    ptpRuns d && ptpAddressed d p b && beAt b (o + 1) 1 % 16 == 2 && beAt b (o + 1) 1 / 16 ≤ 1
      && (List.range 16).any (fun e =>
          let x := domEntry d e
          x.built && x.port == p && x.domain == beAt b (o + 4) 1 && sdo == (if x.profile == 6 then 1 else 0))
  | none => false

/-- The address entry that serves a destination on a port (R322). -/
def tolEntry (d : Dev) (p : Nat) (dst : List Byte) : Option Nat :=
  (List.range 16).find? (fun n =>
    let w := rg d (TOL_IP_CFG + n * 0x20)
    bit w 31 && bit w (16 + p) && tolIp d n == dst)

/-- Extension fields follow the header (R322): by RFC 7822 what is shorter than 28 bytes is a MAC (PRESUMED, log 17). -/
def hasExtensions (b : List Byte) : Bool := 76 ≤ b.length

/-- The Tollgate takes a frame in step 5 (R322). -/
def tollgateTakes (d : Dev) (p : Nat) (b : List Byte) : Bool :=
  match udpOf b with
  | some u =>
    let y := udpPayload b u
    tolRuns d && u.plain && udpPort b u == 123 && udpOk b u && (tolEntry d p u.dst).isSome && 48 ≤ y.length
      && beAt y 0 1 % 8 == 3 && (beAt y 0 1 / 8 % 8 == 4 || (beAt y 0 1 / 8 % 8 == 3 && !hasExtensions y))
  | none => false

/-- A frame as an engine takes it now (R296): what its stamp says of its instant on the free counter and on the working scales. -/
def takenFrame (d : Dev) (p stamp : Nat) (b : List Byte) : Taken :=
  let o : Int := (stamp : Int) - (portNow d p : Nat)
  { ptp := crierTakes d p b, port := p, bytes := b, stamp := stamp, t := d.t, inst := (d.t.toNat * 65536 : Nat) + o
    pair := [false, true].map (fun s => (stampOf (scaleOf d s).v : Int) + o), sides := d.ptp.stepCnt }

/-- Steps 5 to 8 of R273. -/
def laterSteps (d : Dev) (p : Nat) (prp : Bool) (stamp : Nat) (b : List Byte) : Dev :=
  if crierTakes d p b || tollgateTakes d p b then { d with taken := d.taken ++ [takenFrame d p stamp b] }
  else if etherType b == 0x8809 && beAt b (etherOfs b) 1 == 0x0A then toRing d p (rgf d (macReg p 0x3C) 2 0) 0 prp (some stamp) b
  else if isMulticast b && !rgb d (macReg p 0x20) 9 then macCount d p cntRxFiltered
  else toRing d p (classOf d p b) 0 prp (some stamp) b

/-- A trailer frame against the pair's table, which the LAN A port holds (R289): whether it is a duplicate, and the table with its key. -/
def prpCheck (l : List PrpEntry) (src seq : Nat) (t : Tick) : Bool × List PrpEntry :=
  if l.any (fun e => e.src == src && e.seq == seq) then (true, l)
  else (false, ⟨src, seq, t⟩ :: l.take 2047)

/-- The LAN A port of a pair. -/
def lanA (d : Dev) (p : Nat) : Nat := if pitchFunc d 7 p == 3 then (prpPartner d p).getD p else p

/-- When an entry of a pair's table is forgotten: FORGET ms after it was entered (R289). -/
def forgetAt (d : Dev) (a : Nat) (e : PrpEntry) : Nat := e.t.toNat + rgf d (macReg a 0x6C) 15 0 * ms

/-- Step 4 on a PRP port, then the later steps; PTP frames are each port's own (R288). -/
def prpStep (d : Dev) (p stamp : Nat) (b : List Byte) : Dev :=
  match prpPartner d p, if (ptpOfs b).isSome then none else trailerOf b with
  | some _, some (seq, lan) =>
    let a := lanA d p
    let d1 := if lan != (if pitchFunc d 7 p == 2 then 10 else 11) then macCount d p cntPrpWronglan else d
    let (dup, l) := prpCheck ((portOf d1 a).prp.filter (fun e => d1.t.toNat < forgetAt d1 a e)) (beAt b 6 6) seq d1.t
    if dup then macCount d1 p cntPrpDup
    else laterSteps (updPort d1 a fun x => { x with prp := l }) a true stamp (b.take (b.length - 6))
  | _, _ => laterSteps d p false stamp b

/-- The port runs with FEC: always at codes 1 and 2, by MAC_PCS.FEC at code 3 (Table 12.1). -/
def fecOn (d : Dev) (p : Nat) : Bool := portSpeed d p == 1 || portSpeed d p == 2 || (portSpeed d p == 3 && rgb d (macReg p 0x10) 4)

/-- The FEC's codewords are counted. -/
def fecCount (d : Dev) (p : Nat) (f : RxFrame) : Dev :=
  if fecOn d p then countUp (countUp d (MAC_CNT + p * 0x10000 + 4 * cntFecCorr) 31 0 f.fecCorr) (MAC_CNT + p * 0x10000 + 4 * cntFecUncorr) 31 0 f.fecUncorr
  else d

/-- A frame arrives (R273). The command stands at its timestamp point; for a MAC control frame, at its last bit. -/
def frameReceived (d0 : Dev) (p : Nat) (f : RxFrame) : Dev :=
  if (portOf d0 p).st != .up || !inService d0 then d0
  else
    let d := fecCount d0 p f
    let errs := rxErrors d p f
    if errs != 0 then errorFrame d p errs f
    else
      let b := f.bytes.take (f.bytes.length - 4)
      let d1 := macCount d p cntRxGood
      if etherType b == 0x8808 && (frameTci b).isNone then macControl d1 p b
      else if !isMulticast b && b.take 6 != macAddr d1 p && !rgb d1 (macReg p 0x20) 8 then macCount d1 p cntRxFiltered
      else prpStep d1 p (rxStamp d1 p f.sub) b

def execFrameReceived (port : Nat) (f : RxFrame) (s : State) : Host.Outcome State Fault Refusal :=
  act s fun d => frameReceived d port f

/-- An entry of a pair's table is forgotten (R289). -/
def prpForget (d : Dev) (p src seq : Nat) : Dev :=
  updPort d (lanA d p) fun x => { x with prp := x.prp.filter (fun e => !(e.src == src && e.seq == seq)) }

/-- A PAUSE timer, or the PFC timer of a priority, and its end. -/
def pauseTimer (d : Dev) (p : Nat) (prio : Option Nat) : Option Tick :=
  match prio with
  | none => (portOf d p).pauseEnd
  | some i => (portOf d p).pfcEnd.getD i none

/-- It runs out (R283). -/
def pauseExpiry (d : Dev) (p : Nat) (prio : Option Nat) : Dev :=
  updPort d p fun x => match prio with
    | none => { x with pauseEnd := none }
    | some i => { x with pfcEnd := upd x.pfcEnd i (fun _ => none) }

/-! ### Gates (R279 to R281) -/

/-- Cycle of a bank, ns. -/
def cycleNs (b : GateBank) : Rat := (b.cnum : Rat) * 1000000000 / ((max 1 b.cden : Nat) : Rat)

/-- Entries of a bank as they follow one another in a cycle: index, end in ns, gates. -/
def gateSegs (c : Rat) : Nat → Rat → List (Nat × Nat) → List (Nat × Rat × Nat)
  | _, _, [] => []
  | i, at_, (g, n) :: r =>
    if n == 0 then gateSegs c (i + 1) at_ r
    else
      let e := at_ + (n : Rat)
      if c ≤ e then [(i, c, g)] else (i, e, g) :: gateSegs c (i + 1) e r

/-- The last entry holds to the end of the cycle; a list of empty intervals is its last entry alone. -/
def segsOf (b : GateBank) : List (Nat × Rat × Nat) :=
  let c := cycleNs b
  let l := gateSegs c 0 0 (b.entries.take b.len)
  match l.getLast? with
  | some (i, _, g) => l.dropLast ++ [(i, c, g)]
  | none => [(b.len - 1, c, ((b.entries.take b.len).getLast?.map (·.1)).getD 0xFF)]

/-- Position of a scale value in the cycle, ns. -/
def cyclePos (b : GateBank) (v : Nat) : Rat :=
  let x := (v : Rat) / (nsUnit : Rat) - (b.base : Rat)
  let c := cycleNs b
  if c == 0 then 0 else x - c * (ratFloor (x / c) : Rat)

/-- The segments from a position on: what is left of the current one, then the others around the cycle, as length and gates. -/
def segsFrom (b : GateBank) (pos : Rat) : List (Nat × Rat × Nat) :=
  let l := segsOf b
  let lens := (l.zipIdx).map (fun (s, i) => (s.1, s.2.1 - (if i == 0 then 0 else (l.getD (i - 1) (0, 0, 0)).2.1), s.2.2))
  let k := (l.findIdx? (fun s => decide (pos < s.2.1))).getD 0
  let cur := l.getD k (0, 0, 0)
  (cur.1, cur.2.1 - pos, cur.2.2) :: (lens.drop (k + 1) ++ lens.take k ++ (match lens[k]? with
    | some x => [(x.1, x.2.1 - (cur.2.1 - pos), x.2.2)]
    | none => []))

/-- How long a class's gate stays open along segments: none for ever. -/
def openRun (tc : Nat) : List (Nat × Rat × Nat) → Rat → Option Rat
  | [], _ => none
  | (_, n, g) :: r, a => if g.testBit tc then openRun tc r (a + n) else some a

def portScaleVal (d : Dev) (p : Nat) : Nat := scaleVal d (stampScale d 7 p)

/-- How long a class's gate stays open from now: none for ever; 0 while it is closed. -/
def openFor (d : Dev) (p tc : Nat) : Option Rat :=
  let b := (portOf d p).oper
  if b.gen then openRun tc (segsFrom b (cyclePos b (portScaleVal d p))) 0 else none

/-- The current entry, what is left of it in ns, and the gates in effect (R279). -/
def gateNow (d : Dev) (p : Nat) : Nat × Rat × Nat :=
  let b := (portOf d p).oper
  if b.gen then (segsFrom b (cyclePos b (portScaleVal d p))).headD (0, 0, 0xFF) else (0, 0, 0xFF)

/-- TCLKs from now to the next cycle start of the operational list after the present TCLK (R280). -/
def cycleTicks (d : Dev) (p : Nat) : Option Nat :=
  let b := (portOf d p).oper
  let inc := incOf (scaleF d (stampScale d 7 p))
  if b.gen && inc != 0 then
    some (ratCeil ((cycleNs b - cyclePos b (portScaleVal d p)) * (nsUnit : Rat) / (inc : Rat))).toNat
  else none

/-- A cycle starts on the present TCLK and has not been run. -/
def cycleNow (d : Dev) (p : Nat) : Bool :=
  let b := (portOf d p).oper
  b.gen && decide (cyclePos b (portScaleVal d p) * (nsUnit : Rat) < (incOf (scaleF d (stampScale d 7 p)) : Nat)) && (portOf d p).cycleT != some d.t

/-- The longest window of a class in a bank, taken around the cycle: none where the class is always open (R281). -/
def longestWindow (b : GateBank) (tc : Nat) : Option Rat :=
  let l := segsOf b
  if l.all (fun s => s.2.2.testBit tc) then none
  else some ((List.range l.length).foldl (fun m k =>
    let start := if k == 0 then 0 else (l.getD (k - 1) (0, 0, 0)).2.1
    match openRun tc (segsFrom b start) 0 with
    | some n => if m < n then n else m
    | none => m) 0)

/-- The admin bank as written (R280). -/
def adminBank (d : Dev) (p : Nat) : GateBank :=
  let n := min 512 (rgf d (macReg p 0x40) 25 16)
  { gen := rgb d (macReg p 0x40) 0, len := n,
    base := (dword (rg d (macReg p 0x48)) (rg d (macReg p 0x44))) * 1000000000 + rgf d (macReg p 0x4C) 29 0,
    cnum := (rg d (macReg p 0x50)).toNat, cden := max 1 (rg d (macReg p 0x54)).toNat,
    entries := (List.range n).map fun e =>
      (rgf d (GCL_GATES + p * 0x10000 + 8 * e) 7 0, rgf d (GCL_INT + p * 0x10000 + 8 * e) 29 0) }

/-- A commit that is refused: cycle outside 1 µs to 1 s, or an empty list with GEN = 1 (R280). -/
def bankBad (b : GateBank) : Bool := cycleNs b < 1000 || 1000000000 < cycleNs b || (b.gen && b.len == 0)

def refuseBank (d : Dev) (p : Nat) : Dev := setReg d (macReg p 0x5C) (putBit (rg d (macReg p 0x5C)) 31 true)

/-- A staged write is a commit of port p. -/
def isCommit (p : Nat) (e : Staged) : Bool := e.words.any (fun w => w.1 == macReg p 0x58 && bit w.2 0)

/-- The arming point of commits that meet a test: the whole admin bank is captured, or the commit refused (R280). -/
def captureIf (d : Dev) (p : Nat) (due : Staged → Bool) : Dev :=
  let mine := fun (e : Staged) => due e && !e.late && isCommit p e
  if d.staged.any mine then
    if bankBad (adminBank d p) then refuseBank { d with staged := d.staged.filter (fun e => !mine e) } p
    else updPort d p fun x => { x with captured := some (adminBank d p) }
  else d

def captureBank (d : Dev) (p : Nat) (b : Boundary) : Dev := captureIf d p (·.boundary == b)

/-- As time comes to 2 µs before a cycle start, the commits that earn it are armed: no write has come between (R35, R280). -/
def armCommits (d : Dev) : Dev :=
  (List.range 6).foldl (fun d p =>
    match cycleTicks d p with
    | some n =>
      if n ≤ 2000 && (portOf d p).captured.isNone then
        captureIf d p (fun e => e.boundary == .gclCycle p && e.reachedT.toNat + 2000 ≤ d.t.toNat + n)
      else d
    | none => d) d

/-- The boundary: the captured bank becomes operational (R280). -/
def swapBank (d : Dev) (p : Nat) : Dev :=
  let d0 := setEff d (macReg p 0x58) 0
  match (portOf d0 p).captured with
  | some b => updPort d0 p fun x => { x with oper := b, captured := none }
  | none =>
    if bankBad (adminBank d0 p) then refuseBank d0 p
    else updPort d0 p fun x => { x with oper := adminBank d0 p }

/-- After words have taken effect: the commit, if it was among them. -/
def commitTaken (d : Dev) (p : Nat) : Dev := if efb d (macReg p 0x58) 0 then swapBank d p else d

/-- A head that no window of its class can pass under LAWARE (R281). -/
def neverPasses (d : Dev) (p tc : Nat) (f : TxFrame) : Bool :=
  rgb d (macReg p 0x28) 8 && (portOf d p).oper.gen
    && (match longestWindow (portOf d p).oper tc with
        | some w => decide (w * 1000 < (wirePs d p f.bytes.length : Rat))
        | none => false)

/-- A cycle starts (R280, R281): commits of this boundary, of a bank that no write has touched since its arming point where none was captured then; then the heads that can never pass. -/
def gclCycleStart (d : Dev) (p : Nat) : Dev :=
  let per := cycleNs (portOf d p).oper
  let d1 := if (portOf d p).captured.isSome then d else captureIf d p (fun e => e.boundary == .gclCycle p && ripe d e)
  let d2 := commitTaken (takeBoundary d1 (.gclCycle p) (ratFloor per).toNat) p
  (List.range 8).foldl (fun d tc =>
    match (portOf d p).queues.getD tc [] with
    | f :: r =>
      if neverPasses d p tc f then discardFrame (updPort d p fun x => { x with queues := upd x.queues tc (fun _ => r) }) p f false
      else d
    | [] => d) (updPort d2 p fun x => { x with cycleT := some d.t })

/-- A write of MAC_GCL_COMMIT (R280): staged, or with EN = 0 at once. -/
def gclCommit (d : Dev) (p : Nat) (val : Word) (acc : Option Access) : Dev :=
  let d1 := classWrite d (macReg p 0x58) val acc
  if keyEn d1 (macReg p 0x58) then d1 else commitTaken d1 p

def execMacGclCommitWrite (req : Requester) (port : Nat) (val : Word) (s : State) : Host.Outcome State Fault Refusal :=
  act s fun d => if 5 < port then d else
    withWrite d req (macReg port 0x58) fun d => gclCommit d port val (some (accOf req (macReg port 0x58)))

/-! ### Transmission (R276 to R278, R301) -/

/-- Put a frame on its way at a port: into its class queue, or towards the launch queue. While the port is not UP a class frame is discarded as it reaches the head (R282); of a port that is DISABLED or RETIRED every frame is (R291). -/
def enqueueTx (d : Dev) (p : Nat) (f : TxFrame) : Dev :=
  let st := (portOf d p).st
  if f.launch.isSome then
    if st == .disabled || st == .retired then dropLaunch d p f 1
    else updPort d p fun x => { x with toLaunch := x.toLaunch ++ [f] }
  else if st == .up then updPort d p fun x => { x with queues := upd x.queues f.cls (· ++ [f]) }
  else discardFrame d p f true

def isTollgate (f : TxFrame) : Bool :=
  match f.src with
  | .tollgate _ => true
  | _ => false

/-- Submit a frame at a port: on a PRP pair, the LAN A port's ring frames and the Tollgate's go out on both ports with trailers, PTP frames apart (R287, R288). -/
def submitTx (d : Dev) (p : Nat) (f : TxFrame) : Dev :=
  match prpPartner d p with
  | some _ =>
    let a := lanA d p
    if (ptpOfs f.bytes).isNone && (isTollgate f || (p == a && isRingFrame f)) then
      let b := (prpPartner d a).getD a
      let seq := (portOf d a).prpSeq
      let d1 := updPort d a fun x => { x with prpSeq := (x.prpSeq + 1) % 65536 }
      let d2 := enqueueTx d1 a { f with bytes := addTrailer f.bytes seq 10 }
      enqueueTx d2 b { f with bytes := addTrailer f.bytes seq 11, src := .plain, stampWanted := false, seq := 0 }
    else enqueueTx d p f
  | none => enqueueTx d p f

/-- A frame's departure instant at the plane if it starts now (R296, R297): its place within the TCLK is free (log 2); that of a launch-time frame lies within 1 TCLK of its launch instant (R278). The unit's tap delay, which its reading has, is taken off (R26). -/
def departStamp (d : Dev) (p : Nat) (launch : Option Nat) : Nat × Dev :=
  match launch with
  | some l =>
    let (sub, d1) := drawBelow d 131073
    (((l : Int) + sub - 65536).toNat, d1)
  | none =>
    let (sub, d1) := drawBelow d 65536
    (((portNow d p : Int) + preamble d p + txDly d p + sub).toNat, d1)

/-- The message that follows a two-step message takes its departure instant, and its authentication (R302, R305); it is due in its turn. -/
def sendFollow (d : Dev) (p cls : Nat) (w : Follow) (t : Nat) : Dev :=
  let m := insertPtp w.msg 0 t none
  let d0 := ptpDue d cls
  if domAuth d0 w.entry then
    match crierKey d0 with
    | some k =>
      let (b, _, d1) := encapPtp d0 w.entry w.dest w.peer false (authMsg d0 k m)
      submitTx d1 p { (default : TxFrame) with src := .crier cls, cls := rgf d1 (macReg p 0x28) 2 0, bytes := padFrame b }
    | none => statSet (ptpOutcome d0 cls 2) basePtp 19
  else
    let (b, _, d1) := encapPtp d0 w.entry w.dest w.peer false m
    submitTx d1 p { (default : TxFrame) with src := .crier cls, cls := rgf d1 (macReg p 0x28) 2 0, bytes := padFrame b }

/-- The pair's scale of a tracking slot: 0 TS-A, 1 TS-B (R315), and a stamp of its port expressed in it, 2⁻¹⁶ ns. -/
def slotEntry (d : Dev) (m : Nat) : Nat := eff d (PT_TCFG + m * 0x40) 3 0
def pairScale (d : Dev) (m : Nat) : Nat := (domEntry d (slotEntry d m)).scale
def inPair (d : Dev) (m : Nat) (t : Int) : Int :=
  t + (stampOf (scaleVal d (1 + pairScale d m)) : Nat) - (portNow d (domEntry d (slotEntry d m)).port : Nat)

/-- Steps of a slot's scale so far, and of the scale of a port's stamps (R317). -/
def sideOf (d : Dev) (m : Nat) : Nat := d.ptp.stepCnt.getD (pairScale d m) 0
def portIx (d : Dev) (p : Nat) : Nat := [2, 0, 1].getD (stampScale d 7 p) 2

def updSlot (d : Dev) (m : Nat) (f : TrackSlot → TrackSlot) : Dev := { d with ptp := { d.ptp with slots := upd d.ptp.slots m f } }

/-- The departure stamp of a slot's Delay_Req, or of a port's Pdelay_Req, is kept (R316). -/
def noteRequest (d : Dev) (p m seq t : Nat) : Dev :=
  if domP2p d (slotEntry d m) then
    { d with ptp := { d.ptp with pdReq := upd d.ptp.pdReq p (fun _ => some (seq, (t : Int), d.ptp.stepCnt.getD (portIx d p) 0)) } }
  else
    let t3 := inPair d m t
    let side := sideOf d m
    updSlot d m fun x => { x with req := some (seq, t3, side) }

/-- A message sent under a grant (Table 13.8, SENT). -/
def grantSent (d : Dev) (g : Option Nat) : Dev :=
  { d with ptp := { d.ptp with grants := d.ptp.grants.map (fun x => if some x.index == g then { x with sent := x.sent + 1 } else x) } }

/-- A frame starts: it is stamped, changed where it asks for it, sent and reported (R295, R296, R301). -/
def depart (d : Dev) (p : Nat) (f : TxFrame) : Dev :=
  let (t, d0) := departStamp d p f.launch
  let (b, d1) := insertStamp d0 f t
  let d2 := macCount (emit d1 (.frame p (withFcs b))) p cntTxGood
  let d3 := updPort d2 p fun x => { x with busyUntil := afterNs d2 (ceilDiv (wirePs d2 p b.length) 1000) }
  match f.src with
  | .ring q => txDone d3 q f.seq 0 (if f.stampWanted then some (stampBytes t) else none)
  | .crier c =>
    let d4 := grantSent (ptpOutcome d3 c 1) f.grant
    match f.follow with
    | some w => sendFollow d4 p c w t
    | none => d4
  | .tollgate c => tolOutcome d3 c 1
  | .plain => match f.track with
    | some m => noteRequest d3 p m f.seq t
    | none => d3

/-- A frame is still leaving. -/
def portBusy (d : Dev) (p : Nat) : Bool :=
  match (portOf d p).busyUntil with
  | some t => d.t.toNat < t.toNat
  | none => false

/-- S of a launch-time frame, in the port's scale, 2⁻¹⁶ ns (R278). -/
def startOf (d : Dev) (p : Nat) (f : TxFrame) : Int := (f.launch.getD 0 : Nat) - preamble d p - txDly d p

/-- The launch guard: a frame of that length leaves, with its gap, no later than S of the launch queue's head (R278). -/
def guardOk (d : Dev) (p len : Nat) : Bool :=
  match (portOf d p).launchQ with
  | f :: _ => decide ((portNow d p : Int) + psTo16 ((wirePs d p len : Nat) : Int) ≤ startOf d p f)
  | [] => true

/-- The gate of a class lets a frame of that length start now (R277). -/
def gateOk (d : Dev) (p tc len : Nat) : Bool :=
  match openFor d p tc with
  | none => true
  | some w => decide (0 < w) && (!rgb d (macReg p 0x28) 8 || decide ((wirePs d p len : Rat) ≤ w * 1000))

/-- The head of a class is eligible (R277). -/
def eligible (d : Dev) (p tc : Nat) : Bool :=
  match (portOf d p).queues.getD tc [] with
  | f :: _ => gateOk d p tc f.bytes.length && !(heldClasses d p).contains tc && guardOk d p f.bytes.length
  | [] => false

/-- PAUSE holds every frame (R283). -/
def pauseHeld (d : Dev) (p : Nat) : Bool :=
  match (portOf d p).pauseEnd with
  | some t => d.t.toNat < t.toNat
  | none => false

/-- A transmit opportunity (R277): a flow-control frame of its own, else the highest eligible class. -/
def opportunity (d : Dev) (p : Nat) : Dev :=
  if (portOf d p).st != .up || portBusy d p || pauseHeld d p || !inService d then d
  else match (portOf d p).fcPend with
    | b :: r =>
      if guardOk d p b.length then
        let d1 := updPort d p fun x => { x with fcPend := r, busyUntil := afterNs d (ceilDiv (wirePs d p b.length) 1000) }
        macCount (emit d1 (.frame p (withFcs b))) p cntTxPause
      else d
    | [] =>
      match ([7, 6, 5, 4, 3, 2, 1, 0] : List Nat).find? (eligible d p) with
      | some tc =>
        match (portOf d p).queues.getD tc [] with
        | f :: r => depart (updPort d p fun x => { x with queues := upd x.queues tc (fun _ => r) }) p f
        | [] => d
      | none => d

def execTransmitOpportunity (port : Nat) (s : State) : Host.Outcome State Fault Refusal :=
  act s fun d => if 5 < port then d else opportunity d port

/-- Insert in order of launch instant, equal instants in order of arrival (R276). -/
def insertLaunch (f : TxFrame) : List TxFrame → List TxFrame
  | [] => [f]
  | g :: r => if f.launch.getD 0 < g.launch.getD 0 then f :: g :: r else g :: insertLaunch f r

def launchHorizon (d : Dev) (p : Nat) : Nat := max 1 (min 1000000 (rgf d (macReg p 0x2C) 19 0))

/-- The next launch-time frame reaches the launch queue (R278). -/
def launchEntry (d : Dev) (p : Nat) : Dev :=
  match (portOf d p).toLaunch with
  | f :: r =>
    let d1 := updPort d p fun x => { x with toLaunch := r }
    let l := f.launch.getD 0
    let now := portNow d p
    if l + 65536 < now then dropLaunch d1 p f 1
    else if now + launchHorizon d p * 1000 * 65536 < l then dropLaunch d1 p f 2
    else if 4096 ≤ (portOf d p).launchQ.length then dropLaunch d1 p f 3
    else updPort d1 p fun x => { x with launchQ := insertLaunch f x.launchQ }
  | [] => d

def execLaunchQueueEntry (port : Nat) (s : State) : Host.Outcome State Fault Refusal :=
  act s fun d => if 5 < port then d else launchEntry d port

/-- The head's start instant (R278): it starts, or it is dropped; never late. -/
def launchStart (d : Dev) (p : Nat) : Dev :=
  match (portOf d p).launchQ with
  | f :: r =>
    let d1 := updPort d p fun x => { x with launchQ := r }
    if (portOf d p).st != .up || !inService d || pauseHeld d p || (heldClasses d p).contains f.cls
        || !gateOk d p f.cls f.bytes.length || portBusy d p || startOf d p f + 65536 < portNow d p then dropLaunch d1 p f 1
    else depart d1 p f
  | [] => d

/-- S of the launch queue's head, ns of the port's scale. -/
def launchDue (d : Dev) (p : Nat) : Option Rat := ((portOf d p).launchQ.head?).map (fun f => (startOf d p f : Rat) / 65536)

/-- A positive step passes over launch instants: those frames are dropped (R278). -/
def launchSkips (d : Dev) (p : Nat) : Dev :=
  let now := portNow d p
  let (gone, keep) := (portOf d p).launchQ.partition (fun f => f.launch.getD 0 + 65536 < now)
  gone.foldl (fun d f => dropLaunch d p f 1) (updPort d p fun x => { x with launchQ := keep })

/-! ### Flow control (R285) -/

/-- A PAUSE frame, or a PFC frame for the priorities of a class. -/
def fcFrame (d : Dev) (p tc quanta : Nat) : List Byte :=
  let head := [0x01, 0x80, 0xC2, 0, 0, 0x01] ++ macAddr d p ++ beBytes 2 0x8808
  if fcMode d p == 1 then padTo 60 (head ++ beBytes 2 1 ++ beBytes 2 quanta)
  else
    let mine := fun (i : Nat) => rgf d (macReg p 0x24) (3 * i + 2) (3 * i) == tc
    let en := (List.range 8).foldl (fun m i => m + b2n (mine i) * 2 ^ i) 0
    padTo 60 (head ++ beBytes 2 0x0101 ++ beBytes 2 en ++ (List.range 8).flatMap (fun i => beBytes 2 (if mine i then quanta else 0)))

/-- Index of the repeat timer: a class, or 8 for the whole port. -/
def fcIx (d : Dev) (p tc : Nat) : Nat := if fcMode d p == 1 then 8 else tc

def xquanta (d : Dev) (p : Nat) : Nat := rgf d (macReg p 0x30) 31 16

/-- Classes an index stands for, as FCSTAT shows them. -/
def xoffMask (i : Nat) : Nat := if i == 8 then 255 else 2 ^ i

def sendFc (d : Dev) (p tc q : Nat) : Dev := updPort d p fun x => { x with fcPend := x.fcPend ++ [fcFrame d p tc q] }

/-- Send XOFF and set the repeat timer. -/
def sendXoff (d : Dev) (p tc : Nat) : Dev :=
  let i := fcIx d p tc
  updPort (sendFc d p tc (xquanta d p)) p fun x => { x with
    xoff := x.xoff ||| xoffMask i, fcDue := upd x.fcDue i (fun _ => some (d.t + BitVec.ofNat 64 (quantaNs d p (xquanta d p) / 2))) }

/-- Receive buffer occupancy of a port, or of one of its classes, bytes: the cells its frames hold in the rings (R285, R359). -/
def occupancy (d : Dev) (p : Nat) (cls : Option Nat) : Nat :=
  64 * sumN (d.qmg.rxq.flatMap (fun r => (r.filled.filter (fun x => match x.port, cls with
    | some (q, c), some k => q == p && c == k
    | some (q, _), none => q == p
    | none, _ => false)).map (·.cells)))

/-- The occupancy that an index of the repeat timers goes by. -/
def fcOcc (d : Dev) (p tc : Nat) : Nat := occupancy d p (if fcIx d p tc == 8 then none else some tc)

/-- Occupancy has crossed a threshold (R285). -/
def fcThreshold (d : Dev) (p tc : Nat) : Dev :=
  if fcMode d p == 0 || !rgb d (macReg p 0x30) 5 || 7 < tc then d
  else
    let i := fcIx d p tc
    let on := (portOf d p).xoff &&& xoffMask i != 0
    if rgf d (macReg p 0x34) 15 0 * 1024 < fcOcc d p tc && !on then sendXoff d p tc
    else if fcOcc d p tc ≤ rgf d (macReg p 0x34) 31 16 * 1024 && on then
      updPort (sendFc d p tc 0) p fun x => { x with
        xoff := x.xoff - (x.xoff &&& xoffMask i), fcDue := upd x.fcDue i (fun _ => none) }
    else d

def execFlowControlThreshold (port cls : Nat) (s : State) : Host.Outcome State Fault Refusal :=
  act s fun d => if 5 < port then d else fcThreshold d port cls

/-- Half of XQUANTA has passed: XOFF is sent again while occupancy stays above XON (R285). -/
def fcRepeat (d : Dev) (p tc : Nat) : Dev :=
  if fcMode d p != 0 && rgb d (macReg p 0x30) 5 && (portOf d p).xoff &&& xoffMask (fcIx d p tc) != 0
      && rgf d (macReg p 0x34) 31 16 * 1024 < fcOcc d p tc then sendXoff d p tc else d

/-! ### Port states (R290 to R292) -/

/-- The port's SyncE reference follows its recovered clock (R271). -/
def syncePresent (d : Dev) (p : Nat) (on : Bool) : Dev :=
  let d1 := updPort d p fun x => { x with rclk := on }
  if kindOf d1 (10 + p) != 5 then d1 else if on then refPresent d1 (10 + p) else refLoss d1 (10 + p) 1

/-- TRAINING has held for 10 ms: the port is UP (Table 12.3). An SGMII partner that advertises 10 or 100 Mb/s leaves it in TRAINING with cause SPEED (R269); `speed` is what it advertises, Mb/s. -/
def linkTrained (d : Dev) (p speed : Nat) : Dev :=
  if (portOf d p).st == .training && portEnabled d p then
    if portSpeed d p == 6 && (speed == 10 || speed == 100) then updPort d p fun x => { x with fltCause := 9 }
    else syncePresent (updPort d p fun x => { x with st := .up }) p true
  else d

def execLinkTrained (port speed : Nat) (s : State) : Host.Outcome State Fault Refusal := act s fun d => linkTrained d port speed

/-- Frames of the class queues are discarded while the port is not UP (R282). -/
def dropClasses (d : Dev) (p : Nat) : Dev :=
  let l := (portOf d p).queues.flatMap id
  l.foldl (fun d f => discardFrame d p f true) (updPort d p fun x => { x with queues := List.replicate 8 [], fcPend := [] })

/-- Lock is lost: the port retrains (Table 12.3). -/
def linkLoss (d : Dev) (p : Nat) : Dev :=
  if (portOf d p).st == .up then
    let d1 := macCount (updPort d p fun x => { x with st := .training, busyUntil := none }) p cntLinkLoss
    syncePresent (dropClasses (logC d1 srcPortLink p (portStateCode .training)) p) p false
  else if (portOf d p).st == .training then syncePresent d p false
  else d

def execLinkLoss (port : Nat) (s : State) : Host.Outcome State Fault Refusal := act s fun d => linkLoss d port

/-- The source of a port fault by MAC_FLT's cause. -/
def portSource (cause : Nat) : Option Nat :=
  match cause with
  | 1 => some srcPortEccU
  | 2 => some srcPortUnderrun
  | 3 => some srcPortDeskew
  | 4 => some srcPortLoopback
  | 5 => some srcPortStuck
  | _ => none

/-- A fault of the port's datapath (R290, R291): reported; a transient one moves the port to RETRY, with everything queued discarded; a permanent one retires it. -/
def portFault (d : Dev) (p cause : Nat) : Dev :=
  let st := (portOf d p).st
  match portSource cause with
  | some code =>
    if st == .training || st == .up || st == .retry then
      let d1 := report (updPort d p fun x => { x with fltCause := cause }) code p 0
      let c := fltChanOf d1 code p
      if (portOf d1 p).st == .retired then syncePresent d1 p false
      else if c.grace.isSome || c.backoff then
        syncePresent (updPort (discardQueued d1 p) p fun x => { x with st := .retry }) p false
      else d1
    else d
  | none => d

def execPortTransientFault (port cause : Nat) (s : State) : Host.Outcome State Fault Refusal :=
  act s fun d => if 5 < port then d else portFault d port cause

/-- The backoff ends: the datapath is reinitialised, and the port trains (R291). -/
def portRetryEnd (d : Dev) (p : Nat) : Dev :=
  if (portOf d p).st == .retry then
    let d1 := match d.flt.chans.find? (fun c => c.code / 256 == 13 && c.chan == p && c.backoff) with
      | some c => endRetry d c.code p
      | none => d
    updPort (discardQueued d1 p) p fun x => { x with st := .training }
  else d

/-- When the backoff of a source and channel's last retry ends: the k-th in the window waits min(2^(k − 1), 1,024) ms (R291, R459). -/
def backoffDue (c : FltChan) : Option Nat := c.retryTs.head?.map (fun t => t.toNat + backoffMs c.retryTs.length * ms)

/-- When the backoff of a port's retry ends. -/
def portRetryDue (d : Dev) (p : Nat) : Option Nat :=
  (d.flt.chans.find? (fun c => c.code / 256 == 13 && c.chan == p && c.backoff)).bind backoffDue

/-- The Bell's loopback test of the ports that are UP (R292). -/
def loopbackBell (d : Dev) (bad : List Nat) : Dev :=
  bad.foldl (fun d p => if (portOf d p).st == .up then portFault d p 4 else d) d

end Sys2Proof.Machine
end

