-- ==== Sys2Proof/Machine/Host.lean ====
section
/-! DEFINITION. Descriptor rings and the Hall (R345 to R367; rows DOORBELL_WRITE to DMA_ERROR, HALL_REQUEST, HALL_COMPLETION). -/
namespace Sys2Proof.Machine
open Sys2Proof

/-! ### Rings -/

def ringKey (rx : Bool) (q : Nat) : Nat := if rx then cfgRx q else cfgTx q
def ringAt (d : Dev) (rx : Bool) (q : Nat) : Ring := if rx then rxRing d q else txRing d q
def updRing (d : Dev) (rx : Bool) (q : Nat) (f : Ring → Ring) : Dev := if rx then updRx d q f else updTx d q f
def ringOn (d : Dev) (rx : Bool) (q : Nat) : Bool := rgb d (ringKey rx q) 31

/-- The ring's interrupt source (Table 15.5) and its number in a report (Table 20.10). -/
def ringSource (rx : Bool) (q : Nat) : Nat := if rx then 64 + q else q

/-- 2^SIZE (QR_CFG). -/
def ringSize (d : Dev) (rx : Bool) (q : Nat) : Nat := 2 ^ max 3 (min 16 (rgf d (ringKey rx q) 4 0))

/-- The ring becomes pending and is disarmed; its MSI-X message goes out (R352). -/
def ringPending (d : Dev) (rx : Bool) (q : Nat) : Dev :=
  let d1 := updRing d rx q fun r => { r with armed := false, pending := true }
  if (ringAt d rx q).pending then d1 else sendMsix d1 (ringSource rx q)

/-! ### Fetching frames (R356, R359) -/

/-- The descriptors of the frame in front: up to the first with MORE = 0; none while the frame is incomplete. -/
def frontFrame : List Desc → Option (List Desc × List Desc)
  | [] => none
  | x :: r => if x.more then (frontFrame r).map (fun (a, b) => (x :: a, b)) else some ([x], r)

/-- Launch instant of a descriptor, 2⁻¹⁶ ns. -/
def launchOf (x : Desc) : Option Nat := x.launch.map (fun (s, n) => (s * 1000000000 + n % 2 ^ 30) * 65536)

/-- Hand a fetched frame to its port: a frame longer than MAXLEN − 4 is completed with status 5 (R356). -/
def submitRing (d : Dev) (q port cls no : Nat) (x : Desc) (b : List Byte) : Dev :=
  if maxLen d port - 4 < b.length then txDone d q no 5 none
  else submitTx d port { (default : TxFrame) with
    src := .ring q, cls := cls, bytes := padFrame b, launch := launchOf x, stampWanted := x.tsReq,
    insert := if x.insert then some (x.insKind, x.insOfs) else none, seq := no }

/-- Fetch frames of a TXQ that a port's link reads, while the ring's quota and the free cells let it. -/
def fetchFrames : Nat → Dev → Nat → Dev
  | 0, d, _ => d
  | n + 1, d, q =>
    let r := txRing d q
    if !txEn d q || r.stop then d
    else match linkedTo d q, frontFrame r.posted with
      | some (p, cls), some (l, rest) =>
        let b := l.flatMap (·.bytes)
        let cells := cellsOf b.length
        if rgf d (cfgTx q + 0x38) 15 0 < sumN (r.fetched.map (·.2.1)) + cells || freeCells d < cells then d
        else
          let no := r.frameNo
          let mine := l.zipIdx.map (fun (_, i) => (no, if i + 1 == l.length then cells else 0, (none : Option (List Byte))))
          let d1 := updTx (takeCells d cells) q fun r => { r with posted := rest, fetched := r.fetched ++ mine, frameNo := no + 1 }
          fetchFrames n (submitRing d1 q p cls no (l.headD default) b) q
      | _, _ => d

def fetchRing (d : Dev) (q : Nat) : Dev := fetchFrames ((txRing d q).posted.length) d q

/-! ### Doorbells (R346, R354, R355) -/

/-- A descriptor as the device reads it (Tables 15.6, 15.8). -/
def descOf (rx : Bool) (p : Post) : Desc :=
  let b := padTo 32 p.desc
  let fl := beAt b 0x0A 1
  let len := leAt b 8 2 % 2 ^ 14
  { addr := leAt b 0 8, bytes := if rx then [] else padTo len p.data, bufLen := if rx then leAt b 8 4 % 2 ^ 14 else 0
    tsReq := fl.testBit 0, insert := fl.testBit 1, insKind := leAt b 0x0B 1, insOfs := leAt b 0x0C 2
    launch := if fl.testBit 2 then some (leAt b 0x10 8, leAt b 0x18 4) else none, more := fl.testBit 3 }

/-- The n descriptors that an advance gives. Host memory that the command does not tell of holds free values (log 2). -/
def readPosts (d : Dev) (rx : Bool) : Nat → List Post → List Desc × Dev
  | 0, _ => ([], d)
  | n + 1, p :: r => let (l, d1) := readPosts d rx n r; (descOf rx p :: l, d1)
  | n + 1, [] =>
    let (a, d1) := drawBytes d 32
    let (b, d2) := drawBytes d1 (leAt a 8 2 % 2 ^ 14)
    let (l, d3) := readPosts d2 rx n []
    (descOf rx ⟨a, b⟩ :: l, d3)

/-- A doorbell write that reaches its ring: `posts` are the descriptors it gives. -/
def doorbell (d : Dev) (rx : Bool) (q : Nat) (val : Word) (posts : List Post) : Dev :=
  let r := ringAt d rx q
  let a := if bit val 30 then 0 else (bits val 15 0 + 65536 - r.tail % 65536) % 65536
  if ringSize d rx q - r.inflight < a then
    let k := ringKey rx q + 0x1C
    logC (statSet (setReg d k (putBit (rg d k) 2 true)) baseQmg 16) srcQmgDoorbell (ringSource rx q) (bits val 15 0)
  else
    let arm := bit val 31
    let (l, d1) := readPosts d rx a posts
    let d2 := updRing d1 rx q fun r => { r with
      tail := if bit val 30 then r.tail else bits val 15 0,
      issued := r.issued + a, inflight := r.inflight + a, posted := r.posted ++ l,
      armed := r.armed || arm, since := if arm then 0 else r.since, firstT := if arm then none else r.firstT, pending := r.pending && !arm }
    if rx then d2 else fetchRing d2 q

/-- A doorbell write on PCIe: function 1's doorbell region and a ring with EN = 0 ignore it. -/
def execDoorbellWrite (fn : Nat) (rx : Bool) (ring : Nat) (val : Word) (posts : List Post) (s : State) :
    Host.Outcome State Fault Refusal :=
  act s fun d =>
    if 63 < ring || 1 < fn then d
    else if !pcieServed d || (fn == 1 && !(fuses d).wardenPcie) then { d with resp := ⟨.unsupportedRequest, [0]⟩ }
    else if fn == 1 || !ringOn d rx ring then answer d []
    else doorbell (answer d []) rx ring val posts

/-! ### Completions (R347, R352, R354) -/

/-- Write back the completion in front: data, descriptor, head, then the interrupt. -/
def writeBack (d : Dev) (rx : Bool) (q : Nat) : Dev :=
  let r := ringAt d rx q
  match r.filled with
  | x :: rest =>
    if !ringOn d rx q then d
    else
      let base := rgPair d (ringKey rx q + 8) / 4096 * 4096
      let d1 := if x.data.isEmpty then d else emit d (.hostWrite x.addr x.data)
      let d2 := emit d1 (.hostWrite (base + r.head % ringSize d rx q * 32) x.comp)
      let d3 := updRing d2 rx q fun r => { r with
        filled := rest, head := (r.head + 1) % 65536, completed := r.completed + 1, inflight := r.inflight - 1,
        since := r.since + 1, firstT := if r.firstT.isSome then r.firstT else some d.t }
      let d4 := if rgb d (ringKey rx q) 9 then
          emit d3 (.hostWrite (rgPair d (ringKey rx q + 0x10) / 4 * 4) (leBytes 4 ((r.head + 1) % 65536)))
        else d3
      let d5 := giveCells d4 x.cells
      let d6 := match x.port with
        | some (p, _) => { d5 with qmg := { d5.qmg with portHeld := upd d5.qmg.portHeld p (· - x.cells) } }
        | none => d5
      let d7 := if r.armed && max 1 (rgf d (ringKey rx q) 23 16) ≤ r.since + 1 then ringPending d6 rx q else d6
      if rx then d7 else fetchRing d7 q
  | [] => d

def execDescriptorCompletion (rx : Bool) (ring : Nat) (s : State) : Host.Outcome State Fault Refusal :=
  act s fun d => if 63 < ring then d else writeBack d rx ring

/-- When the time condition of an armed ring comes: ITIME after the first completion since it was armed (R352). -/
def itimeDue (d : Dev) (rx : Bool) (q : Nat) : Option Nat :=
  let r := ringAt d rx q
  let n := rgf d (ringKey rx q + 4) 15 0
  if r.armed && n != 0 then r.firstT.map (fun t => t.toNat + n * us) else none

/-! ### Enabling and stopping (R360, R361) -/

/-- EN has gone from 0 to 1: indices and counters restart, and what the ring held is gone with its cells. -/
def ringRestart (d : Dev) (rx : Bool) (q : Nat) : Dev :=
  let r := ringAt d rx q
  let d1 := giveCells d (sumN (r.filled.map (·.cells)) + sumN (r.fetched.map (·.2.1)))
  let d2 := r.filled.foldl (fun d x => match x.port with
    | some (p, _) => { d with qmg := { d.qmg with portHeld := upd d.qmg.portHeld p (· - x.cells) } }
    | none => d) d1
  updRing d2 rx q fun r => { frameNo := r.frameNo }

/-- A write of QR_CFG. -/
def ringCfg (d : Dev) (rx : Bool) (q : Nat) (val : Word) (acc : Option Access) : Dev :=
  let was := ringOn d rx q
  let d1 := classWrite d (ringKey rx q) val acc
  if !was && ringOn d1 rx q then ringRestart d1 rx q else d1

def execRingEnable (req : Requester) (rx : Bool) (ring : Nat) (s : State) : Host.Outcome State Fault Refusal :=
  act s fun d =>
    if 63 < ring then d
    else withWrite d req (ringKey rx ring) fun d =>
      ringCfg d rx ring (putBit (rg d (ringKey rx ring)) 31 true) (some (accOf req (ringKey rx ring)))

/-- A DMA read of the ring fails (R361): its next descriptor is completed, the ring stops, QMG_DMA is reported. Whether the failure was a Completion Timeout, which the Tally counts (Table 20.4), is a free value. -/
def dmaError (d : Dev) (rx : Bool) (q addr : Nat) : Dev :=
  let r := ringAt d rx q
  match r.posted with
  | x :: rest =>
    if !ringOn d rx q || r.stop then d
    else
      let d1 := if rx then
          updRx d q fun r => { r with posted := rest, filled := r.filled ++ [⟨[], x.addr, rxComp [] 0 0 0 0 0 0 0, 0, none⟩], stop := true }
        else
          updTx d q fun r =>
            let (a, b) := drainTx (r.fetched ++ [(r.frameNo, 0, some (txComp [] false 6))])
            { r with posted := rest, fetched := b, filled := r.filled ++ a, frameNo := r.frameNo + 1, stop := true }
      let (x, d2) := drawBelow d1 2
      let d3 := if x == 1 then tally d2 23 3 0x21 none else d2
      report (statSet d3 baseQmg 17) srcQmgDma (ringSource rx q) (addr % 2 ^ 24)
  | [] => d

def execDmaError (rx : Bool) (ring addr : Nat) (s : State) : Host.Outcome State Fault Refusal :=
  act s fun d => if 63 < ring then d else dmaError d rx ring addr

end Sys2Proof.Machine
end

