-- ==== Sys2Proof/Machine/Ptp.lean ====
section
/-! DEFINITION. The Crier's messages: PTP messages as bytes, Announce contents, refusal, scheduled messages, responses, grants (R302 to R314, R319, R320; rows DELAY_REQ_RECEIVED to SCHEDULED_MESSAGE_INSTANT, PT_GRD_SEL_WRITE). The fields of IEEE 1588-2019 that the chapter names only by their standard are laid out as that standard lays them out (PRESUMED, log 15). -/
namespace Sys2Proof.Machine
open Sys2Proof

/-! ### Messages received (R307) -/

/-- A PTP message the Crier has taken, by the layout of IEEE 1588-2019 clause 13: its header, its first timestamp in 2⁻¹⁶ ns, its bytes up to messageLength, its sender's address as Table 13.8 carries it, and what is known of its arrival. -/
structure PtpMsg where
  port    : Nat
  type    : Nat
  sdo     : Nat
  domain  : Nat
  unicast : Bool
  twoStep : Bool
  corr    : Int
  src     : List Byte
  seq     : Nat
  log     : Int
  /-- originTimestamp, preciseOriginTimestamp, receiveTimestamp or requestReceiptTimestamp -/
  time    : Int
  raw     : List Byte
  addr    : List Byte
  rx      : Taken
  deriving DecidableEq

/-- The message in a frame, at the offset of its header. -/
def msgAt (x : Taken) (o : Nat) : PtpMsg :=
  let b := slice x.bytes o (beAt x.bytes (o + 2) 2)
  { port := x.port, type := beAt b 0 1 % 16, sdo := beAt b 0 1 / 16, domain := beAt b 4 1
    unicast := (beAt b 6 1).testBit 2, twoStep := (beAt b 6 1).testBit 1, corr := sext 64 (beAt b 8 8)
    src := slice b 20 10, seq := beAt b 30 2, log := sext 8 (beAt b 33 1)
    time := ((beAt b 34 6 * 1000000000 + beAt b 40 4) * 65536 : Nat), raw := b
    addr := match udpOf x.bytes with
      | some u => u.src
      | none => padTo 16 (slice x.bytes 6 6)
    rx := x }

def msgOf (x : Taken) : Option PtpMsg := (ptpOfs x.bytes).map (msgAt x)

/-- The message belongs to a domain entry (R307). -/
def ofEntry (d : Dev) (e : Nat) (m : PtpMsg) : Bool :=
  let x := domEntry d e
  x.built && x.port == m.port && x.domain == m.domain && m.sdo == (if x.profile == 6 then 1 else 0)

/-- The domain entry it reaches: of several, the lowest (log 15). -/
def entryOf (d : Dev) (m : PtpMsg) : Option Nat := (List.range 16).find? (fun e => ofEntry d e m)

/-- The oldest message the Crier has taken that meets a test is looked at. -/
def takeMsg (d : Dev) (p : PtpMsg → Bool) (f : PtpMsg → Dev → Dev) : Dev :=
  let hit := fun (x : Taken) => x.ptp && (msgOf x).any p
  match d.taken.find? hit with
  | some x => f (msgAt x ((ptpOfs x.bytes).getD 0)) { d with taken := d.taken.eraseP hit }
  | none => d

/-- A request of a type at a port of a running Crier, with the entry it reaches. -/
def takeRequest (d : Dev) (p type : Nat) (f : Nat → PtpMsg → Dev → Dev) : Dev :=
  if !ptpRuns d then d
  else takeMsg d (fun m => m.port == p && m.type == type && (entryOf d m).isSome) fun m d =>
    match entryOf d m with
    | some e => f e m d
    | none => d

/-- The TLVs of a message from an offset on: type and value. -/
def tlvsFrom (b : List Byte) : Nat → Nat → List (Nat × List Byte)
  | 0, _ => []
  | n + 1, o =>
    let len := beAt b (o + 2) 2
    if b.length < o + 4 + len then [] else (beAt b o 2, slice b (o + 4) len) :: tlvsFrom b n (o + 4 + len)

/-- TLVs of a Signaling message. -/
def signalTlvs (m : PtpMsg) : List (Nat × List Byte) := tlvsFrom m.raw (m.raw.length / 4 + 1) 44

/-- TLVs of unicast negotiation: REQUEST 4, GRANT 5, CANCEL 6, ACKNOWLEDGE_CANCEL 7. -/
def negotiation (t : Nat) : Bool := 4 ≤ t && t ≤ 7

/-- The TLVs of a type of the oldest Signaling message that has some not yet handled; a message whose types are all handled is done with. -/
def takeSignal (d : Dev) (p : PtpMsg → Bool) (t : Nat) (f : PtpMsg → List (List Byte) → Dev → Dev) : Dev :=
  let has := fun (m : PtpMsg) => m.type == 12 && p m && !m.rx.handled.contains t && (signalTlvs m).any (·.1 == t)
  takeMsg d has fun m d =>
    let seen := m.rx.handled ++ [t]
    let rest := if (signalTlvs m).all (fun x => !negotiation x.1 || x.1 == 7 || seen.contains x.1) then [] else [{ m.rx with handled := seen }]
    f m (((signalTlvs m).filter (·.1 == t)).map (·.2)) { d with taken := rest ++ d.taken }

/-! ### Messages -/

def portUp (d : Dev) (p : Nat) : Bool := (portOf d p).st == .up

def portId (p : Nat) : List Byte := beBytes 10 (Config.portIdentity p).toNat

/-- controlField of a message type. -/
def controlOf (type : Nat) : Nat :=
  match type with
  | 0 => 0
  | 1 => 1
  | 8 => 2
  | 9 => 3
  | 13 => 4
  | _ => 5

/-- Second octet of a flagField that only Announce fills; first octet: bit 1 twoStep, bit 2 unicast. -/
def flags0 (two uni : Bool) : Nat := 2 * b2n two + 4 * b2n uni

/-- A PTP message of a domain entry (R307). -/
def ptpMsg (d : Dev) (e type f0 f1 : Nat) (corr : Int) (src : List Byte) (seq : Nat) (log : Int) (body : List Byte) : List Byte :=
  let x := domEntry d e
  beBytes 1 ((if x.profile == 6 then 16 else 0) + type) ++ [0x12] ++ beBytes 2 (34 + body.length) ++ beBytes 1 x.domain ++ [0]
    ++ beBytes 1 f0 ++ beBytes 1 f1 ++ beBytes 8 (BitVec.ofInt 64 corr).toNat ++ zeros 4 ++ src ++ beBytes 2 seq
    ++ beBytes 1 (controlOf type) ++ beBytes 1 (BitVec.ofInt 8 log).toNat ++ body

/-- A timestamp: seconds and whole nanoseconds. -/
def ptpTime (v : Nat) : List Byte := beBytes 6 (tSec v) ++ beBytes 4 (tNs v)

/-- logMessageInterval of a unicast message. -/
def uniLog : Int := 0x7F

/-! ### Refusal and sending (R305, R319, R404) -/

/-- The standby is mute (R404). -/
def muted (d : Dev) : Bool := d.gen.mode == .standby && twinConfigured d && d.twn.mute

/-- Hand a message to its port, in its frame, padded, with its outcome to come. -/
structure Sending where
  entry : Nat
  cls   : Nat
  dest  : Option (List Byte)
  peer  : Bool
  event : Bool
  /-- take the departure instant on the fly (R302), with the receive stamp of a Pdelay_Req -/
  insert : Bool := false
  base  : Option Int := none
  launch : Option Nat := none
  follow : Option Follow := none
  grant : Option Nat := none

def crierRefuse (d : Dev) (cls : Nat) (key : Bool) : Dev :=
  let d1 := ptpOutcome d cls 2
  if key then statSet d1 basePtp 19 else d1

/-- A message that is due is formed and handed over, or refused: its port not UP, the standby mute, or no key where it needs one. -/
def crierSend (d : Dev) (x : Sending) (msg : List Byte) : Dev :=
  let p := (domEntry d x.entry).port
  if !portUp d p || (muted d && x.event) then crierRefuse d x.cls false
  else
    let go := fun (m : List Byte) =>
      let (b, o, d1) := encapPtp d x.entry x.dest x.peer x.event m
      submitTx d1 p { (default : TxFrame) with
        src := .crier x.cls, cls := rgf d1 (macReg p 0x28) 2 0, bytes := padFrame b, launch := x.launch,
        insert := if x.insert then some (0, o) else none, base := x.base, follow := x.follow, grant := x.grant }
    if domAuth d x.entry then
      match crierKey d with
      | some k => go (authMsg d k msg)
      | none => crierRefuse d x.cls true
    else go msg

/-! ### What Announce says (R312 to R314, R402) -/

/-- The clock state of a scale (R313): 0 LOCKED, 1 HOLD, 2 DEGRADED, 3 FREE; ACQUIRING keeps the last. -/
def clockStateOf (d : Dev) (b : Bool) (last : Nat) : Nat :=
  let s := sclOf d b
  let servo := scaleServo d b
  if !(scaleOf d b).setDone || servo == .freeRun then 3
  else if oosOf s || voidOf s then 2
  else match servo with
    | .locked => 0
    | .holdover => 1
    | _ => last

/-- clockClass of Table 13.2 by state. -/
def clockClassOf (profile state : Nat) : Nat :=
  let mid := if profile == 2 || profile == 3 then 140 else 52
  [6, 7, mid, 248].getD state 248

def entryScale (d : Dev) (e : Nat) : Bool := (domEntry d e).scale == 1

/-- BOUND_TOTAL(s, p) for the scale that stamps the port, as of the last Bell (R136, R137); none for a void bound and for a scale that is not set (R135). -/
def portBound (d : Dev) (p : Nat) : Option Nat :=
  let b := match stampScale d 7 p with
    | 1 => false
    | 2 => true
    | _ => selScale d
  if voidOf (sclOf d b) || !(scaleOf d b).setDone then none
  else some (satU 64 (boundCore (sclOf d b).comp + d.stamps.getD p 0))

/-- clockAccuracy (R136, R320). -/
def clockAccOf (d : Dev) (e : Nat) : Nat :=
  let x := domEntry d e
  if domAcc d e then (if x.clockState == 0 || x.clockState == 1 then 0x21 else 0xFE)
  else match portBound d x.port with
    | some n => accCode n
    | none => 0xFE

/-- timeSource (R312). -/
def timeSourceOf (d : Dev) (b : Bool) : Nat :=
  match scaleCur d b with
  | some r => if 24 ≤ r && r ≤ 27 then 0x20 else if 16 ≤ r && r ≤ 23 then 0x40 else if kindOf d r == 3 then 0x10 else 0xA0
  | none => if hclassOf d b == 1 && (sclOf d b).tEntry.isSome then 0x10 else 0xA0

def traceable (d : Dev) (b : Bool) : Bool := !voidOf (sclOf d b) && scaleServo d b == .locked

/-- A change of TAI − UTC is scheduled within 12 h (R312): leap61, leap59. -/
def leapFlags (d : Dev) : Nat :=
  match d.gns.leapNext with
  | some (t, some n) =>
    let s := secOf d.tsc.o
    if d.gns.leapSrc != 0 && s < t && t ≤ s + 43200 then (if d.gns.leap < n then 1 else if n < d.gns.leap then 2 else 0) else 0
  | _ => 0

/-- The tracking slot of the PTP reference that is selected for an entry's scale (R312). -/
def parentSlot (d : Dev) (e : Nat) : Option TrackSlot :=
  match scaleCur d (entryScale d e) with
  | some r => if 16 ≤ r && r ≤ 23 then some (trackSlot d (slotOfRef r)) else none
  | none => none

/-- PT_DSTAT's fields now. -/
def dstatOf (d : Dev) (e : Nat) : Word :=
  let b := entryScale d e
  let x := domEntry d e
  w32 (clockClassOf x.profile x.clockState + clockAccOf d e * 2 ^ 8 + timeSourceOf d b * 2 ^ 16
    + b2n (traceable d b) * 2 ^ 24 + b2n (traceable d b) * 2 ^ 25)

/-- Announce fields of an entry from this chip: flagField and bytes 44 to 63. -/
def ownAnnounce (d : Dev) (e : Nat) (uni : Bool) : List Byte × List Byte :=
  let st := dstatOf d e
  let pri := rg d (domKey PT_DPRI e)
  let tr := bit st 24
  let flags := [BitVec.ofNat 8 (flags0 false uni),
    BitVec.ofNat 8 (leapFlags d + 4 * b2n (utcOffset d).isSome + 8 + 16 * b2n tr + 32 * b2n tr)]
  let own := beBytes 1 (bits pri 7 0) ++ beBytes 1 (bits st 7 0) ++ beBytes 1 (bits st 15 8) ++ beBytes 2 0x4E5D
    ++ beBytes 1 (bits pri 15 8) ++ (portId (domEntry d e).port).take 8
  let (gm, steps) := match parentSlot d e with
    | some s => (padTo 14 s.gm, s.steps + 1)
    | none => (own, 0)
  (flags, beBytes 2 (BitVec.ofInt 16 ((utcOffset d).getD 0)).toNat ++ [0] ++ gm ++ beBytes 2 steps ++ beBytes 1 (bits st 23 16))

/-- Entry e of the partner's last BELL message: portState, flagField, bytes 44 to 63 (R395, R402). -/
def partnerAnnounce (d : Dev) (e : Nat) : List Byte × List Byte :=
  let b := slice d.twn.announce (32 * e) 32
  (slice b 1 2, slice b 3 20)

/-- In STANDBY Announce carries the partner's fields, with the larger clockAccuracy (R402). -/
def announceFields (d : Dev) (e : Nat) (uni : Bool) : List Byte × List Byte :=
  let own := ownAnnounce d e uni
  if d.gen.mode == .standby && d.twn.announce.length == 512 then
    let (f, b) := partnerAnnounce d e
    let acc := max (beAt b 5 1) (beAt own.2 5 1)
    ([BitVec.ofNat 8 (flags0 false uni)] ++ f.drop 1, patch b 5 (beBytes 1 acc))
  else own

/-- The fields as sent are shown in PT_DSTAT. -/
def showSent (d : Dev) (e : Nat) (f b : List Byte) : Dev :=
  let w := w32 (beAt b 4 1 + beAt b 5 1 * 2 ^ 8 + beAt b 19 1 * 2 ^ 16 + b2n ((beAt f 1 1).testBit 4) * 2 ^ 24
    + b2n ((beAt f 1 1).testBit 5) * 2 ^ 25)
  { d with ptp := { d.ptp with entries := upd d.ptp.entries e (fun x => { x with stat := w }) } }

/-! ### Scheduled messages (R304, R306, R309) -/

/-- P of a stream, 2⁻¹⁶ ns. -/
def periodOf (log : Int) : Nat := if 0 ≤ log then 65536000000000 * 2 ^ log.toNat else 65536000000000 / 2 ^ (-log).toNat

def lofs (w : Nat) : Nat := max 2000 (min 20000 w)

def grantAt (d : Dev) (g : Nat) : Option Grant := d.ptp.grants.find? (·.index == g)
def updGrant (d : Dev) (g : Nat) (f : Grant → Grant) : Dev :=
  { d with ptp := { d.ptp with grants := d.ptp.grants.map (fun x => if x.index == g then f x else x) } }

/-- Destination address of a client, unless the transport is Ethernet multicast. -/
def clientDest (a : List Byte) : Option (List Byte) := some a

/-- A Sync of sequence number seq, begun at the instant `at_` of its stream, 2⁻¹⁶ ns. -/
def formSync (d : Dev) (e cls seq at_ : Nat) (log : Int) (dest : Option (List Byte)) (grant : Option Nat) : Dev :=
  let p := (domEntry d e).port
  let uni := dest.isSome
  let id := portId p
  let base : Sending := { entry := e, cls := cls, dest := dest, peer := false, event := true, grant := grant }
  if domTwo d e then
    let (o, d1) := drawBytes d 10
    let fu := ptpMsg d1 e 8 (flags0 false uni) 0 0 id seq log (zeros 10)
    crierSend d1 { base with follow := some ⟨e, dest, false, fu⟩ } (ptpMsg d1 e 0 (flags0 true uni) 0 0 id seq log o)
  else if domAuth d e then
    let l := ceilDiv at_ 65536 + lofs (rgf d PT_LOFS 14 0)
    crierSend d { base with launch := some (l * 65536) }
      (ptpMsg d e 0 (flags0 false uni) 0 0 id seq log (ptpTime (l * 65536)))
  else crierSend d { base with insert := true } (ptpMsg d e 0 (flags0 false uni) 0 0 id seq log (zeros 10))

/-- An Announce. Its originTimestamp is free within the standard (log 15). -/
def formAnnounce (d : Dev) (e cls seq : Nat) (log : Int) (dest : Option (List Byte)) (grant : Option Nat) : Dev :=
  let (o, d1) := drawBytes d 10
  let (f, b) := announceFields d1 e dest.isSome
  crierSend (showSent d1 e f b) { entry := e, cls := cls, dest := dest, peer := false, event := false, grant := grant }
    (ptpMsg d1 e 11 (beAt f 0 1) (beAt f 1 1) 0 (portId (domEntry d1 e).port) seq log (o ++ b))

/-- A stream: its port, message type, period and φ in 2⁻¹⁶ ns, its logMessageInterval, the last instant that has come, its grant class, where it goes and under which grant (R309). -/
structure Stream where
  entry : Nat
  port  : Nat
  mtype : Nat
  phi   : Nat
  log   : Int
  last  : Int
  cls   : Nat
  dest  : Option (List Byte)
  grant : Option Nat
  deriving DecidableEq

/-- The multicast stream of an entry (R308, R309): an entry in MASTER without unicast negotiation; a slaveOnly entry never sends Announce. -/
def multicastStream (d : Dev) (e mtype : Nat) : Option Stream :=
  let x := domEntry d e
  if x.built && x.portState == 6 && !domUni d e && (mtype == 0 || (mtype == 11 && x.role != 2)) then
    some ⟨e, x.port, mtype, 0, if mtype == 0 then domLogSync d e else domLogAnn d e, if mtype == 0 then x.lastSync else x.lastAnn,
      0, none, none⟩
  else none

/-- The stream of a grant: φ = (g mod 256) × P / 256. -/
def grantStream (d : Dev) (x : Grant) : Stream :=
  ⟨x.entry, (domEntry d x.entry).port, x.mtype, x.index % 256 * periodOf x.logint / 256, x.logint, x.last, 1, clientDest x.addr, some x.index⟩

/-- The stream that an instant belongs to. -/
def streamOf (d : Dev) (e : Nat) (grant : Option Nat) (mtype : Nat) : Option Stream :=
  if !ptpRuns d || 15 < e then none
  else match grant with
    | none => multicastStream d e mtype
    | some g => (grantAt d g).bind fun x =>
      if x.entry == e && x.mtype == mtype && (mtype == 0 || mtype == 11) && (domEntry d e).built then some (grantStream d x) else none

/-- k of a stream's next instant: the first that its scale reaches on this TCLK or later, and after the last one. -/
def nextK (d : Dev) (x : Stream) : Int :=
  let per := periodOf x.log
  let sc := stampScale d 7 x.port
  let before : Int := ((scaleVal d sc : Int) - incOf (scaleF d sc)) / 2 ^ 32
  max ((before - x.phi) / per) ((x.last - x.phi) / per) + 1

/-- I_k, 2⁻¹⁶ ns. -/
def instantAt (x : Stream) (k : Int) : Int := k * periodOf x.log + x.phi

/-- An instant of a stream has come. -/
def markInstant (d : Dev) (x : Stream) (i : Int) : Dev :=
  match x.grant with
  | some g => updGrant d g fun y => { y with last := i }
  | none => { d with ptp := { d.ptp with entries := upd d.ptp.entries x.entry fun y =>
      if x.mtype == 0 then { y with lastSync := i } else { y with lastAnn := i } } }

/-- The message of an instant: due, then formed with its sequenceId, or refused where the entry of a grant does not send it (R309, R319). -/
def formScheduled (d : Dev) (x : Stream) (k : Int) : Dev :=
  let i := instantAt x k
  let seq := (k % 65536).toNat
  let d1 := ptpDue (markInstant d x i) x.cls
  let y := domEntry d x.entry
  if y.portState != 6 || (x.mtype == 11 && y.role == 2) then crierRefuse d1 x.cls false
  else if x.mtype == 0 then formSync d1 x.entry x.cls seq i.toNat x.log x.dest x.grant
  else formAnnounce d1 x.entry x.cls seq x.log x.dest x.grant

/-- The next instant of a stream is here. -/
def scheduledInstant (d : Dev) (e : Nat) (grant : Option Nat) (mtype : Nat) : Dev :=
  match streamOf d e grant mtype with
  | some x => formScheduled d x (nextK d x)
  | none => d

/-- Instants that a positive step or a setting of their scale has passed over are not sent (R309); `v0` gives the scale of a port before it. -/
def streamSkips (old d : Dev) : Dev :=
  let skip := fun (p : Nat) (last : Int) =>
    let sc := stampScale d 7 p
    let set := match sc with
      | 1 => !old.tsc.a.setDone && d.tsc.a.setDone
      | 2 => !old.tsc.b.setDone && d.tsc.b.setDone
      | _ => !(scaleOf old old.tsc.cur).setDone && (scaleOf d d.tsc.cur).setDone
    if set then (portNow d p : Int) else if scaleVal old (stampScale old 7 p) < scaleVal d sc then max last (portNow d p : Nat) else last
  { d with ptp := { d.ptp with
      entries := d.ptp.entries.map fun x => { x with lastSync := skip x.port x.lastSync, lastAnn := skip x.port x.lastAnn }
      grants := d.ptp.grants.map fun g => { g with last := skip (domEntry d g.entry).port g.last } } }

/-! ### Verification of received messages (R305) -/

inductive AuthResult where
  | good | bad | noKey
  deriving DecidableEq

def verify (d : Dev) (e : Nat) (m : PtpMsg) : AuthResult :=
  if domAuth d e then
    match crierKey d with
    | some k => if authOk d k m.raw then .good else .bad
    | none => .noKey
  else .good

/-- A message discarded for its authentication. -/
def authFailed (d : Dev) : Dev := statSet (countUp d PT_AUTHFAIL 31 0 1) basePtp 16

/-! ### Responses (R310) -/

/-- Where a response goes: the requester's address for a unicast request, else the multicast address. -/
def answerDest (m : PtpMsg) : Option (List Byte) := if m.unicast then some m.addr else none

/-- The client's grant of a type on an entry. -/
def grantOf (d : Dev) (e mtype : Nat) (pid : List Byte) : Option Grant :=
  d.ptp.grants.find? (fun g => g.entry == e && g.mtype == mtype && g.pid == pid)

/-- A Delay_Req is answered, or refused. -/
def delayReq (d : Dev) (e : Nat) (m : PtpMsg) : Dev :=
  let x := domEntry d e
  let uni := domUni d e
  let cls := b2n uni
  match verify d e m with
  | .bad => authFailed d
  | .noKey => crierRefuse (ptpDue d cls) cls true
  | .good =>
    let d1 := ptpDue d cls
    let g := grantOf d e 9 m.src
    if x.portState != 6 || (uni && g.isNone) then crierRefuse d1 cls false
    else
      let rx := m.rx.stamp
      let log := if m.unicast then uniLog else domLogReq d e
      crierSend d1 { entry := e, cls := cls, dest := answerDest m, peer := false, event := false,
                     grant := if uni then g.map (·.index) else none }
        (ptpMsg d1 e 9 (flags0 false m.unicast) 0 (m.corr + tFrac rx) (portId x.port) m.seq log (ptpTime rx ++ m.src))

def execDelayReqReceived (port : Nat) (s : State) : Host.Outcome State Fault Refusal :=
  act s fun d => takeRequest d port 1 fun e m d => delayReq d e m

/-- A Pdelay_Req is answered on an entry with P2P = 1, one-step or two-step (R302, R310); on any other it is refused. -/
def pdelayReq (d : Dev) (e : Nat) (m : PtpMsg) : Dev :=
  let x := domEntry d e
  match verify d e m with
  | .bad => authFailed d
  | .noKey => crierRefuse (ptpDue d 2) 2 true
  | .good =>
    let d1 := ptpDue d 2
    let id := portId x.port
    let base : Sending := { entry := e, cls := 2, dest := answerDest m, peer := true, event := true }
    if !domP2p d e then crierRefuse d1 2 false
    else if domTwo d e then
      let fu := ptpMsg d1 e 10 (flags0 false m.unicast) 0 m.corr id m.seq uniLog (zeros 10 ++ m.src)
      crierSend d1 { base with follow := some ⟨e, answerDest m, true, fu⟩ }
        (ptpMsg d1 e 3 (flags0 true m.unicast) 0 0 id m.seq uniLog (ptpTime m.rx.stamp ++ m.src))
    else
      crierSend d1 { base with insert := true, base := some (m.rx.stamp : Nat) }
        (ptpMsg d1 e 3 (flags0 false m.unicast) 0 m.corr id m.seq uniLog (zeros 10 ++ m.src))

def execPdelayReqReceived (port : Nat) (s : State) : Host.Outcome State Fault Refusal :=
  act s fun d => takeRequest d port 2 fun e m d => pdelayReq d e m

/-! ### Unicast negotiation (R311) -/

/-- Only the chip holding the Floor answers negotiation (R311). -/
def negotiates (d : Dev) : Bool := holdsFloor d

/-- Changes of the grant table go into the next snapshot (R405). -/
def noteChange (d : Dev) (op : Nat) (g : Grant) : Dev :=
  if twinConfigured d && d.gen.mode == .active then { d with twn := { d.twn with changes := d.twn.changes ++ [(op, g)] } } else d

/-- A granted interval. Table 13.2 gives Delay_Resp no limits: it is granted as requested (log 15). -/
def grantLog (profile mtype : Nat) (log : Int) : Int :=
  if mtype == 0 then holdI (syncLimits profile).1 (syncLimits profile).2 log
  else if mtype == 11 then holdI (annLimits profile).1 (annLimits profile).2 log
  else log

def rateOf (log : Int) : Rat := if 0 ≤ log then 1 / (2 ^ log.toNat : Nat) else ((2 ^ (-log).toNat : Nat) : Rat)

/-- An index that no entry uses; which of them is not stated: a free choice (log 2). -/
def freeIndex (d : Dev) : Option Nat × Dev :=
  if 65536 ≤ d.ptp.grants.length then (none, d)
  else
    let (s, d1) := drawBelow d 65536
    (((List.range (d.ptp.grants.length + 1)).map (fun i => (s + i) % 65536)).find?
      (fun i => !d.ptp.grants.any (·.index == i)), d1)

/-- A Signaling message with one TLV, answering m. -/
def signal (d : Dev) (e : Nat) (m : PtpMsg) (tlv : List Byte) : Dev :=
  crierSend d { entry := e, cls := 3, dest := some m.addr, peer := false, event := false }
    (ptpMsg d e 12 (flags0 false true) 0 0 (portId (domEntry d e).port) m.seq uniLog (m.src ++ tlv))

/-- GRANT_UNICAST_TRANSMISSION; its renewal flag is free (log 15). -/
def grantTlv (d : Dev) (mtype : Nat) (log : Int) (dur : Nat) : List Byte × Dev :=
  let (r, d1) := drawBelow d 2
  (beBytes 2 5 ++ beBytes 2 8 ++ beBytes 1 (mtype * 16) ++ beBytes 1 (BitVec.ofInt 8 log).toNat ++ beBytes 4 dur ++ [0]
    ++ beBytes 1 r, d1)

/-- The Bell at which a grant of so many seconds ends: the first at or after its end. -/
def endBell (d : Dev) (dur : Nat) : BitVec 64 :=
  d.bellCnt + BitVec.ofNat 64 (dur + b2n (d.t != d.tsc.lastBellT))

/-- Why a request cannot be granted: none, or the STAT bit, if any. -/
def grantBar (d : Dev) (e mtype : Nat) (log : Int) (old : Option Grant) : Option (Option Nat) :=
  let x := domEntry d e
  if x.portState != 6 || !domUni d e || !(mtype == 0 || mtype == 9 || mtype == 11) then some none
  else if old.isNone && 65536 ≤ d.ptp.grants.length then some (some 17)
  else
    let others := d.ptp.grants.filter (fun g => some g.index != old.map (·.index))
    let sum := others.foldl (fun (a : Rat) g => a + rateOf g.logint) (rateOf log)
    if ((min 12000000 (rg d PT_RATEMAX).toNat : Nat) : Rat) < sum then some (some 18) else none

/-- A negotiation message is verified; its TLVs of a type are answered one by one (R311), or refused. -/
def answerTlvs (d : Dev) (e : Nat) (m : PtpMsg) (l : List (List Byte)) (f : Dev → List Byte → Dev) : Dev :=
  match verify d e m with
  | .bad => authFailed d
  | .noKey => l.foldl (fun d _ => crierRefuse (ptpDue d 3) 3 true) d
  | .good => l.foldl (fun d t => let d1 := ptpDue d 3; if negotiates d then f d1 t else crierRefuse d1 3 false) d

/-- The entry of the grant table that a request is granted under: the client's own, renewed in place, else a new one (R311). -/
def newGrant (d : Dev) (e : Nat) (m : PtpMsg) (mtype i : Nat) (log : Int) (dur : Nat) (old : Option Grant) : Grant :=
  let now : Int := (portNow d (domEntry d e).port : Nat)
  { index := i, addr := m.addr, pid := m.src, entry := e, mtype := mtype, logint := log, auth := domAuth d e, twoStep := domTwo d e,
    fromSnap := false, grantBell := d.bellCnt, endBell := endBell d dur, sent := (old.map (·.sent)).getD 0,
    last := match old with
      | some o => if o.logint == log then o.last else now
      | none => now }

/-- A REQUEST: granted, renewed in place, or refused with a duration of 0; what it asks for stands in its TLV (R311). -/
def unicastRequest (d : Dev) (e : Nat) (m : PtpMsg) (tlv : List Byte) : Dev :=
  let mtype := beAt tlv 0 1 / 16
  let ask := sext 8 (beAt tlv 1 1)
  let old := grantOf d e mtype m.src
  let log := grantLog (domEntry d e).profile mtype ask
  match grantBar d e mtype log old with
  | some st =>
    let d1 := match st with
      | some b => statSet d basePtp b
      | none => d
    let (t, d2) := grantTlv d1 mtype ask 0
    signal d2 e m t
  | none =>
    let n := max 10 (min (beAt tlv 2 4) (max 10 (min 1000 (rgf d PT_GMAXDUR 9 0))))
    let (ix, d1) := match old with
      | some g => (some g.index, d)
      | none => freeIndex d
    match ix with
    | some i =>
      let g := newGrant d1 e m mtype i log n old
      let d2 := { d1 with ptp := { d1.ptp with grants := d1.ptp.grants.filter (·.index != i) ++ [g] } }
      let (t, d3) := grantTlv (noteChange d2 (if old.isSome then 2 else 1) g) mtype log n
      signal d3 e m t
    | none => d1

/-- A CANCEL: the grant ends, and it is acknowledged. -/
def unicastCancel (d : Dev) (e : Nat) (m : PtpMsg) (tlv : List Byte) : Dev :=
  let mtype := beAt tlv 0 1 / 16
  let d1 := match grantOf d e mtype m.src with
    | some g => noteChange { d with ptp := { d.ptp with grants := d.ptp.grants.filter (·.index != g.index) } } 3 g
    | none => d
  signal d1 e m (beBytes 2 7 ++ beBytes 2 2 ++ beBytes 1 (mtype * 16) ++ [0])

/-- A Signaling message at a port, its TLVs of a type, and the entry it reaches. -/
def takeNegotiation (d : Dev) (p t : Nat) (f : Nat → PtpMsg → Dev → List Byte → Dev) : Dev :=
  if !ptpRuns d then d
  else takeSignal d (fun m => m.port == p && (entryOf d m).isSome) t fun m l d =>
    match entryOf d m with
    | some e => answerTlvs d e m l (f e m)
    | none => d

def execUnicastRequestReceived (port : Nat) (s : State) : Host.Outcome State Fault Refusal :=
  act s fun d => takeNegotiation d port 4 fun e m d t => unicastRequest d e m t

def execUnicastCancelReceived (port : Nat) (s : State) : Host.Outcome State Fault Refusal :=
  act s fun d => takeNegotiation d port 6 fun e m d t => unicastCancel d e m t

/-- Grants whose end this Bell has reached expire (R311). -/
def expireGrants (d : Dev) : Dev :=
  { d with ptp := { d.ptp with grants := d.ptp.grants.filter (fun g => d.bellCnt.toNat < g.endBell.toNat) } }

/-- A management message, or a Signaling message without a TLV of unicast negotiation (R307). -/
def isManagement (m : PtpMsg) : Bool := m.type == 13 || (m.type == 12 && (signalTlvs m).all (fun t => !negotiation t.1))

/-- It is copied to PT_EVRING's ring. -/
def managementMsg (d : Dev) (p : Nat) : Dev :=
  if !ptpRuns d then d
  else takeMsg d (fun m => m.port == p && isManagement m) fun m d =>
    if rgb d PT_EVRING 31 then
      let (d1, ok) := deliverFrame d (rgf d PT_EVRING 5 0) p 0 0 (frameTci m.rx.bytes) false none m.rx.bytes
      if ok then d1 else countUp d1 PT_EVDROP 31 0 1
    else d

def execManagementMessageReceived (port : Nat) (s : State) : Host.Outcome State Fault Refusal :=
  act s fun d => managementMsg d port

/-! ### The grant table as software reads it (Table 13.8) -/

def grantBytes (d : Dev) (g : Grant) : List Byte :=
  padTo 16 g.addr ++ padTo 10 g.pid ++ leBytes 1 g.entry ++ leBytes 1 g.mtype ++ leBytes 1 (BitVec.ofInt 8 g.logint).toNat
    ++ leBytes 1 (1 + 2 * b2n g.auth + 4 * b2n g.twoStep + 8 * b2n g.fromSnap) ++ leBytes 2 (if g.mtype == 9 then 0 else (nextK d (grantStream d g) % 65536).toNat)
    ++ leBytes 8 g.grantBell.toNat ++ leBytes 8 g.endBell.toNat ++ leBytes 8 g.sent.toNat ++ zeros 8

/-- A write of PT_GRD_SEL copies the entry (R58). -/
def grdSel (d : Dev) (r : Requester) (val : Word) : Dev :=
  let w := val &&& 0xFFFF#32
  let b := match grantAt d w.toNat with
    | some g => grantBytes d g
    | none => zeros 64
  holdFor (putSel d r PT_GRD_SEL w) r PT_GRD_DATA (leWords b)

def execPtGrdSelWrite (req : Requester) (val : Word) (s : State) : Host.Outcome State Fault Refusal :=
  act s fun d => withWrite d req PT_GRD_SEL fun d => grdSel d req val

end Sys2Proof.Machine
end

