-- ==== Sys2Proof/Machine/Track.lean ====
section
/-! DEFINITION. Tracking slots REF16 to REF23, peer delay, and the stored port calibrations (R298, R300, R315 to R318; rows SYNC_RECEIVED to ANNOUNCE_RECEIVED, TRACKING_DELAY_REQ to CALIBRATION_STORE_COMPLETE, UNICAST_GRANT_RECEIVED, PDELAY_RESP_RECEIVED). -/
namespace Sys2Proof.Machine
open Sys2Proof

/-! ### Slots -/

def slotKey (k m : Nat) : Nat := k + m * 0x40

/-- The slot is in use on a built entry of ROLE 2 or 3 (R315). -/
def slotRuns (d : Dev) (m : Nat) : Bool :=
  let x := domEntry d (slotEntry d m)
  ptpRuns d && m < 8 && efb d (slotKey PT_TCFG m) 31 && x.built && (x.role == 2 || x.role == 3)

def slotFixed (d : Dev) (m : Nat) : Bool := efb d (slotKey PT_TCFG m) 9
def slotUni (d : Dev) (m : Nat) : Bool := efb d (slotKey PT_TCFG m) 8 && slotFixed d m

/-- PT_TADDR as an address of Table 13.8. -/
def slotAddr (d : Dev) (m : Nat) : List Byte := (List.range 4).flatMap (fun i => leBytes 4 (ef d (slotKey PT_TADDR m + 4 * i)).toNat)

/-- A message reaches the slot's entry from its master: the clock at PT_TADDR, or the one the firmware has put into the slot (R315). -/
def fromMaster (d : Dev) (m : Nat) (x : PtpMsg) : Bool :=
  slotRuns d m && ofEntry d (slotEntry d m) x
    && (if slotFixed d m then padTo 16 x.addr == slotAddr d m else x.src == (trackSlot d m).master)

/-- The oldest message of a type from the slot's master that meets a test. -/
def takeTrack (d : Dev) (m type : Nat) (p : PtpMsg → Bool) (f : PtpMsg → Dev → Dev) : Dev :=
  takeMsg d (fun x => x.type == type && fromMaster d m x && p x) f

/-- What the slot's master has granted of a type. -/
def slotGrant (d : Dev) (m mtype : Nat) : Option SlotGrant := (trackSlot d m).grants.find? (·.mtype == mtype)

/-- The interval of a stream from the master: that of its messages, or of its grant, whose messages carry 0x7F. -/
def masterLog (d : Dev) (m mtype : Nat) (log : Int) : Int :=
  if log == uniLog then ((slotGrant d m mtype).map (·.log)).getD 0 else log

/-- Highest acceptable clockClass of a master (Table 13.2). -/
def classLimit (profile : Nat) : Nat := if profile == 2 || profile == 3 then 7 else 254

/-- The condition of Table 13.3 that fails, the lowest code first. -/
def invalidCause (d : Dev) (m : Nat) : Option Nat :=
  let s := trackSlot d m
  let x := domEntry d (slotEntry d m)
  if !s.annOk then some 1
  else if !s.syncOk then some 2
  else if !s.dlyOk then some 3
  else if classLimit x.profile < s.clockClass then some 4
  else if domAuth d (slotEntry d m) && s.authBad then some 5
  else if slotUni d m && !([0, 9, 11].all (fun t => (slotGrant d m t).isSome)) then some 6
  else if 255 ≤ s.steps then some 7
  else none

/-- Validity follows its conditions; the reference follows validity (R318), and the master's clockAccuracy (Table 7.3). -/
def evalSlot (d : Dev) (m : Nat) : Dev :=
  match invalidCause d m with
  | none =>
    let d1 := updSlot d m fun s => { s with valid := true, invCause := 0 }
    if !accAcceptable d1 (16 + m) then refLoss d1 (16 + m) 6 else refPresent d1 (16 + m)
  | some c =>
    if (trackSlot d m).valid then
      refLoss (updSlot d m fun s => { s with valid := false, invCause := c }) (16 + m) 3
    else d

/-- The slot is taken out of use, or its entry is gone: it is lost with all it knew (R315). -/
def dropSlot (d : Dev) (m : Nat) : Dev :=
  refLoss (updSlot d m fun s => { reqSeq := s.reqSeq }) (16 + m) 3

/-- Verify a message for a slot: what is discarded counts, and marks the slot (R305, R318). -/
def slotVerify (d : Dev) (m : Nat) (x : PtpMsg) (f : Dev → Dev) : Dev :=
  match verify d (slotEntry d m) x with
  | .good => evalSlot (f (updSlot d m fun s => { s with authBad := false })) m
  | .bad => evalSlot (updSlot (authFailed d) m fun s => { s with authBad := true }) m
  | .noKey => statSet d basePtp 19

/-! ### Offsets (R316, R317) -/

/-- An exchange or Sync is discarded (PT_TEVT). -/
def discardExchange (d : Dev) (m : Nat) : Dev := countUp d (slotKey PT_TEVT m) 31 16 1

/-- Mean path delay of a slot, where there is one: its own exchanges, or the port's meanLinkDelay. -/
def pathDelay (d : Dev) (m : Nat) : Option Int :=
  let e := slotEntry d m
  let p := (domEntry d e).port
  if domP2p d e then
    if (d.ptp.pds.getD p []).any (·.2) then some (d.ptp.mld.getD p 0) else none
  else if (trackSlot d m).ds.any (·.2) then some (trackSlot d m).mpd else none

/-- A Sync with its correction and origin complete: S = t2 − t1 − c_s, and the offset once a path delay is known. What the master gives as the time of its arrival is the monitor's measurement point (R147, R316). `inst`: its arrival on the free counter. -/
def useSync (d : Dev) (m : Nat) (t2 s inst log : Int) (side : Nat) : Dev :=
  if side != sideOf d m then discardExchange d m
  else
    let d1 := updSlot d m fun x => { x with syncOk := true, syncT := d.t, syncLog := masterLog d m 0 log, last := some (s, side) }
    match pathDelay d1 m with
    | some p =>
      let ofs := s - p - psTo16 (efS d1 (slotKey PT_TASYM m))
      let d2 := countUp (updSlot d1 m fun x => { x with ofs := ofs }) (slotKey PT_TEVT m) 15 0 1
      measurePoint d2 (16 + m) ((d.t.toNat * 65536 : Nat) - inst) ((t2 - ofs : Int) : Rat)
    | none => d1

/-- t2 of a message: its arrival on the slot's pair scale, and the step count of that scale then. -/
def arrival (d : Dev) (m : Nat) (x : PtpMsg) : Int := x.rx.pair.getD (pairScale d m) 0
def arrivalSide (d : Dev) (m : Nat) (x : PtpMsg) : Nat := x.rx.sides.getD (pairScale d m) 0

/-- A Sync of the slot's master. -/
def syncReceived (d : Dev) (m : Nat) : Dev :=
  takeTrack d m 0 (fun _ => true) fun x d => slotVerify d m x fun d =>
    let t2 := arrival d m x
    let side := arrivalSide d m x
    if x.twoStep then updSlot d m fun s => { s with pend := some (x.seq, t2, x.corr, side, x.rx.inst) }
    else useSync d m t2 (t2 - x.time - x.corr) x.rx.inst x.log side

def execSyncReceived (slot : Nat) (s : State) : Host.Outcome State Fault Refusal := act s fun d => syncReceived d slot

/-- The Follow_Up of the Sync that waits. -/
def followUpReceived (d : Dev) (m : Nat) : Dev :=
  takeTrack d m 8 (fun _ => true) fun x d => slotVerify d m x fun d =>
    match (trackSlot d m).pend with
    | some (seq, t2, c, side, inst) =>
      if seq == x.seq then
        useSync (updSlot d m fun s => { s with pend := none }) m t2 (t2 - x.time - (c + x.corr)) inst x.log side
      else d
    | none => d

def execFollowUpReceived (slot : Nat) (s : State) : Host.Outcome State Fault Refusal := act s fun d => followUpReceived d slot

/-- 2^DLYAVG and DLYTOL in 2⁻¹⁶ ns of a slot. -/
def dlyAvg (d : Dev) (m : Nat) : Nat := 2 ^ min 8 (eff d (slotKey PT_TDLY m) 3 0)
def dlyTol (d : Dev) (m : Nat) : Int := (eff d (slotKey PT_TDLY m) 31 16 * 65536 : Nat)

/-- The least of the last n delays, this one included. -/
def leastOf (x : Int) (l : List (Int × Bool)) : Int := l.foldl (fun a y => min a y.1) x

/-- Take a delay into a list of exchanges: whether it is accepted, the list, and the mean of the accepted of the last n (rounding free, log 2). -/
def takeDelay (d : Dev) (n : Nat) (tol x : Int) (l : List (Int × Bool)) : Bool × List (Int × Bool) × Int × Dev :=
  let ok := decide (x - leastOf x (l.take n) ≤ tol)
  let l1 := ((x, ok) :: l).take 256
  let acc := (l1.take n).filter (·.2)
  let (mean, d1) := freeDiv d (sumI (acc.map (·.1))) (max 1 acc.length)
  (ok, l1, mean, d1)

/-- The portIdentity a response names is the port's. -/
def forPort (d : Dev) (m : Nat) (x : PtpMsg) : Bool := slice x.raw 44 10 == portId (domEntry d (slotEntry d m)).port

/-- A Delay_Resp completes the exchange of the slot's last Delay_Req (R316, R317). -/
def delayRespReceived (d : Dev) (m : Nat) : Dev :=
  takeTrack d m 9 (fun x => !domP2p d (slotEntry d m) && forPort d m x) fun x d => slotVerify d m x fun d =>
    match (trackSlot d m).req, (trackSlot d m).last with
    | some (seq, t3, side3), some (s, side2) =>
      if seq != x.seq then d
      else
        let d1 := updSlot d m fun y => { y with req := none, reqLog := masterLog d m 9 x.log }
        if side2 != side3 then discardExchange d1 m
        else
          let (di, d2) := freeDiv d1 (s + (x.time - t3 - x.corr)) 2
          let (ok, l, mean, d3) := takeDelay d2 (dlyAvg d2 m) (dlyTol d2 m) di (trackSlot d2 m).ds
          let d4 := updSlot d3 m fun y => { y with ds := l, mpd := if l.any (·.2) then mean else y.mpd }
          if ok then updSlot d4 m fun y => { y with dlyOk := true, dlyT := d4.t } else discardExchange d4 m
    | _, _ => d

def execDelayRespReceived (slot : Nat) (s : State) : Host.Outcome State Fault Refusal := act s fun d => delayRespReceived d slot

/-- The slot in use on a port whose PT_TDLY governs the port's meanLinkDelay: the lowest (log 15). -/
def p2pSlot (d : Dev) (p : Nat) : Option Nat :=
  (List.range 8).find? (fun m => slotRuns d m && domP2p d (slotEntry d m) && (domEntry d (slotEntry d m)).port == p)

/-- A peer-delay exchange of a port is complete: ((t4 − t1) − (t3 − t2) − c) / 2, taken as E2E delays are (R316); across a step it is discarded (R317). -/
def peerDelay (d : Dev) (p m : Nat) (t1 t4 turn c : Int) (same : Bool) : Dev :=
  let each := fun (d : Dev) (f : Dev → Nat → Dev) => (List.range 8).foldl (fun d i =>
    if slotRuns d i && domP2p d (slotEntry d i) && (domEntry d (slotEntry d i)).port == p then f d i else d) d
  if !same then each d discardExchange
  else
    let (di, d2) := freeDiv d ((t4 - t1) - turn - c) 2
    let (ok, l, mean, d3) := takeDelay d2 (dlyAvg d2 m) (dlyTol d2 m) di (d2.ptp.pds.getD p [])
    let d4 := { d3 with ptp := { d3.ptp with
      pds := upd d3.ptp.pds p (fun _ => l), mld := if l.any (·.2) then upd d3.ptp.mld p (fun _ => mean) else d3.ptp.mld } }
    each d4 fun d i => evalSlot (if ok then updSlot d i (fun y => { y with dlyOk := true, dlyT := d.t }) else discardExchange d i) i

/-- A Pdelay_Resp of the port's request; a two-step one with its follow-up, which gives t3 (R316). -/
def pdelayResp (d : Dev) (p : Nat) : Dev :=
  match p2pSlot d p, d.ptp.pdReq.getD p none with
  | some m, some (seq, t1, side) =>
    let mine := fun (type : Nat) (x : PtpMsg) => x.type == type && ofEntry d (slotEntry d m) x && x.seq == seq && forPort d m x
    let done := fun (d : Dev) => { d with ptp := { d.ptp with pdReq := upd d.ptp.pdReq p (fun _ => none) } }
    let checked := fun (d : Dev) (x : PtpMsg) (f : Dev → Dev) => match verify d (slotEntry d m) x with
      | .bad => authFailed d
      | .noKey => statSet d basePtp 19
      | .good => f d
    let close := fun (x : PtpMsg) (turn c : Int) (d : Dev) =>
      peerDelay (done d) p m t1 x.rx.stamp turn c (x.rx.sides.getD (portIx d p) 0 == side)
    takeMsg d (fun x => mine 3 x && (!x.twoStep || d.taken.any (fun y => (msgOf y).any (mine 10)))) fun x d =>
      if x.twoStep then
        takeMsg d (mine 10) fun y d => checked d x fun d => checked d y fun d => close x (y.time - x.time) (x.corr + y.corr) d
      else checked d x (close x 0 x.corr)
  | _, _ => d

def execPdelayRespReceived (port : Nat) (s : State) : Host.Outcome State Fault Refusal := act s fun d => pdelayResp d port

/-! ### Announce (R308, R315, R318) -/

/-- The firmware ranks the reference (R315): a write of REF(16 + m)_CFG.RANK, where it differs. -/
def autoRank (d : Dev) (m rank : Nat) : Dev :=
  let k := refKey REF_CFG (16 + m)
  let r := min 7 rank
  if efb d (slotKey PT_TCFG m) 10 && !slotFixed d m && rgf d k 14 12 != r then
    classWrite d k (w32 ((rg d k).toNat - rgf d k 14 12 * 2 ^ 12 + r * 2 ^ 12)) (some (accOf .cores k))
  else d

/-- The portState the firmware gives an entry: a masterOnly entry never follows, a slaveOnly entry never leads (R308). -/
def setPortState (d : Dev) (e st : Nat) : Dev :=
  let x := domEntry d e
  let bad := (x.role == 1 && (st == 8 || st == 9)) || (x.role == 2 && st == 6) || 9 < st
  if bad then d else { d with ptp := { d.ptp with entries := upd d.ptp.entries e (fun y => { y with portState := st }) } }

/-- The firmware puts a foreign master into a slot with FIXED = 0: what the slot knew of another one is gone (R315). -/
def putMaster (d : Dev) (m : Nat) (src : List Byte) : Dev :=
  if slotFixed d m || (trackSlot d m).master == src then d
  else updSlot d m fun s => { s with master := src, annOk := false, syncOk := false, dlyOk := false, pend := none, last := none, req := none, ds := [] }

/-- An Announce of the slot's master, or of the master the firmware now puts there, with what the firmware makes of it (R308, R315): the master's BMCA position and the entry's portState. -/
def announceReceived (d : Dev) (m rank portState : Nat) : Dev :=
  let mine := fun (x : PtpMsg) => x.type == 11 && (if slotFixed d m then fromMaster d m x else slotRuns d m && ofEntry d (slotEntry d m) x)
  takeMsg d mine fun x d => slotVerify d m x fun d =>
    let d1 := updSlot (putMaster d m x.src) m fun s => { s with
      annOk := true, annT := d.t, annLog := masterLog d m 11 x.log
      clockClass := beAt x.raw 48 1, clockAcc := beAt x.raw 49 1, steps := min 255 (beAt x.raw 61 2), gm := slice x.raw 47 14 }
    setPortState (autoRank d1 m rank) (slotEntry d m) portState

def execAnnounceReceived (slot rank portState : Nat) (s : State) : Host.Outcome State Fault Refusal :=
  act s fun d => announceReceived d slot rank portState

/-! ### Requests of a slot (R315, R316) -/

/-- Where a slot's requests go: its master's address under unicast, else the multicast address. -/
def slotDest (d : Dev) (m : Nat) : Option (List Byte) := if slotFixed d m then some (slotAddr d m) else none

/-- A frame of a slot's own, which no outcome counter counts. -/
def slotFrame (d : Dev) (m : Nat) (dest : Option (List Byte)) (peer event : Bool) (track : Option Nat) (seq : Nat) (msg : List Byte) : Dev :=
  let e := slotEntry d m
  let p := (domEntry d e).port
  if !portUp d p || (muted d && event) then d
  else
    let go := fun (b : List Byte) =>
      let (f, _, d1) := encapPtp d e dest peer event b
      submitTx d1 p { (default : TxFrame) with
        src := .plain, cls := rgf d1 (macReg p 0x28) 2 0, bytes := padFrame f, track := track, seq := seq }
    if domAuth d e then
      match crierKey d with
      | some k => go (authMsg d k msg)
      | none => statSet d basePtp 19
    else go msg

/-- The slot's Delay_Req, or on a P2P entry the port's Pdelay_Req, which the port's lowest slot sends. -/
def sendRequest (d : Dev) (m : Nat) : Dev :=
  let e := slotEntry d m
  let p := (domEntry d e).port
  if !slotRuns d m || (domP2p d e && p2pSlot d p != some m) then d
  else
    let (o, d0) := drawBytes (updSlot d m fun s => { s with reqT := some d.t }) 10
    if domP2p d e then
      let seq := d0.ptp.pdSeq.getD p 0
      let d1 := { d0 with ptp := { d0.ptp with pdSeq := upd d0.ptp.pdSeq p (fun n => (n + 1) % 65536) } }
      slotFrame d1 m none true true (some m) seq (ptpMsg d1 e 2 0 0 0 (portId p) seq (domLogReq d1 e) (o ++ zeros 10))
    else
      let seq := (trackSlot d0 m).reqSeq
      let d1 := updSlot d0 m fun s => { s with reqSeq := (s.reqSeq + 1) % 65536 }
      let dest := if slotUni d m then slotDest d m else none
      slotFrame d1 m dest false true (some m) seq (ptpMsg d1 e 1 (flags0 false dest.isSome) 0 0 (portId p) seq uniLog o)

/-- 2^log s in TCLKs, rounded up. -/
def logTicks (log : Int) : Nat := ceilDiv (periodOf log) 65536

/-- The interval of a slot's requests: the master's, or of a P2P entry its own. -/
def requestLog (d : Dev) (m : Nat) : Int := if domP2p d (slotEntry d m) then domLogReq d (slotEntry d m) else (trackSlot d m).reqLog

/-- When the slot's next request is due: the first at once. -/
def requestDue (d : Dev) (m : Nat) : Nat :=
  match (trackSlot d m).reqT with
  | some t => t.toNat + logTicks (requestLog d m)
  | none => d.t.toNat

/-- logInterMessagePeriod a slot asks for. -/
def askLog (d : Dev) (e mtype : Nat) : Int :=
  if mtype == 0 then domLogSync d e else if mtype == 11 then domLogAnn d e else domLogReq d e

/-- REQUEST_UNICAST_TRANSMISSION of a type, at duration PT_GMAXDUR (R315); the number of the message is free (log 15). -/
def requestGrant (d : Dev) (m mtype : Nat) : Dev :=
  if !slotRuns d m || !slotUni d m then d
  else
    let e := slotEntry d m
    let (seq, d1) := drawBelow d 65536
    let dur := max 10 (min 1000 (rgf d PT_GMAXDUR 9 0))
    let tlv := beBytes 2 4 ++ beBytes 2 6 ++ beBytes 1 (mtype * 16) ++ beBytes 1 (BitVec.ofInt 8 (askLog d e mtype)).toNat ++ beBytes 4 dur
    slotFrame d1 m (slotDest d m) false false none 0
      (ptpMsg d1 e 12 (flags0 false true) 0 0 (portId (domEntry d e).port) seq uniLog (List.replicate 10 0xFF ++ tlv))

/-- A slot that has come into use asks for its grants (R315). -/
def requestGrants (d : Dev) (m : Nat) : Dev := [11, 0, 9].foldl (fun d t => requestGrant d m t) d

/-- When the renewal of a grant is due: half of its duration has passed (R315). -/
def renewalDue (d : Dev) (m mtype : Nat) : Option Nat :=
  (slotGrant d m mtype).bind fun g => if g.asked then none else some (g.t.toNat + g.dur * 500000000)

def updSlotGrant (d : Dev) (m mtype : Nat) (f : SlotGrant → SlotGrant) : Dev :=
  updSlot d m fun s => { s with grants := s.grants.map (fun g => if g.mtype == mtype then f g else g) }

def renewGrant (d : Dev) (m mtype : Nat) : Dev := requestGrant (updSlotGrant d m mtype fun g => { g with asked := true }) m mtype

/-- A GRANT: a duration of 0 refuses (R318). -/
def takeGrant (d : Dev) (m : Nat) (tlv : List Byte) : Dev :=
  let mtype := beAt tlv 0 1 / 16
  let dur := beAt tlv 2 4
  updSlot d m fun s =>
    let rest := s.grants.filter (·.mtype != mtype)
    { s with grants := if dur == 0 then rest else rest ++ [⟨mtype, sext 8 (beAt tlv 1 1), dur, d.t, false⟩] }

/-- The GRANTs of a message from the slot's master. -/
def grantReceived (d : Dev) (m : Nat) : Dev :=
  takeSignal d (fun x => slotUni d m && fromMaster d m x) 5 fun x l d =>
    slotVerify d m x fun d => l.foldl (fun d t => takeGrant d m t) d

def execUnicastGrantReceived (slot : Nat) (s : State) : Host.Outcome State Fault Refusal := act s fun d => grantReceived d slot

/-- When a timeout of Table 13.3 comes: ANNTO Announce intervals, 3 Sync intervals, 16 request intervals, the end of the first grant to expire. -/
def timeoutDue (d : Dev) (m cause : Nat) : Option Nat :=
  let s := trackSlot d m
  match cause with
  | 1 => if s.annOk then some (s.annT.toNat + eff d (domKey PT_DPRI (slotEntry d m)) 31 24 * logTicks s.annLog) else none
  | 2 => if s.syncOk then some (s.syncT.toNat + 3 * logTicks s.syncLog) else none
  | 3 => if s.dlyOk then some (s.dlyT.toNat + 16 * logTicks (requestLog d m)) else none
  | 6 => (s.grants.map fun g => g.t.toNat + g.dur * 1000000000).min?
  | _ => none

/-- A timeout of Table 13.3: 1 Announce, 2 Sync, 3 delay exchange, 6 a grant expired. An entry that no longer hears a master leads again, or listens (log 14). -/
def trackingTimeout (d : Dev) (m cause : Nat) : Dev :=
  if !slotRuns d m then d
  else
    let e := slotEntry d m
    let d1 := updSlot d m fun s =>
      match cause with
      | 1 => { s with annOk := false }
      | 2 => { s with syncOk := false, pend := none }
      | 3 => { s with dlyOk := false }
      | 6 => { s with grants := s.grants.filter fun g => d.t.toNat < g.t.toNat + g.dur * 1000000000 }
      | _ => s
    let silent := (List.range 8).all (fun i => !(slotRuns d1 i && slotEntry d1 i == e && (trackSlot d1 i).annOk))
    let d2 := if cause == 1 && silent then setPortState d1 e (if (domEntry d1 e).role == 2 then 4 else 6) else d1
    evalSlot d2 m

/-! ### Stored calibrations (R298) -/

def calKey (k p : Nat) : Nat := k + p * 0x40

/-- A port's record of 16 bytes: TXDLY, RXDLY, CALUNC, CRC-32, little-endian (DEDUCED, log 16). -/
def calRecord (d : Dev) (p : Nat) : List Byte :=
  let b := leBytes 4 (rg d (calKey PT_TXDLY p)).toNat ++ leBytes 4 (rg d (calKey PT_RXDLY p)).toNat
    ++ leBytes 4 (rg d (calKey PT_CALUNC p)).toNat
  b ++ leBytes 4 (crc32 b).toNat

/-- What a record says, where its CRC is right. -/
def calOf (b : List Byte) : Option (Int × Int × Nat) :=
  if b.length == 16 && leAt b 12 4 == (crc32 (b.take 12)).toNat then
    some (sext 32 (leAt b 0 4), sext 32 (leAt b 4 4), leAt b 8 4)
  else none

/-- The need of the NV write, µJ. -/
def calNeed : Nat := 2400

/-- A write of PT_CALCMD. -/
def calcmd (d : Dev) (val : Word) (acc : Option Access) : Dev :=
  let d1 := classWrite d PT_CALCMD val acc
  let p := bits val 2 0
  if !bit val 8 || 5 < p || d1.ptp.storing.isSome then d1
  else if energyFor d1 calNeed then { d1 with ptp := { d1.ptp with storing := some (p, calRecord d1 p) } }
  else setReg (nvRefused d1) PT_CALCMD (putBit (rg d1 PT_CALCMD) 17 true)

def execPtCalcmdStore (req : Requester) (val : Word) (s : State) : Host.Outcome State Fault Refusal :=
  act s fun d => withWrite d req PT_CALCMD fun d => calcmd d val (some (accOf req PT_CALCMD))

/-- The record has been written and read back (R298). -/
def calStored (d : Dev) (equal : Bool) : Dev :=
  match d.ptp.storing with
  | some (p, b) =>
    let d1 := nvPut { d with ptp := { d.ptp with storing := none } } (0xC000 + 16 * p) b
    if equal then { d1 with ptp := { d1.ptp with cals := upd d1.ptp.cals p (fun c => { c with next := calOf b }) } }
    else setReg d1 PT_CALCMD (putBit (rg d1 PT_CALCMD) 17 true)
  | none => d

def execCalibrationStoreComplete (equal : Bool) (s : State) : Host.Outcome State Fault Refusal :=
  act s fun d => calStored d equal

/-- A start loads the records (R298). -/
def loadCals (d : Dev) : Dev :=
  { d with ptp := { d.ptp with cals := (List.range 6).map (fun p => match calOf (nvRead d (0xC000 + 16 * p) 16) with
      | some (t, r, u) => { valid := true, tx := t, rx := r, unc := u }
      | none => {}) } }

/-! ### The Bell -/

/-- Written calibrations take effect (R298). -/
def takeCals (d : Dev) : Dev :=
  let cal := fun (c : PortCal) => match c.next with
    | some (t, r, u) => { valid := true, tx := t, rx := r, unc := u }
    | none => c
  { d with ptp := { d.ptp with cals := d.ptp.cals.map cal } }

/-- What the Crier does at a Bell: grants expire, clock states move (R311, R313, R314, R319). -/
def ptpBell (d : Dev) : Dev :=
  let d1 := expireGrants d
  let ent := fun (x : DomEntry) =>
    if x.built then
      let st := clockStateOf d1 (x.scale == 1) x.clockState
      { x with clockState := st, stat := w32 (clockClassOf x.profile st + x.stat.toNat / 256 * 256) }
    else x
  { d1 with ptp := { d1.ptp with
      entries := d1.ptp.entries.map ent,
      outc := d1.ptp.outc.map (fun l => l.set 5 (l.getD 4 0)) } }

end Sys2Proof.Machine
end

