-- ==== Sys2Proof/Machine/Tol.lean ====
section
/-! DEFINITION. The Tollgate: requests, answers, NTS, epochs, the mint service (R322 to R344; rows NTP_REQUEST_TAKEN to CACHE_FILLED). -/
namespace Sys2Proof.Machine
open Sys2Proof

/-! ### Extension fields (RFC 7822, R326) -/

/-- An extension field: type, offset of the field in the payload, body. -/
structure ExtField where
  type : Nat
  at_  : Nat
  body : List Byte

/-- The extension fields from an offset on, and whether they are well formed to the end (PRESUMED from RFC 7822, log 17). -/
def parseExt (b : List Byte) : Nat → Nat → List ExtField × Bool
  | 0, _ => ([], false)
  | n + 1, o =>
    if b.length ≤ o then ([], true)
    else
      let len := beAt b (o + 2) 2
      if b.length < o + 4 || len < 16 || len % 4 != 0 || b.length < o + len || (b.length == o + len && len < 28) then ([], false)
      else
        let (l, ok) := parseExt b n (o + len)
        (⟨beAt b o 2, o, slice b (o + 4) (len - 4)⟩ :: l, ok)

def extFields (b : List Byte) : List ExtField × Bool := parseExt b (b.length / 16 + 1) 48

def ofType (l : List ExtField) (t : Nat) : List ExtField := l.filter (·.type == t)

/-- An NTS request carries a Cookie or an Authenticator field (R322). -/
def isNts (b : List Byte) : Bool :=
  let l := (extFields b).1
  !(ofType l 0x0204).isEmpty || !(ofType l 0x0404).isEmpty

/-- The Unique Identifier, where there is one valid one. -/
def uniqueId (l : List ExtField) : Option ExtField :=
  match ofType l 0x0104 with
  | [u] => if 32 ≤ u.body.length then some u else none
  | _ => none

/-! ### Taking requests (R322, R339, R340) -/

/-- A request as the queue holds it: served as NTS, as NTPv4 or refused with RSTR, as its address entry says, and the way back (R322). -/
def ntpReq (d : Dev) (x : Taken) (u : UdpAt) : TolReq :=
  let pay := udpPayload x.bytes u
  let cfg := ((tolEntry d x.port u.dst).map (fun n => rg d (TOL_IP_CFG + n * 0x20))).getD 0
  let nts := isNts pay && bit cfg 8
  { port := x.port, nts := nts, rstr := !nts && !bit cfg 9, rxStamp := x.stamp, rxT := x.t, dst := u.dst
    back := slice x.bytes 6 6 ++ u.src ++ slice x.bytes u.udp 2 ++ ((frameTci x.bytes).map (beBytes 2)).getD [], payload := pay }

/-- The oldest request taken at a port is queued, or dropped for overload. -/
def ntpTaken (d0 : Dev) (p : Nat) : Dev :=
  let mine := fun (x : Taken) => !x.ptp && x.port == p
  match d0.taken.find? mine with
  | some x =>
    let d := { d0 with taken := d0.taken.eraseP mine }
    match udpOf x.bytes with
    | some u =>
      let q := ntpReq d x u
      let d1 := tolTaken d (b2n q.nts)
      if 16384 ≤ d1.tol.queue.length then tolOutcome d1 (b2n q.nts) 4
      else { d1 with tol := { d1.tol with queue := d1.tol.queue ++ [q] } }
    | none => d
  | none => d0

def execNtpRequestTaken (port : Nat) (s : State) : Host.Outcome State Fault Refusal := act s fun d => ntpTaken d port

/-! ### The answer's header (R323 to R325, R137) -/

/-- Scale of a port's answers: 0 TS-O, 1 TS-A, 2 TS-B; the working scale behind it. -/
def answerScale (d : Dev) (p : Nat) : Bool :=
  match stampScale d 7 p with
  | 1 => false
  | 2 => true
  | _ => selScale d

/-- Reference ID by the last time or phase reference selected for the scale; none selected yet: free (log 2). -/
def refIdOf (d : Dev) (b : Bool) : List Byte × Dev :=
  match d.tol.lastRef.getD (b2n b) none with
  | some r =>
    if 24 ≤ r && r ≤ 27 then (ascii "GNSS", d)
    else if 16 ≤ r && r ≤ 23 then (padTo 4 (ascii "PTP"), d)
    else if r == 30 then (padTo 4 d.tol.partnerRefId, d)
    else (padTo 4 (ascii "PPS"), d)
  | none => drawBytes d 4

/-- LI while a change is scheduled: from 00:00:00 UTC of the day that ends with it. -/
def leapWarn (d : Dev) (v : Nat) : Nat :=
  match d.gns.leapNext with
  | some (t, some n) =>
    let start : Int := (t : Int) - (86400 + (n - d.gns.leap))
    let s : Int := (tSec v : Nat)
    if d.gns.leapSrc != 0 && start ≤ s && s < t then (if d.gns.leap < n then 1 else if n < d.gns.leap then 2 else 0) else 0
  | _ => 0

/-- LI, Stratum, Reference ID (Table 14.2). -/
def liStratum (d : Dev) (p : Nat) : Nat × Nat × List Byte × Dev :=
  let b := answerScale d p
  if !(scaleOf d b).setDone then (3, 16, ascii "INIT", d)
  else if voidOf (sclOf d b) then (3, 16, ascii "VOID", d)
  else if (utcOffset d).isNone then (3, 16, ascii "LEAP", d)
  else
    let (r, d1) := refIdOf d b
    (leapWarn d (portNow d p), 1, r, d1)

/-- Root Dispersion (R137). -/
def rootDisp (d : Dev) (p : Nat) : Nat :=
  match portBound d p with
  | some n => min (ceilDiv n 1000000000) 0x00100000
  | none => 0x00100000

def precisionOf (d : Dev) (p : Nat) : Int :=
  let c := portSpeed d p
  if c ≤ 3 then -34 else if c == 4 then -33 else -30

/-- The index of a port's scale in `lockedAt`: TS-A, TS-B, TS-O. -/
def lockIx (d : Dev) (p : Nat) : Nat :=
  match stampScale d 7 p with
  | 1 => 0
  | 2 => 1
  | _ => 2

/-- Kiss code of an answer: none, or a Stratum 0 answer's Reference ID with zero stamps or not. -/
inductive Kiss where
  | none | ntsn | rstr
  deriving DecidableEq

/-- The 48 bytes of Table 14.1; `tx` is the Transmit Timestamp, where it is already known. -/
def answerHeader (d : Dev) (r : TolReq) (kiss : Kiss) (tx : Option Nat) : List Byte × Dev :=
  let (li, st, id, d1) := liStratum d r.port
  let vn := if r.nts then 4 else beAt r.payload 0 1 / 8 % 8
  let (rx, d2) := ntpOf d1 r.rxStamp
  let (rf, d3) := match d2.tol.lockedAt.getD (lockIx d2 r.port) none with
    | some v => ntpOf d2 v
    | none => (0, d2)
  let (t, d4) := match tx with
    | some v => ntpOf d3 v
    | none => (0, d3)
  let (st1, id1) := match kiss with
    | .none => (st, id)
    | .ntsn => (0, ascii "NTSN")
    | .rstr => (0, ascii "RSTR")
  (beBytes 1 (li * 64 + vn * 8 + 4) ++ beBytes 1 st1 ++ slice r.payload 2 1 ++ beBytes 1 (BitVec.ofInt 8 (precisionOf d r.port)).toNat
    ++ zeros 4 ++ beBytes 4 (rootDisp d r.port) ++ id1 ++ beBytes 8 rf ++ slice r.payload 40 8
    ++ beBytes 8 (if kiss == .ntsn then 0 else rx) ++ beBytes 8 (if kiss == .ntsn then 0 else t), d4)

/-- The answer in its frame, back the way the request came (R322), and the offset of the NTP header. What is left open of the IP header is free (log 2). -/
def answerFrame (d : Dev) (r : TolReq) (body : List Byte) : List Byte × Nat × Dev :=
  let (fr, d1) := drawBytes d 3
  let mac := slice r.back 0 6
  let ip := slice r.back 6 16
  let tag := if 26 ≤ r.back.length then beBytes 2 0x8100 ++ slice r.back 24 2 else []
  let len := 8 + body.length
  let udp := beBytes 2 123 ++ slice r.back 22 2 ++ beBytes 2 len ++ [0, 0] ++ body
  let v6 := !isV4 ip
  let h := if v6 then beBytes 4 0x60000000 ++ beBytes 2 len ++ [17] ++ fr.drop 2 ++ r.dst ++ ip
    else
      let h := [0x45, 0x00] ++ beBytes 2 (20 + len) ++ fr.take 2 ++ [0, 0] ++ fr.drop 2 ++ [17, 0, 0] ++ r.dst.drop 12 ++ ip.drop 12
      patch h 10 (beBytes 2 (65535 - sum16 h))
  let head := mac ++ macAddr d r.port ++ tag ++ beBytes 2 (if v6 then 0x86DD else 0x0800)
  (fixUdp (head ++ h ++ udp), head.length + h.length + 8, d1)

/-- Hand a frame to the port in class ENGTC. -/
def handAnswer (d : Dev) (r : TolReq) (src : TxSource) (launch : Option Nat) (insert : Bool) (body : List Byte) : Dev :=
  let (b, o, d1) := answerFrame d r body
  submitTx d1 r.port { (default : TxFrame) with
    src := src, cls := rgf d1 (macReg r.port 0x28) 2 0, bytes := padFrame b, launch := launch,
    insert := if insert then some (1, o) else none }

/-- Refusals by cause (TOL_REFi), and the outcome. -/
def refuseReq (d : Dev) (r : TolReq) (cause : Option Nat) : Dev :=
  let d1 := match cause with
    | some i => countUp d (TOL_REF + 4 * i) 31 0 1
    | none => d
  tolOutcome d1 (b2n r.nts) 2

/-- A request a pipeline takes from the queue: dropped when it has waited too long, refused without an answer when its port is not UP or the standby is mute. -/
def beginReq (d : Dev) (r : TolReq) (f : Dev → Dev) : Dev :=
  if max 1 (rgf d TOL_QMAX 9 0) * us < d.t.toNat - r.rxT.toNat then tolOutcome d (b2n r.nts) 4
  else if !portUp d r.port then refuseReq d r (some 6)
  else if muted d then refuseReq d r none
  else f d

/-! ### Extracts in answers (R335) -/

/-- The Extract field of an answer: none where it is not asked for; counted where there is none to give. -/
def extractField (d : Dev) (r : TolReq) : List Byte × Dev :=
  let t := rgf d TOL_XEF 15 0
  if (extFields r.payload).1.any (fun x => x.type == t && 12 ≤ x.body.length) then
    match (sclOf d (answerScale d r.port)).extract with
    | some x => (beBytes 2 t ++ beBytes 2 260 ++ padTo 256 x, d)
    | none => ([], countUp d TOL_XNONE 31 0 1)
  else ([], d)

/-! ### Unauthenticated answers (R323, R334) -/

def ntpAnswer (d : Dev) : Dev :=
  match d.tol.queue with
  | r :: rest =>
    if r.nts || !tolRuns d then d
    else beginReq { d with tol := { d.tol with queue := rest } } r fun d =>
      if r.rstr then
        let (h, d1) := answerHeader d r .rstr none
        handAnswer (refuseReq d1 r (some 5)) r .plain none true h
      else
        let (h, d1) := answerHeader d r .none none
        let (x, d2) := if rgb d1 (baseTol + 4) 1 then extractField d1 r else ([], d1)
        handAnswer d2 r (.tollgate 0) none true (h ++ x)
  | [] => d

def execNtpv4Answer (s : State) : Host.Outcome State Fault Refusal := act s ntpAnswer

/-! ### Epoch keys and cookies (R327 to R331) -/

/-- K_E (R328). -/
def epochKey (root : List Byte) (e : Word) : List Byte :=
  kdf root (ascii "GELUST TOLLGATE COOKIE") (beBytes 4 e.toNat) 256

/-- The cookie root: a valid working key. -/
def tolRoot (d : Dev) : Option (List Byte) := if (workOf d 0).node.isSome then some (workOf d 0).key else none

/-- The cache filled under a root: K_E to K_(E−3). -/
def fillCache (root : List Byte) (e : Word) : List (Option (List Byte)) :=
  (List.range 4).map (fun i => some (epochKey root (e - BitVec.ofNat 32 i)))

/-- The key of an epoch, if the cache holds it. -/
def cachedKey (d : Dev) (epoch : Nat) : Option (List Byte) :=
  let j := (d.tol.e.toNat + 2 ^ 32 - epoch % 2 ^ 32) % 2 ^ 32
  if j < 4 then (d.tol.cache.getD j none) else none

/-- A new cookie under E (R327). -/
def mintCookie (d : Dev) (key c2s s2c : List Byte) : List Byte × Dev :=
  let (n, d1) := drawBytes d 16
  let ad := beBytes 4 d.tol.e.toNat ++ n
  (ad ++ beBytes 80 (Config.sivSeal key [ad] (c2s ++ s2c)), d1)

/-- n cookies, one after another. -/
def mintCookies (d : Dev) (key c2s s2c : List Byte) : Nat → List (List Byte) × Dev
  | 0 => ([], d)
  | n + 1 =>
    let (c, d1) := mintCookie d key c2s s2c
    let (l, d2) := mintCookies d1 key c2s s2c n
    (c :: l, d2)

/-- What an NTS request opens to: its authenticator's offset, the two keys, the number of counted placeholders. -/
structure Opened where
  authAt : Nat
  uid    : ExtField
  c2s    : List Byte
  s2c    : List Byte
  k      : Nat

/-- Placeholders that count: the last seven of those whose body is 100 bytes. -/
def placeholders (l : List ExtField) : Nat := min 7 ((ofType l 0x0304).filter (fun x => x.body.length == 100)).length

/-- The authenticator's nonce and cipher text (RFC 8915). -/
def authParts (b : List Byte) : List Byte × List Byte :=
  let n := beAt b 0 2
  let c := beAt b 2 2
  (slice b 4 n, slice b (4 + (n + 3) / 4 * 4) c)

/-- The checks of Table 14.4: the cause counter of the first that fails, or what the request opens to. -/
def ntsCheck (d : Dev) (b : List Byte) : Nat ⊕ Opened :=
  let (l, ok) := extFields b
  match uniqueId l, ofType l 0x0204, ofType l 0x0404, l.getLast? with
  | some u, [c], [a], some z =>
    if !ok || z.type != 0x0404 then .inl 0
    else if (tolRoot d).isNone || !d.tol.ready then .inl 1
    else if c.body.length != 100 then .inl 2
    else match cachedKey d (beAt c.body 0 4) with
      | none => .inl 2
      | some key =>
        let o := Config.sivOpen key [c.body.take 20] (c.body.drop 20)
        if !o.1 then .inl 3
        else
          let keys := beBytes 64 o.2
          let (nonce, ct) := authParts a.body
          if ct.length == 16 && (Config.sivOpen (keys.take 32) [b.take a.at_, nonce] ct).1 then
            .inr ⟨a.at_, u, keys.take 32, keys.drop 32, placeholders l⟩
          else .inl 4
  | _, _, _, _ => .inl 0

/-- An NTS NAK (R332). -/
def sendNak (d : Dev) (r : TolReq) (cause : Nat) : Dev :=
  let (h, d1) := answerHeader d r .ntsn none
  let uid := match uniqueId (extFields r.payload).1 with
    | some u => slice r.payload u.at_ (4 + u.body.length)
    | none => []
  handAnswer (refuseReq d1 r (some cause)) r .plain none false (h ++ uid)

/-- An extension field. -/
def ext (t : Nat) (b : List Byte) : List Byte := beBytes 2 t ++ beBytes 2 (4 + b.length) ++ b

/-- An NTS answer (R333). -/
def sendNts (d : Dev) (r : TolReq) (o : Opened) : Dev :=
  let l := (ceilDiv (portNow d r.port) 65536 + lofs (rgf d TOL_LOFS 14 0)) * 65536
  let (h, d1) := answerHeader d r .none (some l)
  let (x, d2) := extractField d1 r
  let key := ((d2.tol.cache.getD 0 none).getD [])
  let (cs, d3) := mintCookies d2 key o.c2s o.s2c (1 + o.k)
  let (nonce, d4) := drawBytes d3 16
  let head := h ++ slice r.payload o.uid.at_ (4 + o.uid.body.length) ++ x
  let plain := cs.flatMap (ext 0x0204)
  let ct := beBytes (16 + plain.length) (Config.sivSeal o.s2c [head, nonce] plain)
  handAnswer d4 r (.tollgate 1) (some l) false (head ++ ext 0x0404 (beBytes 2 16 ++ beBytes 2 ct.length ++ nonce ++ ct))

/-- A pipeline begins the exchange in front (R333, R340). -/
def ntsBegin (d : Dev) : Dev :=
  match d.tol.queue with
  | r :: rest =>
    if !r.nts || !tolRuns d then d
    else beginReq { d with tol := { d.tol with queue := rest } } r fun d =>
      match ntsCheck d r.payload with
      | .inl c => sendNak d r c
      | .inr o => sendNts d r o
  | [] => d

def execNtsExchangeBegin (s : State) : Host.Outcome State Fault Refusal := act s ntsBegin

/-! ### Epochs (R329 to R331) -/

/-- A write of TOL_CMD: the advance waits for its Bell; in STANDBY it is ignored. -/
def tolCmd (d : Dev) (val : Word) (acc : Option Access) : Dev :=
  if !bit val 0 || d.gen.mode == .standby then d
  else
    if lateForBell d then markLate { d with tol := { d.tol with advanceLate := true } } TOL_CMD acc
    else { d with tol := { d.tol with advance := true } }

def execTolCmdAdvance (req : Requester) (val : Word) (s : State) : Host.Outcome State Fault Refusal :=
  act s fun d => withWrite d req TOL_CMD fun d => tolCmd d val (some (accOf req TOL_CMD))

/-- K_(E+1) is derived (R329). -/
def execEpochKeyDerived (s : State) : Host.Outcome State Fault Refusal :=
  act s fun d => if tolRuns d && (tolRoot d).isSome && d.tol.ready then { d with tol := { d.tol with nextReady := true } } else d

def epochLen (d : Dev) : Nat := max 60 (eff d TOL_EPOCHLEN 23 0)

/-- E + 1 becomes current; E − 3 leaves the cache. -/
def advanceEpoch (d : Dev) : Dev :=
  let e := d.tol.e + 1
  let cache := match tolRoot d with
    | some k => if d.tol.ready then some (epochKey k e) :: d.tol.cache.take 3 else []
    | none => []
  statSet { d with tol := { d.tol with e := e, age := 0, nextReady := false, cache := cache } } baseTol 19

/-- What the Tollgate does at a Bell: the first Bell in ACTIVE advances E (R330); else an advance that is due and whose key is ready (R329). -/
def tolBell (d : Dev) : Dev :=
  let d0 := { d with tol := { d.tol with outc := d.tol.outc.map (fun l => l.set 6 (l.getD 5 0)) } }
  if !inService d0 then d0
  else if d0.gen.mode == .active && !d0.tol.startAdv then
    let d1 := advanceEpoch d0
    { d1 with tol := { d1.tol with startAdv := true } }
  else
    let age := if d0.tol.age == BitVec.allOnes 32 then d0.tol.age else d0.tol.age + 1
    let due := epochLen d0 ≤ age.toNat || d0.tol.advance
    if due && d0.tol.nextReady then
      let d1 := advanceEpoch d0
      { d1 with tol := { d1.tol with advance := d0.tol.advanceLate, advanceLate := false } }
    else { d0 with tol := { d0.tol with age := age, advance := d0.tol.advance || d0.tol.advanceLate, advanceLate := false } }

/-! ### The mint service (R336) -/

/-- The mint record in front. Which STATUS a record with several defects returns is not stated: the lowest (DESIGN CHOICE, log 17). -/
def mintRecord (d : Dev) : Dev :=
  match mintRing d with
  | some q =>
    if !tolRuns d || !txEn d q || (txRing d q).stop then d
    else match (txRing d q).posted with
      | x :: rest =>
        let b := padTo 96 x.bytes
        let d1 := updTx d q fun r => { r with posted := rest, filled := r.filled ++ [⟨[], 0, txComp [] false 0, 0, none⟩] }
        let n := leAt b 8 1
        let st := if (tolRoot d).isNone || !d.tol.ready then 1 else if leAt b 9 2 != 15 then 2 else if n == 0 || 8 < n then 3 else 0
        let (cs, d2) := if st == 0 then mintCookies d1 ((d.tol.cache.getD 0 none).getD []) (slice b 0x10 32) (slice b 0x30 32) n else ([], d1)
        let body := b.take 8 ++ leBytes 1 (if st == 0 then n else 0) ++ leBytes 1 st ++ zeros 6 ++ cs.flatMap id
        let d3 := if st == 0 then countUp d2 TOL_MINTCNT 15 0 1 else countUp d2 TOL_MINTCNT 31 16 1
        let (d4, ok) := deliver d3 (rgf d3 TOL_MINT 5 0) 8 body
        if ok then d4 else countUp d4 TOL_MINTDROP 31 0 1
      | [] => d
  | none => d

def execMintRecord (s : State) : Host.Outcome State Fault Refusal := act s mintRecord

/-! ### Keys in use (R337, R338) -/

/-- The flush edge: the working register takes its change, and the cache goes with the old key. -/
def flushEdge (d : Dev) : Dev :=
  match d.key.tolNext with
  | some w =>
    let d1 := { d with
      key := { d.key with work := d.key.work.set 0 w, tolNext := none },
      tol := { d.tol with cache := [], ready := false, nextReady := false } }
    if w.orph then statSet d1 baseTol 16 else d1
  | none => d

def execFlushEdge (s : State) : Host.Outcome State Fault Refusal := act s flushEdge

/-- The epoch keys are derived under the root in the register (R338). -/
def cacheFilled (d : Dev) : Dev :=
  match tolRoot d with
  | some k =>
    if inService d && enOf d baseTol then { d with tol := { d.tol with cache := fillCache k d.tol.e, ready := true } } else d
  | none => d

def execCacheFilled (s : State) : Host.Outcome State Fault Refusal := act s cacheFilled

end Sys2Proof.Machine
end

