-- ==== Sys2Proof/Machine/Twn.lean ====
section
/-! DEFINITION. Twin pairs: the link, HELLO, TIMING and the twin lock, heartbeat, takeover, swaps, BELL messages and snapshots (chapter 17, R128; rows TWIN_LINK_TRAINED to SNAP_ACK_RECEIVED, TWIN_LINK_LOSS). -/
namespace Sys2Proof.Machine
open Sys2Proof

def updTwn (d : Dev) (f : Twn → Twn) : Dev := { d with twn := f d.twn }

/-! ### Messages received (R395, R398) -/

/-- A message as it passed its check. -/
structure TwinMsg where
  seq     : Nat
  bell    : Nat
  payload : List Byte

/-- SEQ of the partner extended to 64 bits. -/
def extendSeq (d : Dev) (seq : Nat) : Nat :=
  let x := d.twn.rxSeq / 2 ^ 32 * 2 ^ 32 + seq
  if x + 2 ^ 31 < d.twn.rxSeq then x + 2 ^ 32 else x

/-- A message whose check fails is discarded and counted. -/
def twinBad (d : Dev) : Dev := countUp d TWN_MSGERR 31 0 1

/-- Check a message of a type. Its FLOOR says what the partner pulls: a TWFLOOR that the partner pulls reads low (log 18). -/
def twinOpen (d : Dev) (type : Nat) (msg : List Byte) : Option TwinMsg × Dev :=
  let len := beAt msg 2 2
  let flags := beAt msg 1 1
  let seq := extendSeq d (beAt msg 4 4)
  let taken := fun (p : List Byte) =>
    (some (⟨beAt msg 4 4, beAt msg 8 8, p⟩ : TwinMsg),
     updTwn d fun t => { t with
      rxSeq := seq, partnerFloor := flags.testBit 0, partnerProt := flags.testBit 2,
      floorLow := t.floorLow || flags.testBit 0 })
  if msg.length < 16 || beAt msg 0 1 != type then (none, twinBad d)
  else if twinProtected d type then
    match twinKey d with
    | none => (none, twinAuthFail d type)
    | some k =>
      let o := Config.gcmOpen k (twinNonce (b2n (flags.testBit 1)) seq) (msg.take 16) (msg.drop 16)
      if o.1 && msg.length == len + 32 then taken (leBytes len o.2) else (none, twinAuthFail d type)
  else if msg.length == len + 20 && beAt msg (16 + len) 4 == (crc32 (msg.take (16 + len))).toNat then
    taken (slice msg 16 len)
  else (none, twinBad d)

/-- Take a message of the link that is UP. -/
def withTwin (d : Dev) (type : Nat) (msg : List Byte) (f : Dev → TwinMsg → Dev) : Dev :=
  if d.twn.link != .up then d
  else match twinOpen d type msg with
    | (some m, d1) => f d1 m
    | (none, d1) => d1

/-! ### The twin lock (R397) -/

/-- The twin lock is lost, and with it REF30. -/
def lockLoss (d : Dev) : Dev :=
  if d.twn.locked then refLoss (updTwn d fun t => { t with locked := false, rtts := [], departs := 0 }) 30 3 else d

/-- Eight milliseconds after the last completed exchange the lock is lost. -/
def lockLossDue (d : Dev) : Option Nat := if d.twn.locked then some (d.twn.exT.toNat + 8 * ms) else none

/-- The link loses block lock (R393). -/
def linkLost (d : Dev) : Dev :=
  let d1 := lockLoss d
  updTwn d1 fun t => { t with
    link := .down, rtts := [], departs := 0, lastTx := none, lastRx := none, lastHello := [], rxSeq := 0 }

def execTwinLinkLoss (s : State) : Host.Outcome State Fault Refusal := act s linkLost

/-- Block lock has held for 10 ms: the link negotiates, and its first HELLO is due (R393, R394). -/
def linkTrains (d : Dev) : Dev := updTwn d fun t => { t with link := .negotiating, helloT := none }

/-- Training lasts 10 ms at least. -/
def trainDue (d : Dev) : Option Nat := if d.twn.link == .training then some (d.twn.trainT.toNat + 10 * ms) else none

/-! ### HELLO (R394, R400, R409) -/

/-- The settings that both chips must share, in one order (log 18): station addresses, IP addresses, clockIdentities, domain entries. -/
def cfgDigest (d : Dev) : List Byte :=
  let ports := (List.range 6).flatMap (fun p => macAddr d p ++ (portId p).take 8)
  let ips := (List.range 16).flatMap (fun i =>
    (List.range 4).flatMap (fun j => leBytes 4 (rg d (TOL_IP_ADDR + i * 0x20 + 4 * j)).toNat) ++ leBytes 4 (rg d (TOL_IP_CFG + i * 0x20)).toNat)
  let doms := (d.ptp.entries.map fun e =>
    [b2n e.built, e.port, e.domain, e.profile, e.role, e.scale].map (fun (x : Nat) => BitVec.ofNat 8 x)).flatMap id
  (sha384B (ports ++ ips ++ doms)).take 8

/-- Versions that silicon B1 supports within TWN_VER, highest first. -/
def ownVersions (d : Dev) : List Nat :=
  [0x0201, 0x0200, 0x0100].filter (fun v => rgf d TWN_VER 15 0 ≤ v && v ≤ rgf d TWN_VER 31 16)

def idHead (d : Dev) : List Byte := (idHash d).take 8

def helloPayload (d : Dev) : List Byte :=
  beBytes 2 (rgf d TWN_VER 15 0) ++ beBytes 2 (rgf d TWN_VER 31 16) ++ beBytes 2 0x8816 ++ beBytes 1 0xB1
    ++ beBytes 1 (twinSide d) ++ beBytes 8 (inEffectId d) ++ idHead d ++ cfgDigest d

/-- A HELLO leaves. -/
def sendHello (d : Dev) : Dev := updTwn (twinSend d 1 (helloPayload d)) fun t => { t with helloT := some d.t }

/-- HELLO leaves every 10 ms while the link negotiates and every second while it is UP; the first at once. -/
def helloDue (d : Dev) : Option Nat :=
  let after := fun (n : Nat) => match d.twn.helloT with
    | some t => t.toNat + n * ms
    | none => d.t.toNat
  if d.twn.link == .negotiating then some (after 10) else if d.twn.link == .up then some (after 1000) else none

/-- Negotiation with a HELLO: version, then side. -/
def negotiate (d : Dev) (b : List Byte) : Dev :=
  let vmax := beAt b 2 2
  match (ownVersions d).find? (fun v => beAt b 0 2 ≤ v && v ≤ vmax) with
  | none => logC (updTwn d fun t => { t with link := .refused, vFail := true }) srcTwinVersion 0 vmax
  | some v =>
    if beAt b 7 1 == twinSide d then logC (updTwn d fun t => { t with link := .refused, vFail := true }) srcTwinSide 0 0
    else updTwn d fun t => { t with link := .up, agreed := v, vFail := false }

/-- Both chips pull TWFLOOR: SIDE 1, or the greater ID_HASH at equal sides, releases it and enters STANDBY (R400). -/
def dualFloor (d : Dev) (b : List Byte) : Dev :=
  if d.gen.mode == .active && d.twn.pull && d.twn.partnerFloor then
    let d1 := report d srcTwinDualfloor 0 0
    let side := beAt b 7 1
    let yields := if side == twinSide d then beNat (slice b 16 8) < beNat (idHead d) else twinSide d == 1
    if yields && d1.twn.pull then
      let d2 := setMode (floorMoved (releaseFloor d1)) .standby
      updTwn d2 fun t => { t with floorLow := true, selWait := true, selLate := d2.tsc.armedDone }
    else d1
  else d

/-- A HELLO. -/
def helloReceived (d : Dev) (msg : List Byte) : Dev :=
  if d.twn.link == .down || d.twn.link == .training then d
  else match twinOpen d 1 msg with
    | (none, d1) => d1
    | (some m, d1) =>
      let b := m.payload
      let diff := slice b 24 8 != cfgDigest d1
      let d2 := if diff && !d1.twn.cfgDiff then logC d1 srcTwinCfgdiff 0 0 else d1
      let d3 := updTwn d2 fun t => { t with cfgDiff := diff, lastHello := b }
      let d4 := if d.twn.link == .negotiating || (d.twn.link == .refused && b != d.twn.lastHello) then negotiate d3 b else d3
      dualFloor d4 b

def execHelloReceived (msg : List Byte) (s : State) : Host.Outcome State Fault Refusal := act s fun d => helloReceived d msg

/-! ### TIMING (R396, R397, R399) -/

/-- A stamp of Table 17.2 and back: seconds, nanoseconds, fraction, zero. -/
def twinStamp (v : Nat) : List Byte := beBytes 8 (tSec v) ++ beBytes 4 (tNs v) ++ beBytes 2 (tFrac v) ++ zeros 2
def stampAt (b : List Byte) (o : Nat) : Int := ((beAt b o 8 * 1000000000 + beAt b (o + 8) 4) * 65536 + beAt b (o + 12) 2 : Nat)

/-- TS-O at a timestamp point `sub` past the TCLK, quantised to 40 ps (R396). -/
def stampO (d : Dev) (sub : Nat) : Nat := stampOf d.tsc.o + (sub * 25 / 65536 * 262144 + 50) / 100

/-- A millisecond of TS-O, and the one that runs. -/
def msUnit : Nat := 1000000 * nsUnit
def msNow (d : Dev) : Nat := d.tsc.o / msUnit

/-- A heartbeat of the partner in this millisecond (R399). -/
def heartbeat (d : Dev) : Dev := updTwn d fun t => { t with missed := 0, hbLost := false, seenMs := msNow d }

/-- TWALIVE seen low outside the own slot. -/
def aliveSeen (d : Dev) : Dev := updTwn (heartbeat d) fun t => { t with aliveT := some d.t }

/-- Where the chip's slot lies in a millisecond, ns. -/
def slotOffset (d : Dev) : Nat := 500000 * twinSide d

/-- The millisecond of the next slot, each being used once. -/
def slotNext (d : Dev) : Nat :=
  let k := ceilDiv (d.tsc.o - slotOffset d * nsUnit) msUnit
  if d.twn.slotMs == some k then k + 1 else k

/-- The chip's slot of the millisecond: TWALIVE is pulled low for 20 µs, and TIMING leaves over a link that is UP. `alive`: TWALIVE was low outside the own slot since the last. -/
def timingSend (d0 : Dev) (sub k : Nat) (alive : Bool) : Dev :=
  if !enOf d0 baseTwn then d0
  else
    let d := updTwn (if alive then aliveSeen d0 else d0) fun t => { t with slotMs := some k }
    let low := d.t.toNat * 1000
    let d1 := emit (emit d (.pin 69 false (low : Nat))) (.pin 69 true ((low + 20000000 : Nat)))
    if d.twn.link != .up then d1
    else
      let half := fun (h : Option TimingHalf) => match h with
        | some h => beBytes 4 (h.seq % 2 ^ 32) ++ twinStamp h.stamp.toNat
        | none => zeros 20
      let seq := d1.twn.txSeq
      let d2 := twinSend d1 2 (half d1.twn.lastTx ++ half d1.twn.lastRx)
      if d2.twn.txSeq == seq then d2
      else updTwn d2 fun t => { t with lastTx := some ⟨seq % 2 ^ 32, (stampO d sub : Nat)⟩ }

/-- Does a round trip lie within a number of ps of the mean of others, 2⁻¹⁶ ns? -/
def nearMean (ps : Nat) (l : List Int) (r : Int) : Bool :=
  (r * l.length - sumI l).natAbs * 1000 ≤ ps * 65536 * l.length

/-- A completed exchange: θ, the round trip, and the twin lock. -/
def exchange (d : Dev) (theta rt : Int) (rtPs : Int) : Dev :=
  let t := d.twn
  let before := (t.rtts.drop t.departs).take 16
  let dep := if t.locked && before.length == 16 && !nearMean 1000 before rt then t.departs + 1 else 0
  let l := (rt :: t.rtts).take 20
  let d1 := measurePoint (updTwn d fun t => { t with
    theta := theta, rtt := rtPs, thetas := theta :: t.thetas, rtts := l, departs := dep, exT := d.t }) 30 0 ((stampOf d.tsc.o : Int) + theta)
  if t.locked then (if 4 ≤ dep then lockLoss d1 else d1)
  else
    let w := l.take 16
    if w.length == 16 && w.all (nearMean 200 w) then refPresent (updTwn d1 fun t => { t with locked := true }) 30 else d1

/-- A TIMING message: the heartbeat, and the exchange its stamps complete (t1, t2 of the partner's last TIMING; t3, t4 of this chip's). -/
def timingReceived (d : Dev) (msg : List Byte) (sub : Nat) : Dev :=
  withTwin d 2 msg fun d m =>
    let b := m.payload
    let d1 := updTwn (heartbeat d) fun t => { t with timingT := some d.t, lastRx := some ⟨m.seq, (stampO d sub : Nat)⟩ }
    match d.twn.lastRx, d.twn.lastTx with
    | some rx, some tx =>
      if rx.seq == beAt b 0 4 && tx.seq == beAt b 20 4 then
        let t1 := stampAt b 4
        let t4 := stampAt b 24
        let there := t4 - tx.stamp
        let back := rx.stamp - t1
        let (th, d2) := freeDiv d1 ((there - back) * 1000 + efS d1 TWN_ASYM * 65536) 2000
        let (ps, d3) := freeDiv d2 ((there + back) * 1000) 65536
        exchange d3 th (there + back) ps
      else d1
    | _, _ => d1

def execTimingReceived (msg : List Byte) (sub : Nat) (s : State) : Host.Outcome State Fault Refusal :=
  act s fun d => timingReceived d msg sub

/-! ### Snapshots as bytes (R405, Table 17.3; the layout within a section is the model's, log 18) -/

def sInt (n : Nat) (i : Int) : List Byte := beBytes n (BitVec.ofInt (8 * n) i).toNat

def identSection (d : Dev) : List Byte × Dev :=
  let (r, d1) := refIdOf d (selScale d)
  let sc := fun (s : Scale) => beBytes 8 (secOf s.v) ++ beBytes 4 (nsOf s.v) ++ beBytes 6 (fracOf s.v) ++ zeros 2 ++ sInt 8 s.f
  (padTo 128 (beBytes 8 d.bellCnt.toNat ++ beBytes 8 (inEffectId d) ++ beBytes 1 (b2n d.tsc.cur) ++ beBytes 1 (b2n d.tsc.a.setDone)
    ++ beBytes 1 (b2n d.tsc.b.setDone) ++ zeros 5 ++ sc d.tsc.a ++ sc d.tsc.b ++ r), d1)

def servoSection (d : Dev) : List Byte :=
  (List.range 32).flatMap fun n =>
    let s := selOf d n
    let ht := match steeredScale d n with
      | some b => holdTimeOf d b
      | none => 0
    padTo 64 (beBytes 1 (stallFunc d n) ++ beBytes 1 (servoCode s.servo) ++ beBytes 1 s.cur ++ beBytes 1 (b2n s.curV) ++ zeros 4
      ++ sInt 8 (stallOf d n).integ ++ sInt 8 (yOf d n) ++ beBytes 8 ((s.tEntry.getD 0).toNat) ++ beBytes 4 ht)

def holdSection (d : Dev) : List Byte :=
  [false, true].flatMap fun b =>
    let s := sclOf d b
    let m := s.model
    padTo 128 (beBytes 1 (hclassOf d b) ++ beBytes 1 (b2n s.ready) ++ zeros 6 ++ beBytes 8 s.learnTime
      ++ [m.y0, m.uy, m.a, m.ua, m.c, m.uc, (m.n : Int), m.t0].flatMap (sInt 8))

def ledgerSection (d : Dev) : List Byte :=
  [false, true].flatMap fun b =>
    let s := scaleOf d b
    beBytes 8 s.sum.toNat ++ sInt 16 s.anchor ++ beBytes 4 s.lwp.toNat ++ zeros 4 ++ (compList (sclOf d b).comp).flatMap (beBytes 8)

/-- Marked references of a stall as bits. -/
def markWord (d : Dev) (n : Nat) : Nat := (selOf d n).marks.foldl (fun w m => w ||| 2 ^ m.1) 0

def refqSection (d : Dev) : List Byte :=
  ((List.range 32).flatMap fun r =>
    let m := refOf d r
    beBytes 1 (b2n m.present + 2 * b2n m.qualified) ++ beBytes 1 (rankOf d r) ++ zeros 2
      ++ beBytes 4 (if m.qualified then (d.t.toNat - m.presentFrom.toNat) / 1000000000 - qtimeOf d r else 0) ++ beBytes 8 (udOf d r))
    ++ (List.range 32).flatMap (fun n => beBytes 4 (markWord d n))

/-- An entry of the GRANTS section: Table 13.8 with OP at 0x38 and the entry's index after it, all little-endian as Table 13.8 has it (DESIGN CHOICE, log 18). -/
def grantItem (d : Dev) (op : Nat) (g : Grant) : List Byte := patch (grantBytes d g) 0x38 (beBytes 1 op ++ [0] ++ leBytes 2 g.index)

def grantsSection (d : Dev) : List Byte × Nat :=
  let ch := d.twn.changes.take 16384
  let lo := d.twn.refresh * 4096
  let rf := d.ptp.grants.filter (fun g => lo ≤ g.index && g.index < lo + 4096)
  let l := ch.map (fun x => grantItem d x.1 x.2) ++ rf.map (grantItem d 4)
  (beBytes 4 l.length ++ l.flatMap id, ch.length)

def tollSection (d : Dev) : List Byte :=
  beBytes 4 d.tol.e.toNat ++ beBytes 4 d.tol.age.toNat ++ beBytes 4 (eff d TOL_EPOCHLEN 23 0) ++ zeros 4

def sectionBytes (type : Nat) (b : List Byte) : List Byte := beBytes 2 type ++ zeros 2 ++ beBytes 4 b.length ++ b

/-- The image of the present Bell, how many changes it carries, and how many sections. -/
def snapImage (d : Dev) : List Byte × Nat × Nat × Dev :=
  let (id, d1) := identSection d
  let base := [sectionBytes 1 id, sectionBytes 2 (servoSection d), sectionBytes 3 (holdSection d)]
  let (g, n) := grantsSection d
  let all := if 0x0200 ≤ d.twn.agreed then
      base ++ [sectionBytes 4 (ledgerSection d), sectionBytes 5 (refqSection d), sectionBytes 6 g, sectionBytes 7 (tollSection d)]
    else base
  let body := all.flatten
  (beBytes 2 all.length ++ zeros 2 ++ beBytes 4 (16 + body.length) ++ zeros 8 ++ body, n, all.length, d1)

/-- SNAP_DATA in offset order. -/
def sendData (d : Dev) (img : List Byte) : Nat → Nat → Dev
  | 0, _ => d
  | k + 1, o =>
    if img.length ≤ o then d
    else sendData (twinSend d 5 (beBytes 4 o ++ zeros 4 ++ slice img o 4096)) img k (o + 4096)

/-- The Floor holder sends the snapshot of the Bell (R405). -/
def sendSnapshot (d : Dev) : Dev :=
  if holdsFloor d && twinConfigured d && d.twn.link == .up && !d.twn.partnerFloor then
    let (img, n, sect, d1) := snapImage d
    let d2 := twinSend d1 4 (beBytes 8 d.bellCnt.toNat ++ beBytes 4 img.length ++ beBytes 2 sect ++ zeros 2)
    let d3 := sendData d2 img (img.length / 4096 + 1) 0
    let d4 := twinSend d3 6 (beBytes 4 (crc32 img).toNat ++ zeros 4)
    updTwn d4 fun t => { t with
      sent := (d.bellCnt.toNat, n) :: t.sent.take 1, refresh := (t.refresh + 1) % 16, snapLen := img.length, behind := decide (16384 < t.changes.length) }
  else d

/-! ### Reading a snapshot -/

/-- The sections of an image. -/
def sectionsOf : Nat → List Byte → List (Nat × List Byte)
  | 0, _ => []
  | k + 1, b => if b.length < 8 then [] else (beAt b 0 2, slice b 8 (beAt b 4 4)) :: sectionsOf k (b.drop (8 + beAt b 4 4))

def sectionOf (img : List Byte) (type : Nat) : Option (List Byte) :=
  ((sectionsOf (beAt img 0 2) (img.drop 16)).find? (·.1 == type)).map (·.2)

/-- The partner's TS-O at the snapshot's Bell, 2⁻⁴⁸ ns. -/
def snapO (img : List Byte) : Nat :=
  match sectionOf img 1 with
  | some b =>
    let o := if beAt b 16 1 == 1 then 52 else 24
    (beAt b o 8 * 1000000000 + beAt b (o + 8) 4) * nsUnit + beAt b (o + 12) 6
  | none => 0

/-- The partner's TS-O now, as θ gives it, 2⁻⁴⁸ ns. -/
def partnerO (d : Dev) : Nat := ((d.tsc.o : Int) + d.twn.theta * 2 ^ 32).toNat

def grantFrom (b : List Byte) : Nat × Grant :=
  let f := leAt b 0x1D 1
  (leAt b 0x38 1, {
    index := leAt b 0x3A 2, addr := slice b 0 16, pid := slice b 0x10 10, entry := leAt b 0x1A 1, mtype := leAt b 0x1B 1,
    logint := sext 8 (leAt b 0x1C 1), auth := f.testBit 1, twoStep := f.testBit 2, fromSnap := true,
    grantBell := BitVec.ofNat 64 (leAt b 0x20 8), endBell := BitVec.ofNat 64 (leAt b 0x28 8), sent := BitVec.ofNat 64 (leAt b 0x30 8),
    last := -1 })

/-- An entry of a committed snapshot; an installed grant goes on from the instants still to come (R309, R311). -/
def installGrant (d : Dev) (b : List Byte) : Dev :=
  let (op, g) := grantFrom b
  let rest := d.ptp.grants.filter (·.index != g.index)
  if op == 3 then { d with ptp := { d.ptp with grants := rest } }
  else if (domEntry d g.entry).built then
    let now : Int := (portNow d (domEntry d g.entry).port : Nat)
    { d with ptp := { d.ptp with grants := rest ++ [{ g with last := now }] } }
  else d

def installGrants (d : Dev) (b : List Byte) : Dev :=
  (List.range (beAt b 0 4)).foldl (fun d i => installGrant d (slice b (4 + 64 * i) 64)) d

/-- The Tollgate's epoch is adopted (R331). -/
def installToll (d : Dev) (b : List Byte) : Dev :=
  let e := w32 (beAt b 0 4)
  let d1 := setBoth d TOL_EPOCHLEN (w32 (beAt b 8 4))
  let cache := match tolRoot d1 with
    | some k => if d1.tol.ready then fillCache k e else []
    | none => []
  { d1 with tol := { d1.tol with
      e := e, age := w32 (beAt b 4 4), nextReady := d1.tol.nextReady && e == d1.tol.e,
      cache := if e == d1.tol.e then d1.tol.cache else cache } }

def snapBegin (d : Dev) (msg : List Byte) : Dev :=
  withTwin d 4 msg fun d m =>
    if d.gen.mode == .active then d
    else updTwn (dropPartial d) fun t => { t with
      partSnap := some (BitVec.ofNat 64 (beAt m.payload 0 8), beAt m.payload 8 4, []) }

def execSnapBeginReceived (msg : List Byte) (s : State) : Host.Outcome State Fault Refusal := act s fun d => snapBegin d msg

def snapData (d : Dev) (msg : List Byte) : Dev :=
  withTwin d 5 msg fun d m =>
    updTwn d fun t => { t with partSnap := t.partSnap.map fun p =>
      (p.1, p.2.1, p.2.2 ++ [(beAt m.payload 0 4, m.payload.drop 8)]) }

def execSnapDataReceived (msg : List Byte) (s : State) : Host.Outcome State Fault Refusal := act s fun d => snapData d msg

/-- The received parts, put together in the order of their offsets; none where an offset is missing. -/
def assemble : Nat → List (Nat × List Byte) → List Byte → List Byte
  | 0, _, acc => acc
  | k + 1, l, acc =>
    match l.find? (fun x => x.1 ≤ acc.length && acc.length < x.1 + x.2.length) with
    | some x => assemble k l (acc ++ x.2.drop (acc.length - x.1))
    | none => acc

/-- SNAP_END: commit, or discard (R406). -/
def snapEnd (d : Dev) (msg : List Byte) : Dev :=
  withTwin d 6 msg fun d m =>
    match d.twn.partSnap with
    | none => d
    | some (bell, len, parts) =>
      let img := assemble parts.length parts []
      if img.length == len && beAt m.payload 0 4 == (crc32 img).toNat then
        let ago := ((partnerO d : Int) - snapO img).toNat / nsUnit
        let t0 : Tick := if d.twn.loaded && bell == d.bellCnt then d.tsc.lastBellT else d.t - BitVec.ofNat 64 ago
        let d1 := updTwn d fun t => { t with
          partSnap := none, snap := some ⟨bell, t0, t.rtw, img⟩, snapLen := len }
        let d2 := match sectionOf img 1 with
          | some b => { d1 with tol := { d1.tol with partnerRefId := slice b 80 4 } }
          | none => d1
        let d3 := match sectionOf img 6 with
          | some b => installGrants d2 b
          | none => d2
        let d4 := match sectionOf img 7 with
          | some b => installToll d3 b
          | none => d3
        twinSend d4 7 (beBytes 8 bell.toNat)
      else dropPartial d

def execSnapEndReceived (msg : List Byte) (s : State) : Host.Outcome State Fault Refusal := act s fun d => snapEnd d msg

/-- SNAP_ACK: the changes that snapshot carried need not be sent again, and later ones that carried them too hold so many less (R405). -/
def snapAck (d : Dev) (msg : List Byte) : Dev :=
  withTwin d 7 msg fun d m =>
    let bell := beAt m.payload 0 8
    let n := match d.twn.sent.find? (·.1 == bell) with
      | some x => x.2
      | none => 0
    updTwn d fun t => { t with
      ackBell := some (BitVec.ofNat 64 bell),
      changes := t.changes.drop n,
      sent := (t.sent.filter (fun x => bell < x.1)).map (fun x => (x.1, x.2 - n)) }

def execSnapAckReceived (msg : List Byte) (s : State) : Host.Outcome State Fault Refusal := act s fun d => snapAck d msg

/-! ### Taking the Floor (R128, R408, Table 17.6) -/

/-- References that the snapshot has qualified and that are present here count as qualified. -/
def adoptQualified (d : Dev) (img : List Byte) : Dev :=
  match sectionOf img 5 with
  | none => d
  | some b =>
    let d1 := (List.range 31).foldl (fun d r => if (beAt b (16 * r) 1).testBit 1 then refQualify d r else d) d
    (List.range 32).foldl (fun d n =>
      if (steeredScale d n).isSome then
        let w := w32 (beAt b (512 + 4 * n) 4)
        updSel d n fun s => { s with marks := s.marks ++ (((List.range 31).filter (fun r =>
          bit w r && !s.marks.any (·.1 == r))).map (fun r => (r, none))) }
      else d) d1

/-- The holdover model of the snapshot. -/
def adoptModel (d : Dev) (img : List Byte) (b : Bool) : Dev :=
  match sectionOf img 3 with
  | none => d
  | some l =>
    let o := if b then 128 else 0
    let v := fun (i : Nat) => sext 64 (beAt l (o + 16 + 8 * i) 8)
    updScl d b fun s => { s with
      ready := beAt l (o + 1) 1 == 1, learnTime := beAt l (o + 8) 8,
      model := ⟨v 0, v 1, v 2, v 3, v 4, v 5, (v 6).toNat, v 7⟩ }

/-- u_y in force, 2⁻⁴⁸, rounded up. -/
def uyNow (d : Dev) (b : Bool) : Nat := (ratCeil ((uncsOf d b).uy * (2 ^ 48 : Rat))).toNat

/-- The bound of a scale at a takeover. -/
def takeBound (d : Dev) (s : Snapshot) (b : Bool) : Dev :=
  let c := (sclOf d b).comp
  let snap : Bound := match sectionOf s.image 4 with
    | some l =>
      let v := fun (i : Nat) => beAt l ((if b then 88 else 0) + 32 + 8 * i) 8
      { c with ref := v 0, path := v 1, loop := v 3, disp := v 6 }
    | none => c
  let d1 := updScl d b fun x => { x with snap := some (s.rtw, uyNow d b, s.bellT), frozen := true }
  let c1 := { snap with hold := 0, snap := snapBound d1 b }
  updScl d1 b fun x => { x with comp := c1, total := boundTotal c1 }

/-- What a chip that takes the Floor adopts from its committed snapshot. -/
def adoptSnapshot (d : Dev) : Dev :=
  match d.twn.snap with
  | none => d
  | some s =>
    let d1 := [false, true].foldl (fun d b => adoptModel d s.image b) (adoptQualified d s.image)
    [false, true].foldl (fun d b => if (scaleOf d b).setDone then takeBound d s b else d) d1

/-- Take the Floor: 1 abdication, 2 heartbeat loss, 3 swap. -/
def takeFloor (d : Dev) (cause : Nat) : Dev :=
  let d1 := setMode (setPull (floorMoved d) true) .active
  let d2 := countUp (updTwn d1 fun t => { t with
    takeover := cause, abdicateSeen := false, drillLogged := if cause == 3 then false else t.drillLogged }) TWN_EVT 31 24 1
  adoptSnapshot d2

/-- A takeover between Bells: the scales' selection stands until a Bell whose targets are fixed after it. -/
def takeover (d : Dev) (cause : Nat) : Dev :=
  if d.gen.mode == .standby && twinConfigured d then
    let d1 := takeFloor (dropPartial d) cause
    dropIncumbents (updTwn d1 fun t => { t with
      twinSwitch := true, selWait := true, selLate := d1.tsc.armedDone,
      swapTarget := none, swapAccepted := false })
  else d

/-- ABDICATE with TWFLOOR released (case (a)): its FLOOR says whether the partner still pulls the line; if it does, the release that follows is the takeover. -/
def abdicateReceived (d : Dev) (msg : List Byte) : Dev :=
  withTwin d 8 msg fun d m =>
    let d1 := updTwn d fun t => { t with
      causeRx := beAt m.payload 0 1, abdicateSeen := true, floorLow := t.pull || t.partnerFloor }
    if d1.twn.floorLow then d1 else takeover d1 1

def execAbdicateReceived (msg : List Byte) (s : State) : Host.Outcome State Fault Refusal := act s fun d => abdicateReceived d msg

/-- Fifty milliseconds in a row have been missed (case (b)); once until the next heartbeat. -/
def heartbeatLost (d : Dev) : Dev :=
  if !twinConfigured d || d.twn.hbLost then d
  else
    let d1 := updTwn d fun t => { t with hbLost := true, missed := max 50 t.missed }
    if d1.gen.mode != .standby then d1
    else if d1.twn.floorLow then logC d1 srcTwinSilent 0 0
    else takeover d1 2

/-- The last millisecond that counts as accounted for: not before the one but last, and not after the present one. -/
def seenBy (d : Dev) : Nat := max (min d.twn.seenMs (msNow d)) (msNow d - 2)

/-- TS-O at the end of the n-th millisecond after the last one accounted for, ns. -/
def missAt (d : Dev) (n : Nat) : Nat := (seenBy d + n + 1) * 1000000

/-- The millisecond after the last one accounted for ends with no heartbeat (R399). -/
def missedMs (d : Dev) : Dev :=
  let d1 := updTwn d fun t => { t with missed := t.missed + 1, seenMs := seenBy d + 1 }
  if 50 ≤ d1.twn.missed then heartbeatLost d1 else d1

/-- The milliseconds that are left of the fifty end with no heartbeat. -/
def missedAll (d : Dev) : Dev := heartbeatLost (updTwn d fun t => { t with seenMs := msNow d - 1 })

/-- TWFLOOR rises. -/
def floorRelease (d : Dev) : Dev :=
  if !twinConfigured d || d.twn.pull then d
  else
    let d1 := updTwn d fun t => { t with floorLow := false }
    if d.gen.mode != .standby then d1
    else if d1.twn.abdicateSeen then takeover d1 1
    else if d1.twn.hbLost then takeover d1 2
    else if d.twn.floorLow then logC d1 srcTwinFloorglitch 0 0 else d1

def execTwfloorRelease (s : State) : Host.Outcome State Fault Refusal := act s floorRelease

/-! ### TWN_CMD and swaps (R407, R410) -/

/-- TWN_CMD.SWAP on the Floor holder. -/
def swapCmd (d : Dev) : Dev :=
  if holdsFloor d && twinConfigured d then
    let named := rgPair d TWN_SWAP_BELL_LO
    let target := if named == 0 then d.bellCnt.toNat + 2 else named
    let d1 := updTwn d fun t => { t with swapTarget := some (BitVec.ofNat 64 target), swapAccepted := false }
    if d1.twn.link == .up then twinSend d1 9 (beBytes 8 target) else d1
  else d

/-- A write of TWN_CMD: SWAP, then ABDICATE where both are written. -/
def twnCmd (d : Dev) (val : Word) : Dev :=
  let d1 := if bit val 0 then swapCmd d else d
  if bit val 1 then (abdicate d1 6 false).1 else d1

def execTwnCmdAbdicate (req : Requester) (val : Word) (s : State) : Host.Outcome State Fault Refusal :=
  act s fun d => withWrite d req TWN_CMD fun d => twnCmd d val

def execTwnCmdSwap (req : Requester) (val : Word) (s : State) : Host.Outcome State Fault Refusal :=
  act s fun d => withWrite d req TWN_CMD fun d => twnCmd d val

/-- HANDOVER: accepted by a READY standby. -/
def handover (d : Dev) (msg : List Byte) : Dev :=
  withTwin d 9 msg fun d m =>
    let target := beAt m.payload 0 8
    let result := if d.gen.mode != .standby then 2 else if !twinReady d then 1 else 0
    let d1 := if result == 0 then
        updTwn d fun t => { t with swapTarget := some (BitVec.ofNat 64 target), swapAccepted := true }
      else d
    twinSend d1 10 (beBytes 8 target ++ beBytes 1 result)

def execHandoverReceived (msg : List Byte) (s : State) : Host.Outcome State Fault Refusal := act s fun d => handover d msg

/-- The swap fails and changes nothing. -/
def swapFail (d : Dev) : Dev := statSet (updTwn d fun t => { t with swapTarget := none, swapAccepted := false }) baseTwn 19

/-- HANDOVER_ANS: the swap commits where it accepts before the target's arming point. -/
def handoverAns (d : Dev) (msg : List Byte) : Dev :=
  withTwin d 10 msg fun d m =>
    match d.twn.swapTarget with
    | some t =>
      if holdsFloor d && t.toNat == beAt m.payload 0 8 then
        let inTime := d.bellCnt.toNat + 1 < t.toNat || (d.bellCnt.toNat + 1 == t.toNat && !d.tsc.armedDone)
        if beAt m.payload 8 1 == 0 && inTime then updTwn d fun t => { t with swapAccepted := true } else swapFail d
      else d
    | none => d

def execHandoverAnsReceived (msg : List Byte) (s : State) : Host.Outcome State Fault Refusal := act s fun d => handoverAns d msg

/-- Does the coming Bell carry a committed swap? -/
def swapNext (d : Dev) : Bool := d.twn.swapAccepted && d.twn.swapTarget == some (d.bellCnt + 1)

/-- The device as it will select at the coming Bell: after the swap, where one commits (R410). -/
def swapView (d : Dev) : Dev :=
  if !swapNext d then d
  else if d.gen.mode == .active then { d with gen := { d.gen with mode := .standby } }
  else
    let e := { d with gen := { d.gen with mode := .active } }
    match e.twn.snap with
    | some s => adoptQualified e s.image
    | none => e

/-- The swap at its Bell. `bellCnt` is already the target's. -/
def swapBell (d : Dev) : Dev :=
  match d.twn.swapTarget with
  | none => d
  | some t =>
    if d.bellCnt.toNat < t.toNat then d
    else if t == d.bellCnt && d.twn.swapAccepted then
      let clear := fun (d : Dev) => countUp (updTwn d fun t => { t with
        swapTarget := none, swapAccepted := false, twinSwitch := true, drillLogged := false }) TWN_EVT 15 8 1
      if d.gen.mode == .standby then clear (takeFloor (dropPartial d) 3)
      else if d.gen.mode == .active then
        clear (updTwn (setMode (floorMoved { d with twn := { d.twn with pull := false } }) .standby) fun t => { t with floorLow := true, loaded := true })
      else swapFail d
    else swapFail d

/-! ### BELL messages (R395, R402 to R404) -/

/-- The BELL message of the Floor holder; `stepO` is the step of TS-O at this Bell, 2⁻¹⁶ ns. -/
def sendBellMsg (d : Dev) (stepO : Int) : Dev :=
  if holdsFloor d && twinConfigured d && d.twn.link == .up then
    let st := [clockStateOf d false (d.twn.ownStates.getD 0 3), clockStateOf d true (d.twn.ownStates.getD 1 3)]
    let (r, d1) := refIdOf (updTwn d fun t => { t with ownStates := st }) (selScale d)
    let diff := fun (b : Bool) => ((scaleOf d b).v : Int) / 2 ^ 32 - (stampOf d.tsc.o : Nat)
    let ann := (List.range 16).flatMap fun e =>
      let x := domEntry d e
      if x.built then
        let (f, b) := ownAnnounce d e false
        padTo 32 (beBytes 1 x.portState ++ f ++ b)
      else zeros 32
    let head := beBytes 1 (b2n d.tsc.cur) ++ st.flatMap (beBytes 1) ++ [0] ++ r
    let whole := head ++ sInt 8 stepO ++ beBytes 8 (boundCore (sclOf d false).comp) ++ beBytes 8 (boundCore (sclOf d true).comp)
      ++ sInt 8 (diff false) ++ sInt 8 (diff true) ++ ann
    twinSend d1 3 (if 0x0200 ≤ d.twn.agreed then whole else head)
  else d

/-- A BELL message at the standby. -/
def bellMessage (d : Dev) (msg : List Byte) : Dev :=
  withTwin d 3 msg fun d m =>
    if d.gen.mode != .standby then d
    else
      let b := m.payload
      let out := beAt b 0 1 % 2
      let whole := 0x0200 ≤ d.twn.agreed
      let stepO := if whole then sext 64 (beAt b 8 8) else 0
      let change := if (out == 1) == d.tsc.cur then none else some (out == 1)
      let waits := stepO != 0 || change.isSome
      let mine := m.bell == d.bellCnt.toNat || d.twn.muteLate
      updTwn d fun t => { t with
        outsel := out, cstateA := beAt b 1 1, cstateB := beAt b 2 1, refId := slice b 4 4
        stepO := stepO
        stepPending := if waits then some (stepO, change) else t.stepPending
        coreA := if whole then beAt b 16 8 else 0
        coreB := if whole then beAt b 24 8 else 0
        diffA := if whole then sext 64 (beAt b 32 8) else 0
        diffB := if whole then sext 64 (beAt b 40 8) else 0
        announce := if whole then slice b 48 512 else []
        mute := t.mute && (waits || t.muteToBell || !mine)
        muteToBell := waits || t.muteToBell
        muteLate := t.muteLate && waits }

def execBellMessageReceived (msg : List Byte) (s : State) : Host.Outcome State Fault Refusal := act s fun d => bellMessage d msg

/-- No BELL message within 5 ms of the Bell (R404). -/
def muteTimeout (d : Dev) : Dev :=
  if muted d && !d.twn.muteToBell then updTwn d (fun t => { t with muteLate := true }) else d

def muteDue (d : Dev) : Option Nat := if muted d && !d.twn.muteToBell then some (d.tsc.lastBellT.toNat + 5 * ms) else none

/-! ### The standby at its Bell (R397, R402, R403) -/

/-- R_tw and the mean θ of the interval that ends, before the Bell's steps. -/
def twinInterval (d : Dev) : Dev :=
  let l := d.twn.thetas
  if l.isEmpty then updTwn d fun t => { t with prevMean := t.meanTheta, meanTheta := none }
  else
    let n := l.length
    let s := sumI l
    let dev := maxN (l.map (fun x => (x * n - s).natAbs))
    let (mean, d1) := freeDiv d s n
    updTwn d1 fun t => { t with
      thetas := [], rtw := ceilDiv dev n + ceilDiv (40 * 65536) 1000, prevMean := t.meanTheta, meanTheta := some mean }

/-- At version 0x0100 a step of the partner is found from the twin lock (R403). -/
def findStep (d : Dev) : Dev :=
  if d.gen.mode == .standby && d.twn.agreed == 0x0100 && d.twn.loaded && d.twn.locked then
    match d.twn.meanTheta, d.twn.prevMean with
    | some a, some b =>
      if 4 * max d.twn.rtw 65536 < (a - b).natAbs then
        updTwn d fun t => { t with
          stepPending := some (a - b, (t.stepPending.bind (·.2))), stepBoth := true, mute := true, muteToBell := true }
      else d
    | _, _ => d
  else d

/-- Does the first setting from the twin fall on this Bell (R402)? -/
def twinSets (d : Dev) : Bool := d.gen.mode == .standby && twinConfigured d && !d.twn.loaded && d.twn.snap.isSome && d.twn.locked

/-- The value a scale is set to: the partner's TS-O plus DIFF, on 2⁻¹⁶ ns. -/
def twinValue (d : Dev) (b : Bool) : Nat :=
  ((stampOf (partnerO d) : Nat) + (if b then d.twn.diffB else d.twn.diffA)).toNat * 2 ^ 32

/-- The partner's count of Bells now: the snapshot's, and the seconds of its TS-O since. -/
def twinBellCnt (d : Dev) : Nat :=
  match d.twn.snap with
  | some s => s.bell.toNat + (secOf (partnerO d) - secOf (snapO s.image))
  | none => d.bellCnt.toNat

/-- TWN_DRILL_AGE at a Bell, and DRILL_OVERDUE (R21). -/
def drillBell (d : Dev) : Dev :=
  if !twinConfigured d then updTwn d fun t => { t with drillAge := 0, drillLogged := false }
  else
    let d1 := updTwn d fun t => { t with drillAge := min 0xFFFFFFFF (t.drillAge + 1) }
    if 2592000 < d1.twn.drillAge && !d1.twn.drillLogged then
      logC (updTwn d1 fun t => { t with drillLogged := true }) srcDrillOverdue 0 0
    else d1

/-- What the pair does at the end of a Bell: the mute of the standby, the BELL message, the snapshot. `stepO` is this chip's own step of TS-O, which the means of θ take back. -/
def twnBell (d : Dev) (stepO : Int) : Dev :=
  let d1 := findStep (twinInterval d)
  let d2 := updTwn d1 fun t => { t with meanTheta := t.meanTheta.map (· - stepO) }
  if d2.gen.mode == .standby && twinConfigured d2 then
    updTwn d2 fun t => { t with mute := true, muteToBell := t.stepPending.isSome, muteLate := false }
  else sendSnapshot (sendBellMsg (updTwn d2 fun t => { t with mute := false, muteToBell := false, muteLate := false }) stepO)

end Sys2Proof.Machine
end

