-- ==== Sys2Proof/Machine/Aud.lean ====
section
/-! DEFINITION. Audio reference ports: clocks, loss and return, the domain's edges, source changes, soft mute ramps, output frames and blocks (chapter 18; rows AUDIO_EDGE to LOOP_THROUGH_SLIP). A ramp end, a slip and a block boundary that are due come with their command, or with the next frame at the latest. -/
namespace Sys2Proof.Machine
open Sys2Proof

def updAud (d : Dev) (f : Aud → Aud) : Dev := { d with aud := f d.aud }
def audClock (d : Dev) (c : Nat) : AudClock := d.aud.clocks.getD c {}
def updClock (d : Dev) (c : Nat) (f : AudClock → AudClock) : Dev := updAud d fun a => { a with clocks := upd a.clocks c f }
def audOut (d : Dev) (n : Nat) : AudOut := d.aud.outs.getD n {}
def updAOut (d : Dev) (n : Nat) (f : AudOut → AudOut) : Dev := updAud d fun a => { a with outs := upd a.outs n f }
def aoutCfg (n : Nat) : Nat := AOUT_CFG + n * 0x40

/-! ### Rates and clocks (R413, R414) -/

/-- The block works: in ACTIVE or STANDBY, enabled (R426). -/
def audRuns (d : Dev) : Bool := inService d && enOf d baseAud && !heldInReset d 18 0

/-- A clock's loss counts: WCKIN always, an AES3 input while its EN is set. -/
def clkWatched (d : Dev) (c : Nat) : Bool := audRuns d && c < 5 && (c == 0 || efb d (AIN_CFG + (c - 1) * 0x40) 31)

/-- A clock's edges count where its pin has the function of an audio input; a pin of FUNC 0 is an absent clock (R471). -/
def clkOn (d : Dev) (c : Nat) : Bool := clkWatched d c && (if c == 0 then pinFunc d 32 == 6 else pinFunc d (23 + c) == 4)

/-- The register that counts a clock's events. -/
def clkEvt (c : Nat) : Nat := if c == 0 then WCK_EVT else AIN_EVT + (c - 1) * 0x40

/-- The reference a clock is: WCKIN is REF29, AESIN3 with DARS REF28. -/
def clkRef (d : Dev) (c : Nat) : Option Nat :=
  if c == 0 then some 29 else if c == 4 && efb d (AIN_CFG + 3 * 0x40) 8 then some 28 else none

/-- Measured rate over the accepted periods kept, mHz; 0 while there are none. -/
def rateMHz (a : AudClock) : Nat := let s := sumN a.periods; if s == 0 then 0 else a.periods.length * 1000000000000 / s

/-- Within 1,000 ppm of nominal: n periods that take s ns. -/
def rateOk (code n s : Nat) : Bool := (((n * 1000000000 : Nat) : Int) - s * rateHz code).natAbs * 1000 ≤ s * rateHz code

/-- Is a clock the followed one? -/
def isFollowed (d : Dev) (c : Nat) : Bool := followedClk d.aud.src == some c

/-- The followed clock counts as present: it is, and its RATE is the block's (R415). -/
def followedPresent (d : Dev) (src rate : Nat) : Bool :=
  match followedClk src with
  | some c => (audClock d c).present && clkRate d c == rate
  | none => true

/-! ### Ramps and switches (R416 to R422) -/

/-- L of the RAMP codes (R421). -/
def rampLen (d : Dev) (n : Nat) : Nat := [64, 128, 256, 512, 1024].getD (eff d (aoutCfg n) 18 16) 1024

/-- Begin a ramp-down for a reason: from the gain that a ramp-up has reached, else from the top. -/
def startDown (d : Dev) (n why : Nat) (o : AudOut) : AudOut :=
  if o.ramp == 0 then { o with ramp := 2, why := why, gain := rampLen d n, len := rampLen d n, rampDone := false }
  else { o with ramp := 2, why := why, rampDone := false }

/-- Begin a ramp-up. -/
def startUp (d : Dev) (n : Nat) (o : AudOut) : AudOut :=
  { o with ramp := 1, why := 0, gain := 0, len := rampLen d n, rampDone := false, low := false, silent := false }

/-- A running output begins its ramp-down; one that stops goes on stopping, one that ramps down goes on from where it is. -/
def rampDown (d : Dev) (why n : Nat) (o : AudOut) : AudOut :=
  if o.run && !o.low && !(o.ramp == 2 && o.why == 1) then startDown d n why o else o

/-- Change every output. -/
def eachOut (d : Dev) (f : Nat → AudOut → AudOut) : Dev :=
  updAud d fun a => { a with outs := (List.range a.outs.length).map fun n => f n (a.outs.getD n {}) }

/-- The content that an output's configuration in effect names. -/
def wanted (d : Dev) (n : Nat) : Nat × Nat := (eff d (aoutCfg n) 13 12, eff d (aoutCfg n) 9 8)

/-- An output takes a content: its tone and its elastic buffer begin anew. -/
def putContent (c : Nat × Nat) (o : AudOut) : AudOut := { o with content := c, tone := 0, buf := [], flows := false }

/-- Every output is held low at once, without a ramp. -/
def lowAll (d : Dev) : Dev :=
  updAud d fun a => { a with outs := a.outs.map fun o => if o.run then { o with low := true, silent := false, ramp := 0, why := 0, rampDone := false } else o }

/-- The followed clock is lost: the block bridges on the FUNC 0x04 stall, or cannot. -/
def audBridge (d : Dev) (mean : Rat) : Dev :=
  let nominal : Rat := (1000000000 : Rat) / (rateHz d.aud.rate : Rat)
  let (yb, d1) := if mean == 0 then (0, d) else freeRound d ((nominal / mean - 1) * (2 ^ 48 : Rat))
  let d2 := logC (updAud d1 fun a => { a with st := .bridging, yb := yb, returnDue := false, period := mean }) srcAudLoss 0 d.aud.src
  if (audioStall d).isNone then statSet (lowAll (updAud d2 fun a => { a with noBridge := true, edge := none, frame := 0 })) baseAud 17
  else
    let running := (List.range 4).filter (fun n => (audOut d2 n).run && !(audOut d2 n).low)
    let d3 := running.foldl (fun d n => countUp d (AOUT_EVT + n * 0x40) 7 0 1) d2
    updAud (eachOut d3 (rampDown d3 3)) fun a => { a with noBridge := false }

/-- A clock is lost, with the loss cause of its reference. -/
def clockLost (d : Dev) (c cause : Nat) : Dev :=
  let k := audClock d c
  if !k.present then d
  else
    let mean : Rat := if k.periods.isEmpty then 0 else (sumN k.periods : Rat) / (k.periods.length : Rat)
    let d1 := countUp (updClock d c fun k => { k with present := false, last := none, periods := [], good := 0, glitches := [], cbits := none })
      (clkEvt c) 7 0 1
    let d2 := match clkRef d1 c with
      | some r => refLoss d1 r cause
      | none => d1
    if isFollowed d c && d.aud.st == .following || isFollowed d c && d.aud.st == .returning then
      audBridge (updAud d2 fun a => { a with lastRate := rateMHz k }) mean
    else updAud d2 fun a => { a with returnDue := a.returnDue && !isFollowed d c }

/-- No edge for 2 × P after the last accepted one. -/
def lossDue (d : Dev) (c : Nat) : Nat :=
  match (audClock d c).last with
  | some l => l.toNat + ceilDiv 2000000000 (rateHz (clkRate d c))
  | none => d.t.toNat

/-- Entry into FOLLOWING or INTERNAL from STOPPED (Table 18.2): outputs whose EN is set start with a ramp-up (R421). -/
def audEnter (d : Dev) : Dev :=
  if !audRuns d || d.aud.st != .stopped then d
  else
    let src := eff d AUD_CLK 6 4
    let rate := eff d AUD_CLK 2 0
    let internal := (followedClk src).isNone
    if (internal && (audioStall d).isNone) || !followedPresent d src rate then d
    else
      let d1 := updAud d fun a => { a with
        st := if internal then .internal else .following, src := src, rate := rate,
        edge := if internal then some (d.t.toNat : Rat) else none, frame := 0, slew := 0 }
      (List.range 4).foldl (fun d n =>
        if efb d (aoutCfg n) 31 then updAOut d n fun _ => startUp d n { run := true, content := wanted d n } else d) d1

/-- A lost clock is present again. -/
def clockBack (d : Dev) (c : Nat) : Dev :=
  let d1 := updClock d c fun k => { k with present := true, good := 0 }
  let d2 := match clkRef d1 c with
    | some r => refPresent d1 r
    | none => d1
  let d3 := if d2.aud.st == .bridging && isFollowed d2 c && followedPresent d2 d2.aud.src d2.aud.rate then
      updAud d2 fun a => { a with returnDue := true }
    else d2
  audEnter d3

/-- CRCC of AES3 over channel-status bytes 0 to 22: x⁸ + x⁴ + x³ + x² + 1 from 0xFF, bits in the order they are sent. -/
def crcc (l : List Byte) : Byte :=
  l.foldl (fun c b => (List.range 8).foldl (fun c i => crc8Bit c (b.getLsbD i)) c) 0xFF#8

/-- Bits as bytes, the first bit of a byte in its bit 0. -/
def bitBytes : Nat → List Bool → List Byte
  | 0, _ => []
  | k + 1, l => ((List.range 8).foldl (fun w i => if l.getD i false then w ||| (1#8 <<< i) else w) 0#8) :: bitBytes k (l.drop 8)

/-- A subframe's parity: time slots 4 to 31 carry an even number of ones. -/
def parityBad (s : BitVec 28) : Bool := (List.range 28).foldl (fun p i => p.xor (s.getLsbD i)) false

/-- A block of 192 frames of an AES3 input is complete (Table 18.8). -/
def inputBlock (d : Dev) (n : Nat) (bits : List Bool) : Dev :=
  let st := bitBytes 24 bits
  let pro := (st.getD 0 0).getLsbD 0
  let ok := crcc (st.take 23) == st.getD 23 0
  let d1 := if pro && !ok then countUp d (AIN_EVT + n * 0x40) 15 8 1 else d
  let d2 := (List.range 6).foldl (fun d i => setReg d (AUD_ICS + n * 0x20 + 4 * i) (w32 (leAt st (4 * i) 4))) d1
  let d3 := setReg (setReg d2 (AUD_ICRC + n * 0x20) (w32 (b2n ok + 2))) (AUD_IBELL + n * 0x20) (audClock d (n + 1)).blkBell
  updClock d3 (n + 1) fun k => { k with pro := pro }

/-- A frame goes into the elastic buffers of the outputs that carry the input; frames flow once the buffer is half full. -/
def pushLoop (d : Dev) (n : Nat) (f : AesFrame) : Dev :=
  let x := (f.a.setWidth 25, f.b.setWidth 25)
  eachOut d fun _ o =>
    if o.run && o.content == (2, n) then
      { o with buf := (o.buf ++ [x]).take 32, flows := o.flows || 16 ≤ o.buf.length + 1 }
    else o

/-- What an accepted edge of an AES3 input brings: the frame that ends, and with a Z preamble the block. -/
def inputFrame (d : Dev) (n : Nat) (f : AesFrame) : Dev :=
  let evt := AIN_EVT + n * 0x40
  let d1 := countUp (countUp d evt 31 24 f.coding) evt 23 16 (b2n (parityBad f.a) + b2n (parityBad f.b))
  let bits := (audClock d1 (n + 1)).cbits.map (· ++ [f.a.getLsbD 26])
  let d2 := pushLoop d1 n f
  if f.z then
    let d3 := match bits with
      | some l => if l.length == 192 then inputBlock d2 n l else d2
      | none => d2
    updClock d3 (n + 1) fun k => { k with cbits := some [], blkBell := w32 d.bellCnt.toNat }
  else updClock d2 (n + 1) fun k => { k with cbits := bits.map (·.take 193) }

/-! ### Ramps' ends and switches (R417, R419, R421, R422) -/

/-- The outputs all stand without a ramp. -/
def rampsOver (d : Dev) : Bool := d.aud.outs.all (fun o => o.ramp == 0 && !o.upDue)

/-- The last ramp-up after a return or a source change is complete. -/
def endReturn (d : Dev) : Dev :=
  if d.aud.st == .returning && rampsOver d then updAud d fun a => { a with st := .following } else d

/-- The ramp of an output whose last sample has left ends. -/
def rampEnd (d : Dev) (n : Nat) : Dev :=
  let o := audOut d n
  let rest := fun (o : AudOut) => { o with ramp := 0, why := 0, rampDone := false }
  if !o.rampDone then d
  else if o.ramp == 1 then endReturn (updAOut d n rest)
  else
    match o.why with
    | 1 => updAOut d n fun o => { rest o with run := false, low := true, silent := false }
    | 3 =>
      if rgb d (aoutCfg n) 30 then updAOut d n fun o => { rest o with silent := true }
      else updAOut d n fun o => { rest o with low := true }
    | 4 => updAOut d n fun o => startUp d n (putContent (wanted d n) o)
    | _ => updAOut d n fun o => { rest o with silent := true }

/-- A switch of the domain clock waits for the block boundary at which it stands, its ramps over and its source present. -/
def switchReady (d : Dev) : Bool :=
  audRuns d && !d.aud.outs.any (·.ramp == 2) && d.aud.frame == 0
    && (match d.aud.change with
        | some (src, rate) => !(d.aud.st == .bridging) || followedPresent d src rate
        | none => d.aud.st == .bridging && d.aud.returnDue)

/-- A running output goes on after a switch: held ones restart with a new block, all ramp up. -/
def rampUp (d : Dev) (n : Nat) (o : AudOut) : AudOut := if o.run then startUp d n o else o

/-- The domain clock switches: the return to the followed clock (R417), or a source change whose ramps have ended (R419). -/
def returnSwitch (d : Dev) : Dev :=
  if !switchReady d then d
  else match d.aud.change with
    | some (src, rate) =>
      let next := if (followedClk src).isNone then AudState.internal else if followedPresent d src rate then .returning else .bridging
      endReturn (updAud d fun a => { a with
        src := src, rate := rate, change := none, st := next, returnDue := false, noBridge := a.noBridge && next == .bridging,
        outs := if next == .bridging then a.outs else a.outs.map fun o => if o.run then { o with upDue := true } else o })
    | none =>
      endReturn (updAud (eachOut d (rampUp d)) fun a => { a with st := .returning, returnDue := false, noBridge := false })

/-! ### Output blocks (R420 to R425) -/

/-- Loop-through needs its input locked, at the block's rate. -/
def loopLocked (d : Dev) (n : Nat) : Bool :=
  let k := audClock d ((audOut d n).content.2 + 1)
  k.present && rateOk d.aud.rate k.periods.length (sumN k.periods)

/-- EN, CONTENT and LOOPSRC as they stand after a boundary. While the domain bridges the loss governs; a change takes effect at the first block after the return (R427). -/
def blockConfig (d : Dev) (n : Nat) : Dev :=
  let o := audOut d n
  let en := efb d (aoutCfg n) 31
  if !o.run then
    if en && d.aud.st != .stopped && d.aud.st != .bridging then
      updAOut d n fun _ => startUp d n { run := true, content := wanted d n }
    else d
  else if !en then
    if o.low then updAOut d n fun _ => { low := true }
    else if o.ramp == 2 && o.why == 1 then d
    else updAOut d n fun o => startDown d n 1 { o with upDue := false }
  else if d.aud.st == .bridging then d
  else if o.upDue then updAOut d n fun o => startUp d n (putContent (wanted d n) { o with upDue := false })
  else if d.aud.st == .returning && o.ramp == 1 && o.content != wanted d n then updAOut d n (putContent (wanted d n))
  else if o.content != wanted d n && o.ramp != 2 then updAOut d n (startDown d n 4)
  else d

/-- The time-of-day sample address of a block whose first frame starts at t₀ of TS-O, 2⁻¹⁶ ns; none while TAI − UTC is unknown (R424). -/
def sampleAddress (d : Dev) (t0 : Nat) : Option Nat :=
  let at_ := fun (delta : Int) =>
    let day : Int := ((tSec t0 : Int) - delta) / 86400 * 86400 + delta
    (((t0 : Int) - day * 65536000000000) * rateHz d.aud.rate / 65536000000000 % 2 ^ 32).toNat
  if efb d AUD_CLK 8 then some (at_ 0) else (utcOffset d).map at_

/-- The channel status of a block. -/
def statusBytes (d : Dev) (n t0 : Nat) : List Byte :=
  let t := (List.range 6).flatMap (fun i => leBytes 4 (ef d (AUD_TPL + n * 0x20 + 4 * i)).toNat)
  let t1 := if efb d (aoutCfg n) 29 then patch t 18 (leBytes 4 ((sampleAddress d t0).getD 0)) else t
  t1.take 23 ++ [crcc (t1.take 23)]

/-- The 48 bytes of user bits of a block, from the ring buffer. -/
def userBits (d : Dev) (n : Nat) : List Byte × Dev :=
  let uwp := rgf d (AOUT_UWP + n * 0x40) 11 0
  let urp := rgf d (AOUT_URP + n * 0x40) 11 0
  if (uwp + 4096 - urp) % 4096 < 48 then
    (zeros 48, statSet (countUp d (AOUT_EVT + n * 0x40) 31 16 1) baseAud 20)
  else
    let at_ := fun (i : Nat) => let a := (urp + i) % 4096; (leBytes 4 (rg d (AUD_UBUF + n * 0x1000 + a / 4 * 4)).toNat).getD (a % 4) 0
    ((List.range 48).map at_, setReg d (AOUT_URP + n * 0x40) (w32 ((urp + 48) % 4096)))

/-- The boundary before an output's block (R34): staged values take effect, once for each block. -/
def blockBoundary (d : Dev) (n : Nat) : Dev :=
  if 3 < n || !audRuns d || d.aud.st == .stopped || d.aud.frame != 0 || (audOut d n).begun then d
  else updAOut (blockConfig (takeBoundary d (.audioBlock n) (192 * 1000000000 / rateHz d.aud.rate)) n) n fun o => { o with begun := true }

/-- The elastic buffer has run to 2 frames from empty or full (R420). -/
def slipDue (d : Dev) (n : Nat) : Bool :=
  let o := audOut d n
  o.run && o.content.1 == 2 && o.flows && (o.buf.length ≤ 2 || 30 ≤ o.buf.length)

/-- It repeats or drops a frame. -/
def loopSlip (d : Dev) (n : Nat) : Dev :=
  if slipDue d n && loopLocked d n then
    logC (statSet (countUp (updAOut d n fun o => { o with buf := if o.buf.length ≤ 2 then o.buf.take 1 ++ o.buf else o.buf.drop 1 })
      (AOUT_EVT + n * 0x40) 15 8 1) baseAud 21) srcAudSlip n 0
  else d

def execLoopThroughSlip (out : Nat) (s : State) : Host.Outcome State Fault Refusal := act s fun d => loopSlip d out

/-! ### Frames (R412, R416, R420 to R425) -/

/-- Time slots 4 to 31 of a subframe: audio and validity, user, channel status and parity. -/
def aesSub (x : BitVec 25) (u c : Bool) : BitVec 28 :=
  let w := x.setWidth 28 ||| (if u then 1#28 <<< 25 else 0#28) ||| (if c then 1#28 <<< 26 else 0#28)
  if parityBad w then w ||| 1#28 <<< 27 else w

/-- A bit of a list of bytes. -/
def bitOf (l : List Byte) (i b : Nat) : Bool := (l.getD i 0).getLsbD b

/-- The sample that an output sends next in both subframes, before its gain and mask, audio and validity; and the output after it. -/
def nextSample (d : Dev) (n : Nat) : (BitVec 25 × BitVec 25) × AudOut :=
  let o := audOut d n
  if o.silent then ((0, 0), o)
  else match o.content.1 with
    | 1 =>
      let freq := max 1 (min 20000 (eff d (AOUT_TONE + n * 0x40) 14 0))
      let s := (Config.toneSample freq (min 60 (eff d (AOUT_TONE + n * 0x40) 22 16)) (rateHz d.aud.rate) o.tone).setWidth 25
      ((s, s), { o with tone := o.tone + 1 })
    | 2 =>
      if !loopLocked d n then ((0, 0), { o with buf := [], flows := false })
      else if o.flows then (o.buf.headD (0, 0), { o with buf := o.buf.drop 1 })
      else ((0, 0), o)
    | _ => ((0, 0), o)

/-- A sample under the gain of its output's ramp. -/
def gained (o : AudOut) (x : BitVec 25) : BitVec 25 :=
  if o.ramp == 0 || o.len ≤ o.gain then x
  else
    let v : BitVec 25 := x &&& 0x1000000#25
    let a : BitVec 24 := x.setWidth 24
    if a == 0 || o.gain == 0 then v else v ||| (Config.rampSample o.gain o.len a).setWidth 25

/-- The ramp after a sample. -/
def rampOn (o : AudOut) : AudOut :=
  if o.ramp == 1 then (if o.gain < o.len then { o with gain := o.gain + 1 } else { o with rampDone := true })
  else if o.ramp == 2 then (if 0 < o.gain then { o with gain := o.gain - 1 } else { o with rampDone := true })
  else o

/-- A frame of one output, at a picosecond of the free counter, that leaves where the pin has the function (R470); a masked subframe carries zero, marked not valid (R423). -/
def sendFrame (d : Dev) (n : Nat) (ps : Int) : Dev :=
  let (x, o) := nextSample d n
  let f := d.aud.frame
  let part := fun (m : Nat) (x : BitVec 25) =>
    let y := if efb d (aoutCfg n) m then gained o x else 0x1000000#25
    aesSub y (bitOf o.user ((2 * f + m) / 8) (7 - (2 * f + m) % 8)) (bitOf o.status (f / 8) (f % 8))
  let d1 := if pinFunc d (28 + n) == 5 then emit d (.aes n f (part 0 x.1) (part 1 x.2) ps) else d
  updAOut d1 n fun _ => rampOn o

/-- Outputs that send frames. -/
def sending (d : Dev) : List Nat := (List.range 4).filter (fun n => (audOut d n).run && !(audOut d n).low)

/-- The first frame of a block takes the output's channel status and user bits. -/
def blockStart (d : Dev) (t0 n : Nat) : Dev :=
  let (u, d1) := userBits d n
  updAOut d1 n fun o => { o with status := statusBytes d n t0, user := u }

/-- TS-O at an instant of the free counter, ns, before or on the present TCLK; 2⁻¹⁶ ns. -/
def scaleAt (d : Dev) (ns : Rat) : Nat :=
  (((d.tsc.o : Rat) - ((d.t.toNat : Rat) - ns) * (incOf d.tsc.oF : Rat)) / (2 ^ 32 : Rat)).floor.toNat

/-- What is due before a frame: ramps that have ended, slips, and before the first frame of a block its boundary. -/
def beforeFrame (d : Dev) : Dev :=
  let d1 := (List.range 4).foldl (fun d n => loopSlip (rampEnd d n) n) d
  (List.range 4).foldl blockBoundary d1

/-- An edge of the domain: WCKOUT rises, and every output that runs sends a frame. -/
def domainEdge (d0 : Dev) (ns : Rat) : Dev :=
  let d := beforeFrame d0
  let ps : Int := (ns * 1000).floor
  let d1 := if d.aud.frame == 0 then (sending d).foldl (fun e n => blockStart e (scaleAt d ns) n) d else d
  let d2 := (sending d1).foldl (fun e n => sendFrame e n ps) (if efb d1 WCK_CFG 31 && pinFunc d1 33 == 7 then emit d1 (.pin 33 true ps) else d1)
  let next := (d2.aud.frame + 1) % 192
  updAud d2 fun a => { a with
    edge := some ns, frame := next,
    outs := if next == 0 then a.outs.map (fun o => { o with begun := false }) else a.outs }

/-- Nominal period of the block, ns. -/
def nominalP (d : Dev) : Rat := 1000000000 / (rateHz d.aud.rate : Rat)

/-- The period between the edges that the block places itself, ns: the followed clock's mean (R416), the bridge's, the internal master's (R418). -/
def domainPeriod (d : Dev) : Option Rat :=
  match d.aud.st with
  | .following | .returning =>
    match followedClk d.aud.src with
    | some c =>
      let l := (audClock d c).periods
      if l.isEmpty then none else some ((sumN l : Rat) / (l.length : Rat))
    | none => none
  | .bridging => if d.aud.noBridge || d.aud.period == 0 then none else some d.aud.period
  | .internal => (audioStall d).map fun n => nominalP d * (2 ^ 48 : Rat) / ((2 ^ 48 + yOf d n : Int) : Rat)
  | .stopped => none

/-- What a frame of the internal master slews of its phase: 1 ns at most, and no frame under 0.98 × P (R418). -/
def slewNow (d : Dev) : Rat :=
  if d.aud.st == .internal then max (-(min 1 (nominalP d / 50))) (min 1 d.aud.slew) else 0

/-- The next edge that the block places, ns. -/
def nextEdge (d : Dev) : Option Rat :=
  match d.aud.edge, domainPeriod d with
  | some e, some p => some (e + p + slewNow d)
  | _, _ => none

/-- A block that is to switch at a boundary holds its next edge for the switch (R417); one to the internal master switches at once. -/
def atBoundary (d : Dev) : Dev :=
  if switchReady d && (match d.aud.change with
    | some (src, _) => (followedClk src).isNone
    | none => false) then returnSwitch d
  else d

/-- Edges that fall due are placed. While the block follows a clock, an edge is missing once it is 100 ns late (R416). -/
def placeEdges : Nat → Dev → Dev
  | 0, d => d
  | k + 1, d0 =>
    let d := atBoundary d0
    if switchReady d then d
    else match nextEdge d with
      | some e =>
        let late : Rat := if d.aud.st == .following || d.aud.st == .returning then 100 else 0
        if e + late ≤ (d.t.toNat : Rat) then
          placeEdges k (updAud (domainEdge d e) fun a => { a with slew := a.slew - slewNow d })
        else d
      | none => d

/-- All edges due by now. -/
def audPlace (d : Dev) : Dev :=
  match d.aud.edge, domainPeriod d with
  | some e, some p =>
    if audRuns d && 0 < p then placeEdges (((d.t.toNat : Rat) - e) * 2 / p + 1).floor.toNat d else d
  | _, _ => d

/-- An accepted edge of the followed clock starts a frame, half a period after the last at the earliest; at a boundary that waits for it, it is the switch. -/
def followEdge (d0 : Dev) (c : Nat) : Dev :=
  let d := atBoundary d0
  let now : Rat := d.t.toNat
  let src := (d.aud.change.map (·.1)).getD d.aud.src
  let free := match d.aud.edge with
    | some e => e + nominalP d / 2 ≤ now
    | none => true
  if switchReady d then (if followedClk src == some c && (audClock d c).present then domainEdge (returnSwitch d) now else d)
  else if isFollowed d c && (d.aud.st == .following || d.aud.st == .returning) && free then domainEdge d now
  else d

/-- An edge of an audio clock (R414). -/
def audioEdge (d0 : Dev) (c : Nat) (frame : Option AesFrame) : Dev :=
  if !clkOn d0 c then d0
  else
    let d := audPlace d0
    let took := fun (d : Dev) => match frame with
      | some f => if 0 < c then inputFrame d (c - 1) f else d
      | none => d
    let k := audClock d c
    let hz := rateHz (clkRate d c)
    match k.last with
    | none => updClock (took d) c fun k => { k with last := some d.t }
    | some l =>
      let p := d.t.toNat - l.toNat
      if p * 2 * hz < 1000000000 then
        let near := fun (t : Tick) => (d.t.toNat - t.toNat) * hz ≤ 64 * 1000000000
        let g := (d.t :: k.glitches).filter near
        let d1 := statSet (countUp (updClock d c fun k => { k with glitches := g, good := 0 })
          (clkEvt c) (if c == 0 then 15 else 31) (if c == 0 then 8 else 24) 1) baseAud 22
        if 4 ≤ g.length then clockLost d1 c 1 else d1
      else
        let ps := (p :: k.periods).take 64
        let d1 := updClock (took d) c fun k => { k with last := some d.t, periods := ps }
        if k.present then
          if ps.length == 64 && !rateOk (clkRate d c) 64 (sumN ps) then clockLost d1 c 2 else followEdge d1 c
        else
          let good := if rateOk (clkRate d c) 1 p then k.good + 1 else 0
          let d2 := updClock d1 c fun k => { k with good := good }
          if 1024 ≤ good then clockBack d2 c else d2

def execAudioEdge (clk : Nat) (frame : Option AesFrame) (s : State) : Host.Outcome State Fault Refusal :=
  act s fun d => audioEdge d clk frame

/-! ### Instants that the placed edges give -/

/-- When the n-th edge from now is placed, at the present period. -/
def edgeDue (d : Dev) (n : Nat) : Option Nat :=
  match d.aud.edge, domainPeriod d with
  | some e, some p => some (ratCeil (e + p * (n : Rat))).toNat
  | _, _ => none

/-- When the present block ends. -/
def boundaryDue (d : Dev) : Option Nat := edgeDue d ((192 - d.aud.frame) % 192 + 1)

/-- Frames that a ramp still takes, the one after which it ends included. -/
def rampLeft (d : Dev) (n : Nat) : Nat :=
  let o := audOut d n
  (if o.ramp == 1 then o.len - o.gain else o.gain) + 1

/-! ### At a Bell (R415, R419) -/

/-- A new SRC or RATE in effect is a source change of every running output. -/
def audBell (d : Dev) : Dev :=
  if !audRuns d then (if d.aud.st == .stopped then d else { d with aud := {} })
  else if d.aud.st == .stopped then audEnter d
  else
    let src := eff d AUD_CLK 6 4
    let rate := eff d AUD_CLK 2 0
    let (s0, r0) := d.aud.change.getD (d.aud.src, d.aud.rate)
    if (src, rate) == (s0, r0) then d
    else updAud (if d.aud.st == .bridging then d else eachOut d (rampDown d 2)) fun a => { a with change := some (src, rate) }

end Sys2Proof.Machine
end

