-- ==== Sys2Proof/Machine/Start.lean ====
section
/-! DEFINITION. The start: trim load, clock bring-up, charter, self-test, energy wait, claim wait and entry into service; the load of a charter from flash and the end of its verification; losses of a clock; the JTAG port (R82 to R85, R400, R435 to R444, R484, R489; rows TRIM_LOAD_COMPLETE to TWFLOOR_LOW_IN_CLAIM, VERIFY_COMPLETE, HOLDUP_SAMPLE, KEY_NRD_SEL_WRITE, JTAG_INSTRUCTION_UPDATE). -/
namespace Sys2Proof.Machine
open Sys2Proof

def updStart (d : Dev) (f : Start → Start) : Dev := { d with start := f d.start }
def updCht (d : Dev) (f : Cht → Cht) : Dev := { d with cht := f d.cht }

/-! ### Trim load (R435, R489) -/

/-- A fuse-array load ends. -/
def trimLoad (d : Dev) (crcOk : Bool) (image : FuseImage) : Dev :=
  if d.start.phase != .trimLoad then d
  else if crcOk then
    let d1 := updStart d fun s => { s with shadowsValid := true, fuses := image, trimLoads := 0 }
    let d2 := { d1 with backup := { d1.backup with bkpTrim := image.bkpTrim } }
    if image.factoryEn && d.start.testSampled then
      updStart (setMode d2 .factory) fun s => { s with phase := .clocks, minimalDue := false }
    else if d2.start.minimalDue && limitOf d2 ≤ d2.backup.attempt then enterMinimal d2
    else updStart d2 fun s => { s with phase := .clocks, minimalDue := false }
  else if 3 ≤ d.start.trimLoads then startFail d 1 0
  else updStart d fun s => { s with trimLoads := s.trimLoads + 1 }

def execTrimLoadComplete (crcOk : Bool) (image : FuseImage) (s : State) : Host.Outcome State Fault Refusal :=
  act s fun d => trimLoad d crcOk image

/-! ### Clock bring-up (R436 to R439) -/

def essential (dom : Nat) : Bool := 1 ≤ dom && dom ≤ 4
def nonEssential (dom : Nat) : Bool := [5, 8, 9, 10, 12, 13].contains dom
def domainOf (d : Dev) (dom : Nat) : DomainState := d.start.domains.getD dom .waiting
def setDomain (d : Dev) (dom : Nat) (x : DomainState) : Dev := updStart d fun s => { s with domains := s.domains.set dom x }

/-- Its blocks stay in reset with CTRL.EN = 0. -/
def holdDomain (d : Dev) (dom : Nat) : Dev :=
  match domainSlot dom with
  | some h => { d with gen := { d.gen with heldInReset := h :: d.gen.heldInReset.filter (· != h) } }
  | none => d

/-- A frequency within ±0.5 % of 10, 20 or 40 MHz (R439). -/
def oscNominal (hz : Nat) : Option Nat :=
  [10000000, 20000000, 40000000].find? (fun f => ((hz : Int) - f).natAbs * 200 ≤ f)

/-- Nominal frequencies of the PLL domains and of PCIE and GSMP, Hz (Table 2.2). -/
def domainHz (dom : Nat) : Option Nat :=
  [none, none, some 1000000000, some 800000000, some 200000000, some 250000000, none, none, some 327360000, some 81840000,
   some 500000000, none, some 402830000, some 402830000].getD dom none

/-- Within ±1 % of nominal (R436); a domain that has no one frequency is judged by its own chapter. -/
def nearNominal (dom hz : Nat) : Bool :=
  match domainHz dom with
  | some f => ((hz : Int) - f).natAbs * 100 ≤ f
  | none => true

/-- A domain fails (R436). -/
def failDomain (d : Dev) (dom : Nat) : Dev := logC (holdDomain (setDomain d dom .failed) dom) srcClockFail 0 dom

/-- The charter load begins with the slot that CHT_BOOT.PREF names (R82). -/
def beginCharter (d : Dev) : Dev :=
  let pref := rgf d CHT_BOOT 0 0
  updCht (updStart d fun s => { s with phase := .charter }) fun c => { c with
    st := .loading, buf := [], startSlot := some pref, prefErr := none, worst := 0, altSlot := false, errCode := 0, errSection := 0 }

/-- Every domain but the external ones has been judged: an essential failure fails the start, else the charter is loaded. -/
def judgeClocks (d : Dev) : Dev :=
  if d.start.phase != .clocks || (List.range 20).any (fun k => (essential k || nonEssential k) && domainOf d k == .waiting) then d
  else
    let d1 := (List.range 20).foldl (fun d k => if nonEssential k && domainOf d k != .good then holdDomain d k else d) d
    match (List.range 20).find? (fun k => essential k && domainOf d k != .good) with
    | some k => if d.gen.mode == .factory then beginCharter d1 else startFail d1 2 k
    | none => beginCharter d1

/-- A domain's monitor has reported good for 256 cycles. -/
def domainGood (d : Dev) (dom hz : Nat) : Dev :=
  if 19 < dom || !nearNominal dom hz || d.start.phase == .held || d.gen.mode == .off || domainOf d dom == .failed || domainOf d dom == .good then d
  else if dom == 1 && (oscNominal hz).isNone then d
  else
    let was := domainOf d dom
    let d1 := setDomain d dom .good
    let d2 := if dom == 1 then updStart d1 fun s => { s with oscHz := (oscNominal hz).getD 0 }
      else if dom == 2 then { d1 with tsc := { d1.tsc with running := true } }
      else d1
    if was == .deferred then
      match domainSlot dom, d2.cht.cur with
      | some h, some c =>
        let d3 := { d2 with gen := { d2.gen with heldInReset := d2.gen.heldInReset.filter (· != h) } }
        setEnables d3 c.fabric (fun s _ => s == h.1)
      | _, _ => d2
    else judgeClocks d2

def execClockDomainGood (dom hz : Nat) (s : State) : Host.Outcome State Fault Refusal := act s fun d => domainGood d dom hz

/-- The charter's ports are skipped where ETX has failed (R437). -/
def skipPorts (d : Dev) (l : List Pitch) : Dev :=
  (l.filter (·.kind == 7)).foldl (fun d p => logC d srcCharterSkip p.index 7) d

def withoutPorts (f : Fabric) : Fabric := { f with pitches := f.pitches.filter (·.kind != 7) }

/-- The in-effect fabric loses its ports. -/
def dropPorts (d : Dev) : Dev :=
  match d.cht.cur with
  | some c => updCht (skipPorts d c.fabric.pitches) fun x => { x with cur := some { c with fabric := withoutPorts c.fabric } }
  | none => d

/-- A deferred domain's 10 ms count from the start of the ETHREF output (R438). -/
def deferredDue (d : Dev) (dom : Nat) : Option Nat :=
  if domainOf d dom == .deferred then d.start.ethT.map (fun t => t.toNat + 10 * ms) else some d.t.toNat

/-- A domain is not good within 10 ms of its bring-up. -/
def domainTimeout (d : Dev) (dom : Nat) : Dev :=
  match domainOf d dom with
  | .waiting =>
    if d.start.phase != .clocks || !(essential dom || nonEssential dom) then d
    else if dom == 12 || dom == 13 then judgeClocks (setDomain d dom .deferred)
    else judgeClocks (failDomain d dom)
  | .deferred =>
    if d.cht.cur.isSome then
      let d1 := failDomain d dom
      if dom == 13 then dropPorts d1 else d1
    else d
  | _ => d

/-- The monitor of a running domain reports not good (R455). -/
def clockLoss (d : Dev) (dom : Nat) : Dev :=
  if domainOf d dom == .good then report (setDomain d dom .lost) srcClockLoss 0 dom else d

def execClockLoss (dom : Nat) (s : State) : Host.Outcome State Fault Refusal := act s fun d => clockLoss d dom

/-! ### The charter (R82 to R85) -/

/-- The place of a code in the order of Table 4.9; FLASH_IO stands first (R82). -/
def errRank (code : Nat) : Nat := [0x0F, 1, 9, 2, 3, 4, 5, 6, 7, 8, 0x0A, 0x0B, 0x0C, 0x0D].idxOf code

/-- Table 4.10. -/
def failReason (code : Nat) : Nat :=
  if code == 1 || code == 0x0F then 3 else if code == 6 || code == 7 then 4 else 5

/-- The slot under trial fails: the other is tried, or the start fails. -/
def slotFailed (d : Dev) (code section_ : Nat) : Dev :=
  let slot := d.cht.startSlot.getD 0
  let d1 := updCht (slotOk d slot false) fun c => { c with errCode := code, errSection := section_ }
  match d.cht.prefErr with
  | none => updCht d1 fun c => { c with prefErr := some code, worst := code, startSlot := some (1 - slot), st := .loading, buf := [] }
  | some _ =>
    let w := if errRank d.cht.worst < errRank code then code else d.cht.worst
    let d2 := updCht d1 fun c => { c with worst := w, st := .idle, startSlot := none, buf := [] }
    if d.gen.mode == .factory then updStart d2 fun s => { s with phase := .selfTest }
    else startFail d2 (failReason w) w

/-- An image has been read from a slot. -/
def flashRead (d : Dev) (slot : Nat) (image : List Byte) : Dev :=
  if d.cht.st != .loading then d
  else match d.cht.startSlot with
    | some k =>
      if k != slot then d
      else match headCheck image 4194304 with
        | some c => slotFailed d c 0
        | none => beginVerify d image
    | none =>
      if d.cht.slot != some slot then d
      else match headCheck image 4194304 with
        | some c => chtError d c 0
        | none => if loadBufBytes d < (readHeader image).imageLen then chtError d 9 0 else beginVerify d image

def execCharterFlashReadComplete (slot : Nat) (image : List Byte) (s : State) : Host.Outcome State Fault Refusal :=
  act s fun d => flashRead d slot image

/-- A flash read fails. -/
def flashIoFail (d : Dev) : Dev :=
  if d.cht.st != .loading then d
  else if d.cht.startSlot.isSome then slotFailed d 0x0F 0
  else if d.cht.slot.isSome then chtError d 0x0F 0
  else d

def execFlashIoFail (s : State) : Host.Outcome State Fault Refusal := act s flashIoFail

/-- The checks of Table 4.9 end: in a start the build follows (R84), else the load in service goes on. A slot whose last write was cut short fails (R94), with the signature's code where no other check finds it (DEDUCED, log 52). -/
def verifyComplete (d : Dev) : Dev :=
  if d.cht.st != .verifying then d
  else match d.cht.startSlot with
    | none => verifyLoaded d
    | some k =>
      match verifyImage d d.cht.buf with
      | .inl (c, x) => slotFailed d c x
      | .inr i =>
        if d.cht.torn.contains k then slotFailed d 7 0
        else if i.hdr.isDelta then slotFailed d 0x0A 0
        else
          updStart (updCht (slotOk d k true) fun c => { c with shadow := some (shadowOf d i), shadowIsDelta := false, st := .building })
            fun s => { s with phase := .build }

def execVerifyComplete (s : State) : Host.Outcome State Fault Refusal := act s verifyComplete

/-- The fabric is built. Deferred domains fail where the charter names no ETHREF output; ports of a failed ETX are skipped (R437, R438). -/
def fabricBuilt (d : Dev) : Dev :=
  if d.start.phase != .build then d
  else match d.cht.shadow, d.cht.startSlot with
    | some e, some k =>
      let d1 := if e.fabric.ethref == 0xFF then
          [12, 13].foldl (fun d x => if domainOf d x == .deferred then failDomain d x else d) d
        else d
      let skip := domainOf d1 13 == .failed
      let d2 := if skip then skipPorts d1 e.fabric.pitches else d1
      let e1 := if skip then { e with fabric := withoutPorts e.fabric } else e
      let alt := k != rgf d CHT_BOOT 0 0
      let d3 := if alt then logC d2 srcCharterAlt 0 (d.cht.prefErr.getD 0) else d2
      let d4 := buildFabric d3 e1 (readImg d.cht.buf).fw
      updStart (updCht (showRates d4) fun c => { chtIdle c with startSlot := none, altSlot := alt }) fun s => { s with phase := .selfTest }
    | _, _ => d

def execFabricBuildComplete (s : State) : Host.Outcome State Fault Refusal := act s fabricBuilt

/-! ### Self-test (R440, Table 19.4) -/

/-- The identity root is drawn at the first start in FACTORY with the identity fuses blank (R368). -/
def identityStart (d : Dev) (readOk : Bool) : Dev :=
  let (root, d1) := drawBytes d 32
  let d2 := if d.gen.mode == .factory && d.key.idRoot.isNone then { d1 with key := { d1.key with idRoot := some root } } else d
  { d2 with key := { d2.key with idOk := d2.key.idRoot.isSome && readOk } }

/-- SEQ and place of the checkpoint ring go on from the newest frame whose CRC is good (R117). -/
def loadCkptSeq (d : Dev) : Dev :=
  let frame := fun (i : Nat) => nvRead d (0x20000 + 4096 * i) 4096
  let good := (List.range 32).filterMap fun i =>
    let b := frame i
    if (crc32 (b.take 60 ++ b.drop 64)).toNat == leAt b 60 4 then some (leAt b 8 4, i) else none
  let best := good.foldl (fun (m : Option (Nat × Nat)) x => match m with
    | some y => if y.1 < x.1 then some x else m
    | none => some x) none
  match best with
  | some (q, i) => { d with tsc := { d.tsc with ckptSeq := w32 (q + 1), ckptNext := (i + 1) % 32 } }
  | none => d

/-- The start passes (R400, R443). In FACTORY the mode stays (R489). -/
def startPass (d : Dev) : Dev :=
  let d1 := updStart d fun s => { s with
    wdogPaused := false, wdogT := if s.wdogPaused then s.wdogT + (d.t - s.waitT) else s.wdogT, waitT := d.t }
  if d.gen.mode == .factory then updStart d1 fun s => { s with phase := .done }
  else if twinConfigured d then
    if d.twn.floorLow then enterService d1 .standby else updStart d1 fun s => { s with phase := .claimWait }
  else enterService d1 .active

/-- The chip waits for 1,200 µJ (R384). -/
def energyOk (d : Dev) : Bool := (fuses d).holdcap == 0 || (d.key.eValid && 1200 ≤ d.key.e)

/-- Self-test ends. -/
def selfTest (d : Dev) (res : SelfTestIn) : Dev :=
  if d.start.phase != .selfTest then d
  else
    let bad := if !res.sramOk then some 1 else if !res.lockstepOk then some 2 else if !res.auditorOk then some 3 else none
    match bad, d.gen.mode == .factory with
    | some i, false => startFail d 6 i
    | _, fac =>
      let d0 := updStart d fun s => { s with taps := res.taps }
      let d1 := journalReplay (identityStart (updTwn d0 fun t => { t with floorLow := res.floorLow }) res.idReadOk)
      let d2 := if d1.key.root.isNone then newRoot d1 else d1
      let cap := (fuses d2).holdcap
      let d3 := if cap == 0 then d2 else holdupSample (dischargeTest d2 res.deltaMv) res.vhsns
      if cap != 0 && res.deltaMv != 0 && 40000 < cap * res.deltaMv && !fac then startFail d3 8 5
      else
        let d4 := if heldInReset d3 11 0 then d3 else tdcSelfTest d3 res.tdc
        let d5 := autoload (gnssLoad (loadCkptSeq (loadCals d4)))
        if energyOk d5 then startPass d5
        else updStart d5 fun s => { s with phase := .energyWait, wdogPaused := true, waitT := d5.t }

def execSelfTestComplete (res : SelfTestIn) (s : State) : Host.Outcome State Fault Refusal := act s fun d => selfTest d res

/-- A sample of VHSNS (R381); in the energy wait one that reaches 1,200 µJ lets the start pass. -/
def sampleStart (d : Dev) (vhsns : Nat) : Dev :=
  let d1 := holdupSample d vhsns
  if d1.start.phase == .energyWait && energyOk d1 then startPass d1 else d1

def execHoldupSample (vhsns : Nat) (s : State) : Host.Outcome State Fault Refusal :=
  act s fun d => if d.start.phase == .held || d.gen.mode == .off then d else sampleStart d vhsns

/-- 10 s have passed in the energy wait (R384); in FACTORY the start goes on (R489). -/
def energyTimeout (d : Dev) : Dev :=
  if d.start.phase != .energyWait then d
  else if d.gen.mode == .factory then startPass d else startFail d 8 5

/-- 10 s after the wait began. -/
def energyDue (d : Dev) : Nat := if d.start.phase == .energyWait then d.start.waitT.toNat + 10000 * ms else d.t.toNat

/-- The bring-up watchdog expires (R442). -/
def bringupWatchdog (d : Dev) : Dev :=
  if d.gen.mode == .bringup && d.start.phase != .held && d.start.phase != .idle && d.start.phase != .done && !d.start.wdogPaused then
    startFail d 7 0
  else d

/-- 2 s after the attempt's start, the energy wait not counted; before TCK runs the free counter stands, and the time is not its. -/
def bringupDue (d : Dev) : Nat := if d.gen.mode == .bringup && d.start.phase != .done && d.tsc.running && !d.start.wdogPaused then d.start.wdogT.toNat + 2000 * ms else d.t.toNat

def execStartSuccessCount (s : State) : Host.Outcome State Fault Refusal := act s startSuccess

/-- The claim wait ends without TWFLOOR low. -/
def claimExpiry (d : Dev) : Dev :=
  if d.start.phase == .claimWait then
    if d.twn.floorLow then enterService d .standby else setPull (enterService d .active) true
  else d

/-- 2 ms on SIDE 0, 20 ms on SIDE 1. -/
def claimDue (d : Dev) : Nat :=
  if d.start.phase == .claimWait then d.start.waitT.toNat + (if twinSide d == 0 then 2 else 20) * ms else d.t.toNat

/-- TWFLOOR is low during the claim wait. -/
def floorInClaim (d : Dev) : Dev :=
  if d.start.phase == .claimWait then enterService (updTwn d fun t => { t with floorLow := true }) .standby else d

def execTwfloorLowInClaim (s : State) : Host.Outcome State Fault Refusal := act s floorInClaim

/-! ### KEY_NRD_SEL and the JTAG port -/

def nodeStCode : NodeState → Nat
  | .invalid => 0
  | .valid => 1
  | .orphan => 2

/-- A node's header as KEY_NRD shows it. -/
def nrdWord (d : Dev) (i : Nat) : Word :=
  let n := nodeOf d i
  w32 (nodeStCode n.st + n.usage * 2 ^ 2 + n.dest * 2 ^ 4 + b2n n.auto * 2 ^ 9 + n.parent * 2 ^ 10 + nodeDepth d i * 2 ^ 20 + n.gen * 2 ^ 24)

/-- A write of KEY_NRD_SEL (R58). -/
def nrdSel (d : Dev) (r : Requester) (val : Word) : Dev :=
  let w := val &&& 0x3FF#32
  holdFor (putSel d r KEY_NRD_SEL w) r KEY_NRD [nrdWord d w.toNat]

def execKeyNrdSelWrite (req : Requester) (val : Word) (s : State) : Host.Outcome State Fault Refusal :=
  act s fun d => withWrite d req KEY_NRD_SEL fun d => nrdSel d req val

/-- A JTAG instruction takes effect. -/
def execJtagInstructionUpdate (instr : JtagInstr) (s : State) : Host.Outcome State Fault Refusal :=
  act s fun d => if d.gen.mode == .off then d else { d with jtag := { d.jtag with instr := instr } }

/-- What the instruction does now: EXTEST and CLAMP drive the balls only in BRINGUP and FACTORY, and act as BYPASS elsewhere (R484). -/
def jtagActs (d : Dev) : JtagInstr :=
  match d.jtag.instr with
  | .extest => if d.gen.mode == .bringup || d.gen.mode == .factory then .extest else .bypass
  | .clamp => if d.gen.mode == .bringup || d.gen.mode == .factory then .clamp else .bypass
  | i => i

/-- IDCODE (R484). -/
def idcode : Word := w32 (1 * 2 ^ 28 + 0x8816 * 2 ^ 12 + Config.jepId.toNat * 2 + 1)

end Sys2Proof.Machine
end

