-- ==== Sys2Proof/Machine/Show.lean ====
section
/-! DEFINITION. What a read shows of the registers whose truth lies elsewhere in the state (the RO and status registers of every chapter), and the words a read latches (R58). -/
namespace Sys2Proof.Machine
open Sys2Proof

/-- Index of a key in an array of registers. -/
def arr (key base stride count : Nat) : Option Nat :=
  if base ≤ key && (key - base) % stride == 0 && (key - base) / stride < count then some ((key - base) / stride) else none

/-- Element and distance of a key inside an array of register sets. -/
def inSet (key base stride count : Nat) : Option (Nat × Nat) :=
  if base ≤ key && (key - base) / stride < count then some ((key - base) / stride, (key - base) % stride) else none

def word (l : List Word) (i : Nat) : Word := l.getD i 0

/-- LO and HI of a 64-bit value. -/
def words64 (n : Nat) : List Word := [w32 n, w32 (n / 2 ^ 32)]
def words64s (i : Int) : List Word := [loW i, hiW i]

/-- Bits l and above of a word made of flags. -/
def flagsAt (lo : Nat) (l : List Bool) : Nat := (l.zipIdx).foldl (fun a x => a + b2n x.1 * 2 ^ (lo + x.2)) 0

/-! ### GEN, RST, FLT, TAL, CHT -/

/-- GEN_VER_AGREE of a requester; the control cores work at the version of the charter's FIRMWARE (R68). -/
def verAgree (d : Dev) (r : Requester) : Word :=
  let q := reqOf d r
  match r with
  | .cores => w32 (((d.cht.cur.map (·.fabric.hifVer)).getD 0x0100) + b2n q.offered * 2 ^ 17)
  | _ => w32 (q.agreed.toNat + b2n q.verFail * 2 ^ 16 + b2n q.offered * 2 ^ 17)

def genShow (d : Dev) (r : Requester) (key : Nat) : Word :=
  if key == GEN_BELLCNT_LO then w32 d.bellCnt.toNat
  else if key == GEN_BELLCNT_HI then w32 (d.bellCnt.toNat / 2 ^ 32)
  else if key == GEN_VER_AGREE then verAgree d r
  else if key == GEN_VER_INFO then
    match d.cht.cur with
    | some c => w32 (c.fmt * 2 ^ 16 + 0x0100)
    | none => 0
  else if key == GEN_VER_RANGE then 0x01030100
  else if key == GEN_MODE then w32 (modeCode d.gen.mode + d.gen.prevMode * 16 + b2n (twinConfigured d) * 256)
  else if key == GEN_IDENT then 0x881600B1
  else rg d key

def rstShow (d : Dev) (key : Nat) : Word :=
  let b := (startSuccess d).backup
  if key == RST_LAST then w32 (b.lastSrc % 8 + b.lastTarget % 256 * 2 ^ 8 + b.lastChan % 256 * 2 ^ 16 + b2n b.lastForced * 2 ^ 31)
  else if key == RST_FORCED then w32 (b.rstForced % 65536)
  else if key == RST_ATTEMPT then
    w32 (b.attempt % 8 + limitOf d % 8 * 2 ^ 8 + b.lastFail % 256 * 2 ^ 16 + b.bells % 64 * 2 ^ 24 + b2n b.inAttempt * 2 ^ 31)
  else if key == FALLBACK_REASON then w32 (b.fallback % 256 + b.fallbackDetail % 256 * 256)
  else if key == RST_BROWN then w32 (b2n d.power.hold)
  else if key == RST_VCORE then w32 (min 1023 d.power.vcore)
  else if key == RST_FAILDOM then
    w32 ((d.start.domains.zipIdx).foldl (fun a x => a + b2n (x.1 == .failed) * 2 ^ x.2) 0)
  else match arr key RST_CNT 4 8, arr key RST_PINRST 4 8 with
    | some i, _ => w32 (b.rstCnt.getD i 0 % 65536)
    | _, some n => word (fuses d).pinrst n
    | _, _ => rg d key

def fltShow (d : Dev) (key : Nat) : Word :=
  let lost := sumN (d.flt.sources.map (·.lost))
  if key == FLT_LEVEL then w32 d.flt.log.length
  else if key == FLT_NEXTSEQ then d.flt.nextSeq
  else if key == FLT_LOST_LO then word (words48 lost) 0
  else if key == FLT_LOST_HI then word (words48 lost) 1
  else if key == FLT_LATCH then
    w32 ((List.range 32).foldl (fun a k => a + b2n (d.flt.chans.any (fun c => c.latched && c.code / 256 == k)) * 2 ^ k) 0)
  else rg d key

/-- A Tally count as its two words show it (Table 20.8). -/
def tallyWords (n : Nat) : List Word :=
  [w32 n, w32 (n / 2 ^ 32 % 2 ^ 16 + b2n (n == 2 ^ 48 - 1) * 2 ^ 31)]

def talShow (d : Dev) (key : Nat) : Word :=
  let snap := fun (c : Nat) => sparseGet (fun _ => 0) d.tal.snap c
  if key == TAL_SNAP_BELL_LO then w32 d.tal.snapBell.toNat
  else if key == TAL_SNAP_BELL_HI then w32 (d.tal.snapBell.toNat / 2 ^ 32)
  else match inSet key TAL_CNT_LO 8 384, inSet key TAL_SNAP_LO 8 384 with
    | some (c, o), _ => word (tallyWords (tallyGet d c)) (o / 4)
    | _, some (c, o) => word (tallyWords (snap c)) (o / 4)
    | _, _ => rg d key

def chtShow (d : Dev) (key : Nat) : Word :=
  let c := d.cht
  if key == CHT_ERR then w32 (c.errCode % 256 + c.errSection % 65536 * 2 ^ 16)
  else if key == CHT_ID_LO then w32 (inEffectId d)
  else if key == CHT_ID_HI then w32 (inEffectId d / 2 ^ 32)
  else if key == CHT_LOAD_CNT then w32 c.buf.length
  else if key == CHT_BOOT then w32 (b2n c.aOk * 2 + b2n c.bOk * 4)
  else if key == CHT_INFO then w32 (min 255 c.deltas + min 255 c.stops * 2 ^ 8 + inEffectSvn d * 2 ^ 16)
  else match arr key CHT_DIGEST 4 12 with
    | some n => w32 (beAt (inEffectDigest d) (4 * n) 4)
    | none => rg d key

/-! ### TSC, SCL -/

/-- The registers of a working scale, by their distance from its base. -/
def scaleShow (d : Dev) (b : Bool) (o : Nat) : Option Word :=
  let s := scaleOf d b
  let anc := s.anchor
  match o with
  | 0x00 => some (w32 (b2n s.setDone * 2))
  | 0x28 => some (w32 (incOf s.f))
  | 0x2C => some (w32 (incOf s.f / 2 ^ 32 % 2 ^ 24))
  | 0x30 => some (w32 (secOf s.v))
  | 0x34 => some (w32 (secOf s.v / 2 ^ 32))
  | 0x38 => some (w32 (nsOf s.v))
  | 0x3C => some (w32 (fracOf s.v / 2 ^ 16))
  | 0x40 => some (w32 d.t.toNat)
  | 0x44 => some (w32 (d.t.toNat / 2 ^ 32))
  | 0x48 => some (w32 s.sum.toNat)
  | 0x4C => some (w32 (s.sum.toNat / 2 ^ 32))
  | 0x50 => some s.lwp
  | 0x54 => some (loW (anc / (secUnit : Int)))
  | 0x58 => some (hiW (anc / (secUnit : Int)))
  | 0x5C => some (loW (anc % (secUnit : Int) / (nsUnit : Int)))
  | 0x60 => some (loW (anc % (nsUnit : Int) / 2 ^ 32))
  | _ => none

def tscShow (d : Dev) (key : Nat) : Word :=
  let t := d.tsc
  if key == TSC_OUTSEL then w32 (b2n t.cur * 256)
  else if key == TSC_AUDIT then w32 (b2n t.a.breach + b2n t.b.breach * 2 + b2n t.breachO * 4 + t.cause % 4 * 256)
  else if key == TSC_FREE_LO then w32 d.t.toNat
  else if key == TSC_FREE_HI then w32 (d.t.toNat / 2 ^ 32)
  else if key == TSC_AUD_SEC_LO then w32 (t.auditor / 1000000000)
  else if key == TSC_AUD_SEC_HI then w32 (t.auditor / 1000000000 / 2 ^ 32)
  else if key == TSC_AUD_NS then w32 (t.auditor % 1000000000)
  else if key == TSC_CKPT then rg d key &&& 0xFFFF0000#32 ||| w32 (b2n t.ckptValid * 128 + t.ckptLast % 32)
  else match inSet key SC_CTRL 0x100 2 with
    | some (i, o) => (scaleShow d (i == 1) o).getD (rg d key)
    | none => rg d key

/-- The components and their words in the order of Table 6.5. -/
def compWords (c : Bound) : List Word := (compList c).flatMap words64

def modelWords (m : Model) : List Word :=
  words64s m.y0 ++ words64s m.uy ++ words64s m.a ++ words64s m.ua ++ words64s m.c ++ words64s m.uc

/-- SS_HSTAT (R133). -/
def hstat (d : Dev) (b : Bool) : Nat :=
  let s := sclOf d b
  flagsAt 0 [s.ready, scaleServo d b == .holdover, oosOf s, voidOf s, almOf s, s.comp.snap != 0,
    boundMode d b == .freqOnly, s.oosL, s.oosT]

def sclShow (d : Dev) (key : Nat) : Word :=
  if key == SCL_COND then
    w32 (condBits d.sclA + condBits d.sclB * 2 ^ 8 + b2n (voidOf d.sclA) * 2 ^ 16 + b2n (voidOf d.sclB) * 2 ^ 17)
  else match inSet key SCL_STAMP_LO 8 6, inSet key SS_CTRL 0x100 2 with
    | some (p, o), _ => word (words64 (d.stamps.getD p 0)) (o / 4)
    | _, some (i, o) =>
      let b := i == 1
      let s := sclOf d b
      if o == 0x04 then w32 (hstat d b)
      else if o == 0x08 || o == 0x0C then word (words64 (totalShown s)) ((o - 8) / 4)
      else if 0x10 ≤ o && o < 0x48 then word (compWords (if s.blank then {} else s.comp)) ((o - 0x10) / 4)
      else if o == 0x54 then w32 (holdTimeOf d b)
      else if o == 0x68 then w32 (min 0xFFFFFFFF (s.learnTime / 1000000000))
      else if 0x70 ≤ o && o < 0xA0 then word (modelWords s.model) ((o - 0x70) / 4)
      else if o == 0xA0 then w32 (min 0xFFFFFFFF s.model.n)
      else if o == 0xA4 then loW s.model.t0
      else rg d key
    | _, _ => rg d key

/-! ### REF, STL, APL -/

/-- REFn_STAT (Table 7.8). -/
def refStat (d : Dev) (n : Nat) : Nat :=
  let m := refOf d n
  if n == 31 then 3
  else
    let st := if kindOf d n == 0 then 0 else if !m.present then 1 else if m.qualified then 3 else 2
    let remain := if m.qualified then 0 else if m.present then
        ceilDiv (qtimeOf d n * 1000000000 - (d.t.toNat - m.presentFrom.toNat)) 1000000000
      else qtimeOf d n
    st + m.lcause % 16 * 2 ^ 12 + min 4095 remain * 2 ^ 20

/-- SEL_STAT (R152, R155, R158, R165). -/
def selStat (d : Dev) (n : Nat) : Nat :=
  let s := { selOf d n with curV := (selOf d n).curV && tbusOf d n == 0 }
  let c := choice d n
  let pend := c.isSome && !(s.curV && c == some s.cur)
  flagsAt 0 [s.curV && carriage d s.cur == .freq, servoShown d n == .holdover,
      s.curV && s.disputes.any (fun x => x.i == s.cur || x.j == s.cur), s.disputes.any (fun x => !(s.curV && (x.i == s.cur || x.j == s.cur)))]
    + servoCode (servoShown d n) * 16 + (c.getD 0) * 2 ^ 16 + b2n pend * 2 ^ 21 + s.cur * 2 ^ 24 + b2n s.curV * 2 ^ 29

/-- SEL_PAIR: the first unresolved pair in ascending order (R153). -/
def selPair (d : Dev) (n : Nat) : Nat :=
  match (pairsOf (List.range 32)).find? (fun p => (selOf d n).disputes.any (fun x => x.i == p.1 && x.j == p.2)) with
  | some (i, j) => 2 ^ 31 + j * 2 ^ 8 + i
  | none => 0

def refShow (d : Dev) (key : Nat) : Word :=
  let mask := fun (f : Nat → Bool) => w32 ((List.range 32).foldl (fun a r => a + b2n (f r) * 2 ^ r) 0)
  if key == REF_QUAL then mask (qualifiedR d)
  else if key == REF_PRES then mask (presentR d)
  else match inSet key REF_CFG 0x40 32, inSet key SEL_CTRL 0x20 32 with
    | some (n, o), _ =>
      let m := refOf d n
      if o == 0x20 then w32 (refStat d n)
      else if o == 0x24 then w32 (min 0xFFFFFFFF (udOf d n))
      else if o == 0x28 || o == 0x2C then word (words64s m.phi) ((o - 0x28) / 4)
      else if o == 0x30 || o == 0x34 then word (words64s m.y) ((o - 0x30) / 4)
      else rg d key
    | _, some (n, o) =>
      if o == 0x04 then w32 (selStat d n)
      else if o == 0x08 then w32 (markWord d n)
      else if o == 0x10 then viewOf d n
      else if o == 0x14 then w32 (selPair d n)
      else rg d key
    | _, _ => rg d key

def stlShow (d : Dev) (key : Nat) : Word :=
  match inSet key baseStl 0x800 32 with
  | some (n, o) =>
    let s := stallOf d n
    if o == 0x10 then w32 (b2n (freqOnly d n) * 2 ^ 24)
    else if o == 0x28 || o == 0x2C then word (words64s s.e) ((o - 0x28) / 4)
    else if o == 0x30 || o == 0x34 then word (words64s (yOf d n)) ((o - 0x30) / 4)
    else if o == 0x38 || o == 0x3C then word (words64s s.hfreq) ((o - 0x38) / 4)
    else if o == 0x40 then w32 s.bwEff
    else if o == 0x44 then w32 s.fu
    else rg d key
  | none => rg d key

/-- APn_WORD: N_eff as its two words carry it (Table 8.6). -/
def apWords (d : Dev) (n : Nat) : List Word :=
  let v := nEff d n
  [w32 v, w32 (v / 2 ^ 32 % 2 ^ 28)]

def aplShow (d : Dev) (key : Nat) : Word :=
  match inSet key AP_CFG 0x100 4, inSet key OUT_CFG 0x20 24 with
  | some (n, o), _ =>
    if o == 0x18 then w32 (apStat d n)
    else if o == 0x1C || o == 0x20 then word (words64s (apllOf d n).prem) ((o - 0x1C) / 4)
    else if o == 0x24 || o == 0x28 then word (apWords d n) ((o - 0x24) / 4)
    else rg d key
  | _, some (n, o) =>
    if o == 0x0C then w32 (b2n (outOf d n).run + outCause d n * 2) else rg d key
  | _, _ => rg d key

/-! ### OUT, TDC, GNS -/

/-- The next instant of a pulse, 2⁻¹⁶ ns of its scale; none while it makes no pulses (Table 9.5). -/
def pulseNext (d : Dev) (n : Nat) : Option Int :=
  if !built d 4 n || !(pulseOf d n).run || pulseInvalid d n then none
  else match pulseRef d n with
    | none => some (ratFloor (pulseAt d n (pulseNextK d n) * 65536))
    | some _ =>
      let next := match pulseInDue d n with
        | some q => some q
        | none => (pulseInDue { d with pulses := upd d.pulses n (fun p => { p with
            inDone := none, inEdge := p.inEdge.bind (fun e => p.inPeriod.map (e + ·)) }) } n)
      next.map (fun q => (stampOf (scaleVal d (pulseScale d n)) : Int) + ratFloor q - (d.t.toNat * 65536 : Nat))

def outShow (d : Dev) (key : Nat) : Word :=
  match inSet key PL_CFG 0x40 8, inSet key GR_CFG 0x80 8, inSet key TR_CFG 0x80 16 with
  | some (n, o), _, _ =>
    let p := pulseOf d n
    let next := ((pulseNext d n).getD 0).toNat
    if o == 0x18 then w32 (flagsAt 0 [p.run, pulseFly d n, pulseInvalid d n, pulseWClamp d n, pulseOClamp d n])
    else if o == 0x20 || o == 0x24 then word (words64 (tSec next)) ((o - 0x20) / 4)
    else if o == 0x28 then w32 (tNs next)
    else rg d key
  | _, some (n, o), _ =>
    let g := gridOf d n
    let b := g.bnd.toNat
    if o == 0x10 || o == 0x14 then word (words64 g.cnt.toNat) ((o - 0x10) / 4)
    else if o == 0x18 || o == 0x1C then word (words64 (tSec b)) ((o - 0x18) / 4)
    else if o == 0x20 then w32 (tNs b)
    else if o == 0x24 then w32 (tFrac b)
    else if o == 0x28 || o == 0x2C then word (words64 g.per) ((o - 0x28) / 4)
    else if o == 0x30 then w32 (flagsAt 0 [g.run, g.fly, g.lost, gridInvalid d n])
    else rg d key
  | _, _, some (n, o) =>
    if o == 0x20 then w32 (b2n (trigOf d n).armed + (trigOf d n).fifo.length * 256) else rg d key
  | _, _, _ => rg d key

def tdcShow (d : Dev) (key : Nat) : Word :=
  let t := d.tdc
  if key == TDC_CALSTAT then
    if !t.tested then 0 else w32 (t.spare + t.next * 16 + b2n t.round * 256 + b2n t.stopped * 512 + t.retired * 2 ^ 16)
  else match inSet key TDC_CFG 0x10 8, inSet key TDC_TABLE 0x2000 9 with
    | some (n, o), _ =>
      if o == 0x08 then w32 (calAge d n) else if o == 0x0C then (if t.tested then w32 (t.intp.getD n 15) else 0) else rg d key
    | _, some (i, o) => w32 (tableBin (tdcTable d i) (o / 4))
    | _, _ => rg d key

def solStCode : SolState → Nat
  | .disabled => 0
  | .noFix => 1
  | .survey => 2
  | .hold => 3
  | .withdrawn => 4

def chStCode : ChState → Nat
  | .idle => 0
  | .search => 1
  | .pullIn => 2
  | .track => 3
  | .lost => 4

/-- An engaged notch is near some enabled signal of its band (R263). -/
def notchNearAny (d : Dev) (b n : Nat) : Bool :=
  (List.range 8).any (fun s => sigEnabled d s
    && (if s == 7 then (List.range 14).any (fun k => notchNear d b n s ((k : Int) - 7)) else notchNear d b n s 0))

def gnsShow (d : Dev) (key : Nat) : Word :=
  let g := d.gns
  let jn := fun (b : Nat) => g.jn.getD b (0, 0)
  if key == GN_JN then w32 (min 1023 (jn 0).1 + min 1023 (jn 1).1 * 2 ^ 16)
  else if key == GN_SOLSTAT then
    w32 ((List.range 4).foldl (fun a k => a + (solStCode (solOf d k).st + b2n (solOf d k).valid * 8) * 256 ^ k) 0)
  else if key == GN_SIGSTAT then w32 (untracked d)
  else if key == GN_LEAP then
    w32 ((BitVec.ofInt 16 g.leap).toNat + g.leapSrc % 4 * 2 ^ 29 + b2n (g.leapSrc != 0) * 2 ^ 31)
  else if key == GN_FSSTAT then
    w32 ((List.range 4).foldl (fun a s => a + b2n (fsExcluded d s) * 2 ^ s) 0 + g.fsChecks % 32 * 256)
  else if key == GN_WEEKBASE then w32 d.gnsStore.weekBase
  else match inSet key CH_CFG 0x40 160, inSet key SOL_CFG0 0x100 4, inSet key NT_CFG 0x10 8, inSet key SLOT_CFG 0x10 8 with
    | some (c, o), _, _, _ =>
      let h := chanOf d c
      if o == 0x04 then
        w32 (chStCode h.st + b2n h.inSol * 8 + b2n h.excl * 16 + b2n (fsExcluded d (sigSys h.sig)) * 32
          + h.sig % 8 * 2 ^ 8 + h.sv % 64 * 2 ^ 16 + min 255 (h.cn0 / 10) * 2 ^ 24)
      else if o == 0x08 then loW h.doppler
      else rg d key
    | _, some (k, o), _, _ =>
      let s := solOf d k
      if o == 0x04 then
        w32 (solStCode s.st + b2n s.valid * 8 + s.nsv % 256 * 2 ^ 8 + s.nexcl % 256 * 2 ^ 16 + s.sflags % 256 * 2 ^ 24)
      else if o == 0x08 || o == 0x0C then word (words64s s.delta) ((o - 8) / 4)
      else if o == 0x10 || o == 0x14 then word (words64s s.rate) ((o - 0x10) / 4)
      else if o == 0x18 then w32 (min 0xFFFFFFFF s.unc)
      else if o == 0x1C then w32 (min 0xFFFFFFFF s.pathUnc)
      else if o == 0x20 then w32 s.wcause
      else if o == 0 && 2 ≤ k then resetWord key
      else rg d key
    | _, _, some (i, o), _ =>
      let b := i / 4
      let n := i % 4
      if o == 0x08 then
        w32 (b2n (notchAt d b n).isSome + b2n (notchNearAny d b n) * 2 + ((notchAt d b n).getD 0 / 1000 % 2 ^ 24).toNat * 2 ^ 8)
      else rg d key
    | _, _, _, some (s, o) =>
      if o == 0x04 then w32 (min 65535 (g.detections.getD s 0) + g.slotSv.getD s 0 % 64 * 2 ^ 16) else rg d key
    | _, _, _, _ =>
      match arr key (GN_BAND_CFG + 0x1C) 0x20 2 with
      | some b => w32 (min 1023 (jn b).1 + min 1023 (jn b).2 * 2 ^ 16 + b2n (jnLearned d b) * 2 ^ 30 + b2n (g.jnStale.getD b false) * 2 ^ 31)
      | none => rg d key

/-! ### MAC, TOL, PTP -/

/-- The longest count of retries in its window over the sources of a port (MAC_FLT). -/
def portRetries (d : Dev) (p : Nat) : Nat :=
  maxN ((d.flt.chans.filter (fun c => c.code / 256 == 13 && c.chan == p)).map (fun c => (retriesIn d c).length))

/-- Lane mask and speed of a port's LANES link (Table 4.7). -/
def portLanes (d : Dev) (p : Nat) : Nat × Nat :=
  match linkOf d 7 p 7 with
  | some l => (l.arg % 16, l.value.toNat % 8)
  | none => (0, 0)

def macShow (d : Dev) (key : Nat) : Word :=
  match inSet key baseMac 0x10000 6 with
  | none => rg d key
  | some (p, o) =>
    let x := portOf d p
    if o == 0x10 then
      let (m, s) := portLanes d p
      w32 (m * 2 ^ 16 + s * 2 ^ 8)
    else if o == 0x38 then
      w32 ((heldClasses d p).foldl (fun a c => a + 2 ^ c) 0
        + (List.range 8).foldl (fun a c => a + b2n (x.xoff.testBit c) * 2 ^ (8 + c)) 0)
    else if o == 0x3C then w32 (b2n (presentR d (10 + p)) * 256)
    else if o == 0x5C then w32 (b2n x.oper.gen + x.oper.len * 2 ^ 16)
    else if o == 0x60 then w32 ((gateNow d p).1 + (gateNow d p).2.2 * 2 ^ 16)
    else if o == 0x64 then w32 x.launchQ.length
    else if o == 0x68 then w32 (min 15 (portRetries d p) + x.fltCause * 256 + b2n (x.st == .retired || x.fltPerm) * 2 ^ 16)
    else if o == 0x6C then w32 ((portOf d (lanA d p)).prpSeq % 65536 * 2 ^ 16)
    else if 0x2000 ≤ o && o < 0x3000 then
      let e := x.oper.entries.getD ((o - 0x2000) / 8) (0, 0)
      if o % 8 == 0 then w32 e.1 else w32 e.2
    else rg d key

/-- The words of a list of 48-bit counters. -/
def counts48 (l : List Nat) : List Word := l.flatMap words48

def tolShow (d : Dev) (key : Nat) : Word :=
  if key == TOL_EPOCH then d.tol.e
  else if key == TOL_EPOCHAGE then d.tol.age
  else if key == TOL_CACHE then
    w32 (flagsAt 0 ((List.range 4).map (fun j => (d.tol.cache.getD j none).isSome))
      + b2n d.tol.ready * 256 + b2n ((tolRoot d).isSome && !(workOf d 0).orph) * 512)
  else match inSet key TOL_CNT 0x40 2 with
    | some (c, o) =>
      let l := d.tol.outc.getD c []
      word (counts48 [l.getD 0 0, l.getD 1 0, l.getD 2 0, l.getD 3 0, l.getD 4 0, l.getD 6 0]) (o / 4)
    | none => rg d key

/-- Words of a stored calibration record that PT_PCAL.PEND compares (R298). -/
def calPend (d : Dev) (p : Nat) : Bool :=
  let adm := ((sext 32 (rg d (calKey PT_TXDLY p)).toNat), (sext 32 (rg d (calKey PT_RXDLY p)).toNat), (rg d (calKey PT_CALUNC p)).toNat)
  (calOf (nvRead d (0xC000 + 16 * p) 16)).getD (0, 0, 0) != adm

def ptpShow (d : Dev) (key : Nat) : Word :=
  if key == PT_GRANTS then w32 d.ptp.grants.length
  else if key == PT_CALCMD then w32 (b2n d.ptp.storing.isSome * 2 ^ 16)
  else match inSet key PT_OUTC 0x40 4, inSet key PT_PCAL 0x40 6, inSet key PT_DOM 0x40 16, inSet key PT_TCFG 0x40 8 with
    | some (c, o), _, _, _ =>
      let l := d.ptp.outc.getD c []
      word (counts48 [l.getD 0 0, l.getD 1 0, l.getD 2 0, l.getD 3 0, l.getD 5 0]) (o / 4)
    | _, some (p, o), _, _ =>
      if o == 0 then w32 (b2n (portCal d p).valid + b2n (calPend d p) * 2)
      else if o == 0x10 then w32 (uCal d p)
      else rg d key
    | _, _, some (e, o), _ =>
      let x := domEntry d e
      if o == 0 then
        w32 (x.domain % 256 + x.port * 2 ^ 8 + x.profile * 2 ^ 12 + x.role * 2 ^ 16 + x.scale * 2 ^ 20
          + x.portState * 2 ^ 24 + b2n x.built * 2 ^ 31)
      else if o == 0x10 then x.stat
      else rg d key
    | _, _, _, some (m, o) =>
      let s := trackSlot d m
      if o == 0x1C then
        w32 (b2n s.valid + s.invCause * 2 + s.clockClass * 2 ^ 8 + s.clockAcc * 2 ^ 16 + min 255 s.steps * 2 ^ 24)
      else if o == 0x20 || o == 0x24 then word (words64s s.mpd) ((o - 0x20) / 4)
      else if o == 0x28 || o == 0x2C then word (words64s s.ofs) ((o - 0x28) / 4)
      else rg d key
    | _, _, _, _ => rg d key

/-! ### QMG, KEY, AUD, TWN, HAL, BKD -/

/-- The registers that name a receive ring for records, with the code BIND gives each (Table 15.13). -/
def rxConsumers (d : Dev) (q : Nat) : List Nat :=
  let names := fun (key en hi lo : Nat) => rgb d key en && rgf d key hi lo == q
  let ports := (List.range 6).any (fun p => (List.range 8).any (fun tc => (ringLink d p tc).any (·.1 == q)))
  (if ports then [1] else [])
    ++ (if names TSC_LRING 31 5 0 then [2] else [])
    ++ (if (rgb d SCL_XCTRL 31 || rgb d SCL_XCTRL 30) && rgf d SCL_XCTRL 5 0 == q then [3] else [])
    ++ (if names OUT_CAPRING 31 5 0 then [4] else [])
    ++ (if names TDC_RING 31 5 0 then [5] else [])
    ++ (if names GN_RINGS 31 5 0 then [6] else [])
    ++ (if names GN_RINGS 30 13 8 then [7] else [])
    ++ (if names TOL_MINT 31 5 0 then [9] else [])
    ++ (if names PT_EVRING 31 5 0 then [10] else [])
    ++ (if names TAL_RING 31 5 0 then [11] else [])

def bindCode (d : Dev) (rx : Bool) (q : Nat) : Nat :=
  if rx then
    match rxConsumers d q with
    | [] => 0
    | [c] => c
    | _ => 0xFFFF
  else if (linkedTo d q).isSome then 1
  else if aidRing d == some q then 8
  else if mintRing d == some q then 9
  else 0

def qmgShow (d : Dev) (key : Nat) : Word :=
  if key == QMG_CELLS then w32 (freeCells d)
  else if key == QMG_LOADBUF then w32 (loadCells d)
  else match inSet key QMG_CCNT 4 6, arr key QMG_ISTAT 4 8, ringOf key with
    | some (i, _), _, _ => word (counts48 [d.qmg.granted, d.qmg.consumed, d.qmg.held]) i
    | _, some w, _ => w32 ((List.range 32).foldl (fun a j => a + b2n (srcIsPending d (32 * w + j)) * 2 ^ j) 0)
    | _, _, some (rx, q) =>
      let r := ringAt d rx q
      let o := key % 0x40
      if o == 0x18 then w32 (r.tail % 65536 + r.head % 65536 * 2 ^ 16)
      else if o == 0x1C then
        w32 (b2n (ringOn d rx q && !r.stop) + b2n r.stop * 2 + b2n r.armed * 16 + bindCode d rx q * 2 ^ 16)
      else if 0x20 ≤ o && o < 0x38 then word (counts48 [r.issued, r.completed, r.inflight]) ((o - 0x20) / 4)
      else rg d key
    | _, _, _ => rg d key

def keyShow (d : Dev) (key : Nat) : Word :=
  let k := d.key
  let nodes := fun (st : NodeState) => (k.nodes.filter (·.st == st)).length
  if key == KEY_RES then (rg d key &&& 0xFF#32) ||| w32 (b2n k.busy.isSome * 2 ^ 31)
  else if key == KEY_HOLD then w32 (min 65535 k.e + b2n k.eValid * 2 ^ 31)
  else if key == KEY_HOLDV then w32 (min 65535 k.v + min 65535 k.cMeas * 2 ^ 16)
  else if key == KEY_HOLDCFG then w32 ((fuses d).holdcap % 65536 + (fuses d).hratio % 256 * 2 ^ 16)
  else if key == KEY_ZCOUNT then w32 (min 65535 k.zcount + k.rootGen % 65536 * 2 ^ 16)
  else if key == KEY_ID then w32 (b2n k.idOk)
  else if key == KEY_TREE then w32 (nodes .valid + nodes .orphan * 2 ^ 16)
  else match arr key KEY_WK 4 5 with
    | some e =>
      let w := workOf d e
      w32 (w.node.getD 0 + b2n w.orph * 2 ^ 30 + b2n w.node.isSome * 2 ^ 31)
    | none => rg d key

def audStCode : AudState → Nat
  | .stopped => 0
  | .following => 1
  | .bridging => 2
  | .internal => 3
  | .returning => 4

def audShow (d : Dev) (key : Nat) : Word :=
  let rate := fun (n : Nat) => n % 2 ^ 28 * 16
  if key == AUD_CSTAT then
    let m := if d.aud.st == .bridging || d.aud.st == .returning then d.aud.lastRate
      else match followedClk d.aud.src with
        | some c => rateMHz (audClock d c)
        | none => 0
    w32 (audStCode d.aud.st + rate m)
  else if key == WCK_STAT then w32 (b2n (audClock d 0).present + rate (rateMHz (audClock d 0)))
  else match arr key AIN_STAT 0x40 4, arr key AOUT_STAT 0x40 4 with
    | some n, _ =>
      let c := audClock d (n + 1)
      w32 (b2n c.present + b2n (!c.present) * 2 + b2n c.pro * 4 + rate (rateMHz c))
    | _, some n =>
      let o := audOut d n
      w32 (flagsAt 0 [o.run, o.ramp != 0, o.silent || (o.content.1 == 2 && !loopLocked d n), o.low])
    | _, _ => rg d key

/-- Seen within the last millisecond. -/
def seenIn (d : Dev) (t : Option Tick) : Bool := t.any (fun x => d.t.toNat ≤ x.toNat + ms)

def twnShow (d : Dev) (key : Nat) : Word :=
  let t := d.twn
  let snap := (t.snap.map (·.bell.toNat)).getD 0
  if key == TWN_VAGREE then w32 (t.agreed + b2n t.vFail * 2 ^ 16)
  else if key == TWN_DRILL_AGE then w32 (min 0xFFFFFFFF t.drillAge)
  else if key == TWN_THETA_LO then loW t.theta
  else if key == TWN_THETA_HI then hiW t.theta
  else if key == TWN_RTT then loW t.rtt
  else if key == TWN_RTW then w32 (min 0xFFFFFFFF t.rtw)
  else if key == TWN_SNAP_LO then w32 snap
  else if key == TWN_SNAP_HI then w32 (snap / 2 ^ 32)
  else if key == TWN_SNAPSTAT then w32 (t.snapLen % 2 ^ 22 + b2n t.behind * 2 ^ 31)
  else if key == TWN_HB then w32 (min 63 t.missed + b2n (seenIn d t.aliveT) * 256 + b2n (seenIn d t.timingT) * 512)
  else if key == TWN_CAUSE then w32 (t.causeTx + t.causeRx * 2 ^ 8 + t.takeover * 2 ^ 16)
  else rg d key

def halShow (d : Dev) (key : Nat) : Word :=
  if key == HAL_OUT then w32 (sumN d.hal.outstanding)
  else match inSet key HAL_M_CFG 0x10 12 with
    | some (m, o) =>
      let i := d.hal.issued.getD m 0
      let r := d.hal.returned.getD m 0
      if o == 4 then w32 i
      else if o == 8 then w32 (i / 2 ^ 32 % 65536 + r / 2 ^ 32 % 65536 * 2 ^ 16)
      else if o == 0xC then w32 r
      else rg d key
    | none => rg d key

/-- A word of the NV store, low byte first. What the GNSS part holds at 0x0001_0000–0x0001_FFFF has no layout in the spec, and reads as a free value (log 2). -/
def bkdShow (d : Dev) (key : Nat) : Word :=
  let a := key % 2 ^ 28
  if 0x10000 ≤ a && a < 0x20000 then w32 (Config.free (d.freeIdx + a)) else w32 (leNat (nvRead d a 4))

/-- What the RO bits of a register show. -/
def roShow (d : Dev) (r : Requester) (key : Nat) : Word :=
  match keySlot key with
  | 0 => genShow d r key
  | 1 => rstShow d key
  | 2 => fltShow d key
  | 3 => talShow d key
  | 4 => chtShow d key
  | 5 => tscShow d key
  | 6 => sclShow d key
  | 7 => refShow d key
  | 8 => stlShow d key
  | 9 => aplShow d key
  | 10 => outShow d key
  | 11 => tdcShow d key
  | 12 => gnsShow d key
  | 13 => macShow d key
  | 14 => tolShow d key
  | 15 => ptpShow d key
  | 16 => qmgShow d key
  | 17 => keyShow d key
  | 18 => audShow d key
  | 19 => twnShow d key
  | 20 => halShow d key
  | 21 => bkdShow d key
  | _ => 0

/-! ### Words a read latches (R58) -/

/-- A register whose read latches others: where it lies, as an array, and the distances of the words it latches. -/
structure LatchRow where
  base : Nat
  dims : List (Nat × Nat)
  ofs  : List Nat
  deriving DecidableEq, Repr

/-- Distances 4, 8, … of n words. -/
def next4 (n : Nat) : List Nat := (List.range n).map (fun i => 4 * (i + 1))

def latchRows : List LatchRow := [
  ⟨GEN_BELLCNT_LO, [], [4]⟩, ⟨CHT_ID_LO, [], [4]⟩, ⟨TSC_FREE_LO, [], [4]⟩, ⟨TSC_AUD_SEC_LO, [], next4 2⟩,
  ⟨SC_NOW_SEC_LO, [(0x100, 2)], next4 5⟩, ⟨SC_SUM_LO, [(0x100, 2)], [4]⟩, ⟨SC_ANC_SEC_LO, [(0x100, 2)], next4 3⟩,
  ⟨SCL_STAMP_LO, [(8, 6)], [4]⟩, ⟨SS_TOTAL_LO, [(0x100, 2)], next4 15⟩, ⟨SS_MODEL, [(0x100, 2)], next4 11⟩,
  ⟨REF_PHASE_LO, [(0x40, 32)], next4 3⟩, ⟨SL_E_LO, [(0x800, 32)], next4 5⟩, ⟨AP_PREM_LO, [(0x100, 4)], [4]⟩,
  ⟨AP_WORD_LO, [(0x100, 4)], [4]⟩, ⟨FLT_LOST_LO, [], [4]⟩, ⟨TAL_CNT_LO, [(8, 384)], [4]⟩, ⟨TAL_SNAP_LO, [(8, 384)], [4]⟩,
  ⟨PL_NEXT_SEC_LO, [(0x40, 8)], next4 2⟩, ⟨GR_CNT_LO, [(0x80, 8)], next4 7⟩, ⟨SOL_DELTA_LO, [(0x100, 4)], next4 5⟩,
  ⟨PT_OUTC, [(0x40, 4)], next4 9⟩, ⟨PT_TMPD_LO, [(0x40, 8)], next4 3⟩, ⟨TOL_CNT, [(0x40, 2)], next4 11⟩,
  ⟨QMG_CCNT, [], next4 5⟩, ⟨QR_CNT, [(0x1000, 2), (0x40, 64)], next4 5⟩, ⟨HAL_M_ISSUED_LO, [(0x10, 12)], next4 2⟩,
  ⟨TWN_THETA_LO, [], next4 3⟩]

/-- The words a read of a register latches. -/
def latchesOf (key : Nat) : List Nat :=
  match latchRows.find? (fun l => l.base ≤ key && dimsHit l.dims (key - l.base)) with
  | some l => l.ofs.map (key + ·)
  | none => []

/-- Words that a read of another register latches, or that a pop or a copy fills: every requester has its own. -/
def isHeldWord (key : Nat) : Bool :=
  latchRows.any (fun l => l.ofs.any (fun o => l.base + o ≤ key && dimsHit l.dims (key - l.base - o)))
    || (arr key (FLT_ENT + 4) 4 7).isSome || (arr key (TDC_RES + 4) 4 7).isSome || (arr key FLT_SRC_DATA 4 9).isSome
    || (arr key TSC_LRD_DATA 4 8).isSome || (arr key PT_GRD_DATA 4 16).isSome || key == KEY_NRD
    || (match inSet key TR_CAP 0x80 16 with
        | some (_, o) => 4 ≤ o && o ≤ 0x1C
        | none => false)

/-- The selection registers of R58. -/
def isSelReg (key : Nat) : Bool := key == FLT_SRC_SEL || key == TSC_LRD_SEL || key == PT_GRD_SEL || key == KEY_NRD_SEL

end Sys2Proof.Machine
end

