-- ==== Sys2Proof/Machine/Effect.lean ====
section
/-! DEFINITION. What follows when a class S word takes effect, at its Bell or at once while EN = 0 (R34, R38): the rules of the chapters that speak of a change of a field. -/
namespace Sys2Proof.Machine
open Sys2Proof

/-- Bits hi..lo of a word differ between the words in effect before and now. -/
def changed (old d : Dev) (k hi lo : Nat) : Bool := eff old k hi lo != eff d k hi lo

/-- TAL_CMD.CLEAR, or a change of a counter's words, restarts the counters concerned (R465). -/
def talEffect (old d : Dev) (k : Nat) : Dev :=
  if k == TAL_CMD then (if efb d k 0 then { d with tal := { d.tal with live := [] } } else d)
  else if ef old k == ef d k then d
  else match inSet k TAL_CFG 16 384 with
    | some (c, _) => tallyPut d c 0
    | none => d

/-- Words of a monitor: a change of KIND, FNUM or FDEN disqualifies with cause 5; a reference present for a new, shorter QTIME qualifies (R149). -/
def refEffect (old d : Dev) (k : Nat) : Dev :=
  match inSet k REF_CFG 0x40 31 with
  | some (r, o) =>
    if (o == 0 && changed old d k 3 0) || ((o == 4 || o == 8) && ef old k != ef d k) then refLoss d r 5
    else if o == 0 && (refOf d r).present && (refOf d r).presentFrom.toNat + qtimeOf d r * 1000000000 ≤ d.t.toNat then refQualify d r
    else d
  | none => d

/-- Words of OUT: a pulse's train starts anew (R200), a video grid's lines are numbered anew (R203). -/
def outEffect (old d : Dev) (k : Nat) : Dev :=
  if ef old k == ef d k then d
  else match inSet k PL_CFG 0x40 8, inSet k GR_CFG 0x80 8 with
    | some (n, _), _ => if d.tsc.running && enOf d baseOut then pulseChanged d n else pulseRestart (pulseChanged d n) n
    | _, some (g, _) => gridRetime old d g
    | _, _ => d

/-- Words of the Crier: a tracking slot taken into or out of use, or given another entry or master, starts again (R315). -/
def ptpEffect (old d : Dev) (k : Nat) : Dev :=
  if ef old k == ef d k then d
  else match inSet k PT_TCFG 0x40 8 with
    | some (m, o) =>
      if o == 0 || (4 ≤ o && o ≤ 0x10) then
        let d1 := dropSlot d m
        if efb d1 (slotKey PT_TCFG m) 31 then requestGrants d1 m else d1
      else d
    | none => d

/-- The word at a key has taken effect; `old` is the state before the boundary. -/
def effectKey (old d : Dev) (k : Nat) : Dev :=
  match keySlot k with
  | 3 => talEffect old d k
  | 6 =>
    if ef old k == ef d k then d
    else if k == ssKey SS_CTRL false then updScl d false forgetModel
    else if k == ssKey SS_CTRL true then updScl d true forgetModel
    else d
  | 7 => refEffect old d k
  | 8 => if k % 0x800 == SL_LOOP % 0x800 && changed old d k 21 16 then clampInteg d ((k - baseStl) / 0x800) else d
  | 10 => outEffect old d k
  | 12 => if k == GN_POS_Z_HI then posWritten d else d
  | 13 => if k % 0x10000 == 0x58 then commitTaken d ((k - baseMac) / 0x10000) else d
  | 15 => ptpEffect old d k
  | _ => d

def effectKeys (old d : Dev) (ks : List Nat) : Dev := ks.foldl (fun d k => effectKey old d k) d

/-- References whose condition the state itself holds follow it (Table 7.3). -/
def sourcesFollow (d : Dev) : Dev :=
  (List.range 31).foldl (fun d r =>
    let k := kindOf d r
    if k < 5 then d
    else if (refOf d r).present then
      if sourceValid d r && (k != 6 || accAcceptable d r) then d
      else refLoss d r (if k == 5 then 1 else if k == 6 && sourceValid d r then 6 else 3)
    else if sourceValid d r then refPresent d r
    else d) d

end Sys2Proof.Machine
end

