-- ==== Sys2Proof/Machine/Bus.lean ====
section
/-! DEFINITION. Register reads and writes, the bit-alias region, the indirect windows, BAR2, MSPI and the version offer (R5, R8, R9, R53 to R68, R346 to R352; rows REGISTER_WRITE to GEN_VER_OFFER_WRITE, MSPI_READ to MSPI_STATUS). -/
namespace Sys2Proof.Machine
open Sys2Proof

/-! ### What a read shows -/

def indBase (slot : Nat) : Nat := slotBase slot + 0x40

/-- A requester's IND_ADDR and IND_STAT of a slot. -/
def indAddrOf (d : Dev) (r : Requester) (slot : Nat) : Word := sparseGet (fun _ => 0) (reqOf d r).indAddr slot
def indStatOf (d : Dev) (r : Requester) (slot : Nat) : Word := sparseGet (fun _ => 0) (reqOf d r).indStat slot

def putIndAddr (d : Dev) (r : Requester) (slot : Nat) (w : Word) : Dev :=
  setReqState d r { reqOf d r with indAddr := sparseSet (fun _ => (0 : Word)) (reqOf d r).indAddr slot w }
def putIndStat (d : Dev) (r : Requester) (slot : Nat) (w : Word) : Dev :=
  setReqState d r { reqOf d r with indStat := sparseSet (fun _ => (0 : Word)) (reqOf d r).indStat slot w }

/-- BLK_ID (R55). -/
def blkId (slot win : Nat) : Word :=
  let chan := if slot == 8 then (win - baseStl) / 0x800 else if slot == 13 then (win - baseMac) / 0x10000 else 0
  w32 (chan * 2 ^ 24 + 2 ^ 16 + slotBase slot / 2 ^ 16)

/-- The registers of every window's header and indirect window (R55, R62). -/
def headerRead (d : Dev) (r : Requester) (slot win rel : Nat) : Option Word :=
  if rel == 0 then some (blkId slot win)
  else if rel == 4 || rel == 0xC then some (rg d (win + rel))
  else if rel == 8 then some (statWord d slot win)
  else if hasInd slot && rel == 0x40 then some (indAddrOf d r slot)
  else if hasInd slot && rel == 0x48 then some (indStatOf d r slot)
  else none

/-- A register that pops a record (R58). -/
def isPop (key : Nat) : Bool := key == FLT_ENT || key == TDC_RES || (arr key TR_CAP 0x80 16).isSome

/-- MAC_PCS: AN reads 0 but for codes 5 and 6; FEC reads 1 for codes 1 and 2, and 0 for codes 4 to 6. -/
def pcsRead (d : Dev) (r : Requester) (p key : Nat) : Word :=
  let s := (portLanes d p).2
  let an := if s == 5 || s == 6 then rgf d key 5 5 else 0
  let fec := if s == 1 || s == 2 then 1 else if 4 ≤ s && s ≤ 6 then 0 else rgf d key 4 4
  (roShow d r key &&& 0x000F0700#32) ||| w32 (an * 32 + fec * 16)

/-- A word written to MAC_PCS with each of AN and FEC that carries what the register shows replaced by what it holds: such a write changes nothing (R9). -/
def heldBits (d : Dev) (r : Requester) (p key : Nat) (val : Word) : Word :=
  let keep := fun (v : Word) (b : Nat) => if bit v b == bit (pcsRead d r p key) b then putBit v b (bit (rg d key) b) else v
  keep (keep val 4) 5

/-- Registers of Host and Warden that no general rule shows. -/
def specialRead (d : Dev) (r : Requester) (key : Nat) : Option Word :=
  if isHeldWord key || isPop key then some (heldWord (reqOf d r) key)
  else if isSelReg key then some (sparseGet (fun _ => 0) (reqOf d r).sel key)
  else if key == GEN_VER_OFFER then some (reqOf d r).verOffer
  else if key == KEY_TAMPER then some d.key.tamper
  else if key == KEY_TCFG then some d.key.tcfg
  else if key == GN_LEAP then some (gnsShow d key)
  else if key == RST_VCORE then
    some (w32 (min 1023 d.power.vcore + 2 ^ 16 * (if rgf d key 25 16 == 0 then min 1023 d.power.vcore else rgf d key 25 16)))
  else match arr key QMG_IMAP 4 256, arr key MAC_PCS 0x10000 6 with
    | some s, _ =>
      let w := if (fuses d).wardenPcie then rg d key else rg d key &&& 0xDFFFFFFF#32
      some (if s == 150 then w &&& 0x5FFFFFFF#32 else w)
    | _, some p => some (pcsRead d r p key)
    | _, _ => none

/-- The word a read of a key shows, by the class of each field (Table 0.5). -/
def readWord (d : Dev) (r : Requester) (key : Nat) (fs : List Field) : Word :=
  let head := if key < 2 ^ 28 then headerRead d r ((slotOf key).getD 24) (windowOf key) (key - windowOf key) else none
  match head, specialRead d r key with
  | some w, _ => w
  | _, some w => w
  | _, _ => (roShow d r key &&& clsMask fs (· == .ro)) ||| (rg d key &&& clsMask fs (fun c => c != .ro && c != .wo))

/-- Clear the RC bits among `m`, where they live (R56). A clear of any bit of RST_VCORE 25:16, by an alias read too, is the restart of the field that Table 19.10 has (DESIGN CHOICE, log 43). -/
def clearRc (d : Dev) (r : Requester) (key : Nat) (m : Word) : Dev :=
  if m == 0 then d
  else if key == KEY_TAMPER then { d with key := { d.key with tamper := d.key.tamper &&& ~~~ m } }
  else if key == RST_VCORE then putField d key 25 16 (min 1023 d.power.vcore)
  else if key < 2 ^ 28 && hasInd ((slotOf key).getD 24) && key == indBase ((slotOf key).getD 24) + 8 then
    putIndStat d r ((slotOf key).getD 24) (indStatOf d r ((slotOf key).getD 24) &&& ~~~ m)
  else setReg d key (rg d key &&& ~~~ m)

/-- The words a LO read latches for the reading requester (R58). -/
def latchWords (d : Dev) (r : Requester) (key : Nat) : Dev :=
  (latchesOf key).foldl (fun d' k =>
    setReqState d' r (holdWord (reqOf d' r) k (roShow d r k &&& clsMask ((fieldsAt k).getD []) (· == .ro)))) d

/-- A read that has reached the register at a key: it answers, clears what it returned of RC bits, and latches or pops (R56, R58). -/
def keyRead (d : Dev) (r : Requester) (key : Nat) (fs : List Field) : Dev :=
  if key == FLT_ENT then fltPop d r
  else if key == TDC_RES then tdcPop d r
  else match arr key TR_CAP 0x80 16 with
    | some n => capPop d r n
    | none =>
      let w := readWord d r key fs
      let d1 := latchWords d r key
      answer (clearRc d1 r key (w &&& clsMask fs (· == .rc))) [w]

/-! ### Writes with effects of their own -/

/-- KEY_CMD by its CMD field; other values are refused with code 9 (R374). -/
def keyCmdWrite (d : Dev) (val : Word) : Dev :=
  let node := bits val 25 16
  let engine := bits val 6 4
  match bits val 3 0 with
  | 1 => keyCommand d 1 keyCommitDo
  | 2 => keyCommand d 2 (fun d => keyInvalidateDo d node)
  | 3 => keyCommand d 3 (fun d => keyLoadDo d engine node)
  | 4 => keyCommand d 4 (fun d => keyUnloadDo d engine)
  | 5 => keyCommand d 5 keySealDo
  | 6 => keyCommand d 6 keyFwmacDo
  | 7 => keyCommand d 7 (fun d => keyRes (tamper d 8) 7 0)
  | c => keyCommand d c (fun d => keyRes d c 9)

/-- A version offer (R68): the control cores' negotiates nothing. -/
def verOffer (d : Dev) (r : Requester) (val : Word) : Dev :=
  let q := { reqOf d r with verOffer := val, offered := true }
  let lo := max (bits val 15 0) 0x0100
  let hi := min (bits val 31 16) 0x0103
  match r with
  | .cores => setReqState d r q
  | _ => setReqState d r (if lo ≤ hi then { q with agreed := w32 hi, verFail := false } else { q with verFail := true })

/-- CTRL of a window: EN stands in TSC, SCL and KEY once it is set (R119), in a stall or port that the charter does not build (R69), and while the block or channel is held in reset (R459); clearing TDC's ends its measurement (Table 10.2). -/
def ctrlWrite (d : Dev) (slot win : Nat) (val : Word) (acc : Option Access) : Dev :=
  let old := enOf d win
  let chan := if slot == 8 then (win - baseStl) / 0x800 else if slot == 13 then (win - baseMac) / 0x10000 else 0
  let unbuilt := !old && ((slot == 8 && !built d 1 chan) || (slot == 13 && !built d 7 chan))
  let stands := (old && (slot == 5 || slot == 6 || slot == 17)) || heldInReset d slot chan || unbuilt
  let d1 := classWrite d (win + 4) (if stands then putBit val 0 old else val) acc
  if slot == 11 && old && !enOf d1 win then tdcDisable d1 else d1

/-- A write by the classes of its fields; a class S word of a block with EN = 0 takes effect at once (R38). -/
def plainWrite (d : Dev) (key : Nat) (val : Word) (acc : Option Access) : Dev :=
  let d1 := if keySlot key == 12 then gnsWrite d key val acc else classWrite d key val acc
  let fs := (fieldsAt key).getD []
  if keyEn d key then d1
  else if clsMask fs (· == .sg) != 0 then effectKeys d d1 (groupOf key)
  else if clsMask fs (· == .s) != 0 then effectKeys d d1 [key]
  else d1

/-- Writes of the registers of chapters 3, 4, 16, 19 and 20 that have effects of their own; none where the classes say it all. -/
def systemWrite (d : Dev) (r : Requester) (key : Nat) (val : Word) : Option Dev :=
  if key == GEN_VER_OFFER then some (verOffer d r val)
  else if key == RST_CMD then some (rstCmd d val)
  else if key == RST_WDOG then some (wdogWrite d val)
  else if key == FLT_ACK then some (fltAck d val)
  else if key == FLT_INJ then some (fltInj d val)
  else if key == FLT_SRC_SEL then some (fltSrcSel d r val)
  else if key == CHT_CMD then some (chtCmd d val)
  else if key == CHT_LOAD_DATA then some (loadData d val)
  else if key == KEY_CMD then some (keyCmdWrite d val)
  else if key == KEY_TCFG then some (keyTcfgWrite d val)
  else if key == KEY_HTEST then some (keyHtestWrite d val)
  else if key == KEY_NRD_SEL then some (nrdSel d r val)
  else if (arr key KEY_DATA 4 8).isSome then some (setReg d key val)
  else none

/-- The same of the time path, the ports and the rings. -/
def timeWrite (d : Dev) (r : Requester) (key : Nat) (val : Word) (acc : Option Access) : Option Dev :=
  if key == TSC_LRD_SEL then some (lrdSel d r val)
  else if key == REF_LOCKOUT then some (refLockout d val)
  else if key == TOL_CMD then some (tolCmd d val acc)
  else if key == TOL_MINT then some (bindMint (plainWrite d key val acc))
  else if key == PT_CALCMD then some (calcmd d val acc)
  else if key == PT_GRD_SEL then some (grdSel d r val)
  else if key == TWN_CMD then some (twnCmd d val)
  else if key == GN_RINGS then some (bindAid (plainWrite d key val acc))
  else if key == QMG_IMAP + 600 then
    some (plainWrite d key ((val &&& 0x5FFFFFFF#32) ||| (rg d key &&& 0xA0000000#32)) acc)
  else match arr key SEL_DCLR 0x20 32, arr key TR_CNT_HI 0x80 16, arr key SS_HOLD_LIMIT_HI 0x100 2, arr key (macReg 0 0x58) 0x10000 6 with
    | some n, _, _, _ => some (selDclr d n val)
    | _, some n, _, _ => some (trigArm d n val)
    | _, _, some _, _ =>
      let d1 := plainWrite d key val acc
      some (setEff (setEff d1 key (rg d1 key)) (key - 4) (rg d1 (key - 4)))
    | _, _, _, some p => some (gclCommit d p val acc)
    | _, _, _, _ =>
      match arr key MAC_PCS 0x10000 6 with
      | some p => some (plainWrite d key (if keyEn d key then heldBits d r p key val else val) acc)
      | none =>
      match ringOf key with
      | some (rx, q) => if key % 0x40 == 0 then some (ringCfg d rx q val acc) else none
      | none => none

/-! ### Indirect windows (R62 to R64) -/

/-- ADDR advances by 4 with INC = 1. -/
def indAdvance (d : Dev) (r : Requester) (slot : Nat) : Dev :=
  let a := indAddrOf d r slot
  if bit a 31 then putIndAddr d r slot (w32 (2 ^ 31 + (bits a 23 0 + 4) % 2 ^ 24)) else d

/-- An access went to an unnamed indirect address. -/
def indUnmapped (d : Dev) (r : Requester) (slot : Nat) : Dev := putIndStat d r slot (putBit (indStatOf d r slot) 2 true)

def indTarget (d : Dev) (r : Requester) (slot : Nat) : Nat := indKey slot (bits (indAddrOf d r slot) 23 2 * 4)

/-- The access event of the window's IND_DATA (Table 20.4). -/
def tallyInd (d : Dev) (r : Requester) (slot : Nat) : Dev := tally d slot 1 evInd (some (accOf r (indBase slot + 4)))

/-- The writes of a requester to a slot's window that are on their way. -/
def isInd (r : Requester) (slot : Nat) (w : Requester × Nat × Word) : Bool := w.1 == r && w.2.1 == slot

/-- A write on its way reaches its target (R32, R63). -/
def indFinish (d : Dev) (r : Requester) (slot : Nat) : Dev :=
  match d.indWait.find? (isInd r slot) with
  | none => d
  | some (_, _, val) =>
    let d1 := { d with indWait := d.indWait.filter (fun w => !isInd r slot w) }
    let d2 := putIndStat d1 r slot (putBit (indStatOf d1 r slot) 0 false)
    let key := indTarget d2 r slot
    let d3 :=
      if inBlockReset d2 (slotBase slot) then d2
      else if (fieldsAt key).isNone then indUnmapped d2 r slot
      else plainWrite (tallyInd d2 r slot) key val (some (accOf r (indBase slot + 4)))
    indAdvance d3 r slot

/-- Every write on its way completes, in the order in which they were made (R51). -/
def indFinishAll (d : Dev) : Dev := d.indWait.foldl (fun d w => indFinish d w.1 w.2.1) d

/-- The earlier writes of a requester's master to a block complete before its next access to the block (R51): a read never passes one. -/
def indOrder (d : Dev) (r : Requester) (slot : Nat) : Dev :=
  (d.indWait.filter (fun w => reqMaster w.1 == reqMaster r && w.2.1 == slot)).foldl (fun d w => indFinish d w.1 w.2.1) d

/-- A read of IND_DATA, held until an earlier write of the requester is done. -/
def indRead (d0 : Dev) (r : Requester) (slot : Nat) : Dev :=
  let d := indFinish d0 r slot
  let key := indTarget d r slot
  let d1 := match fieldsAt key with
    | some fs => keyRead (tallyInd d r slot) r key fs
    | none => answer (indUnmapped d r slot) [0]
  indAdvance d1 r slot

/-- A write of IND_DATA is accepted at once and sets BUSY; an earlier one is done first. -/
def indWrite (d0 : Dev) (r : Requester) (slot : Nat) (val : Word) : Dev :=
  let d := indFinish d0 r slot
  let d1 := { d with indWait := d.indWait ++ [(r, slot, val)] }
  putIndStat d1 r slot (putBit (indStatOf d1 r slot) 0 true)

/-- The target has not answered for 2 µs (R64): a write on its way is discarded, a read returns 0. -/
def indTimeout (d : Dev) (r : Requester) (slot : Nat) : Dev :=
  let a := bits (indAddrOf d r slot) 23 0
  let d1 := { d with indWait := d.indWait.filter (fun w => !isInd r slot w) }
  let d2 := putIndStat d1 r slot (putBit (putBit (indStatOf d1 r slot) 0 false) 1 true)
  indAdvance (logC (answer d2 [0]) (srcIndTimeout slot) (reqCode r) a) r slot

/-! ### Reads and writes in BAR0 -/

/-- The slot whose IND_DATA an offset is. -/
def indDataSlot (off : Nat) : Option Nat :=
  match slotOf off with
  | some s => if hasInd s && off == indBase s + 4 then some s else none
  | none => none

/-- An access in order behind the writes of its master that are on their way to the block; one to IND_STAT, which shows BUSY, and to IND_DATA, which holds for its own window, is not held here (R51, R63). -/
def inOrder (d : Dev) (r : Requester) (off : Nat) : Dev :=
  match slotOf off with
  | some slot => if hasInd slot && (off == indBase slot + 8 || off == indBase slot + 4) then d else indOrder d r slot
  | none => d

/-- A read that has reached its block. -/
def regRead (d0 : Dev) (r : Requester) (off : Nat) : Dev :=
  let d := inOrder d0 r off
  match indDataSlot off, fieldsAt off with
  | some slot, _ => indRead d r slot
  | none, some fs => keyRead d r off fs
  | none, none => unmapped d r off

/-- A write that has reached its block. -/
def regWrite (d0 : Dev) (r : Requester) (off : Nat) (val : Word) : Dev :=
  let d := inOrder d0 r off
  let acc := some (accOf r off)
  let slot := (slotOf off).getD 24
  let win := windowOf off
  if (fieldsAt off).isNone then unmapped d r off
  else if off == win + 4 then ctrlWrite d slot win val acc
  else if hasInd slot && off == indBase slot then putIndAddr d r slot (val &&& 0x80FFFFFC#32)
  else if hasInd slot && off == indBase slot + 4 then indWrite d r slot val
  else match systemWrite d r off val, timeWrite d r off val acc with
    | some d1, _ => d1
    | none, some d1 => d1
    | none, none => plainWrite d off val acc

/-! ### The bit-alias region (R59 to R61) -/

def aliasReg (off : Nat) : Nat := (off - 0x800000) / 128 * 4
def aliasBit (off : Nat) : Nat := off / 4 % 32

/-- The class of the field that holds a bit; none where it is reserved. -/
def bitClass (fs : List Field) (b : Nat) : Option Cls := (fs.find? (fun f => f.lo ≤ b && b ≤ f.hi)).map (·.cls)

/-- An alias read: the bit, cleared if it is RC. It pops and latches nothing. -/
def aliasReadDo (d0 : Dev) (r : Requester) (off : Nat) : Dev :=
  let a := aliasReg off
  let d := inOrder d0 r a
  let b := aliasBit off
  match fieldsAt a with
  | none => unmapped d r a
  | some fs =>
    let v := bit (readWord d r a fs) b
    let d1 := if v && bitClass fs b == some .rc then clearRc d r a (w32 (2 ^ b)) else d
    answer d1 [if bitClass fs b == some .wo then 0 else w32 (b2n v)]

/-- An alias write of bit 0 (Table 3.2). -/
def aliasWriteDo (d : Dev) (r : Requester) (off : Nat) (val : Word) : Dev :=
  let a := aliasReg off
  let b := aliasBit off
  match fieldsAt a with
  | none => unmapped d r a
  | some fs =>
    let kept := readWord d r a fs &&& clsMask fs (fun c => c == .rw || c == .x || c == .s || c == .sc || c == .sg)
    match bitClass fs b with
    | some .ro => d
    | some .rc => d
    | none => d
    | some .wo => regWrite d r a (w32 (b2n (bit val 0) * 2 ^ b))
    | some _ => regWrite d r a (putBit kept b (bit val 0))

/-! ### BAR2 (R346, R352, R354) -/

def isPcie : Requester → Bool
  | .pcie0 => true
  | .pcie1 => true
  | _ => false

/-- BAR2 lies, for the commands of this model, at 0x0100_0000 past BAR0's 16 MiB. -/
def inBar2 (r : Requester) (off : Nat) : Bool := isPcie r && 0x1000000 ≤ off && off < 0x1100000

def fnOf : Requester → Nat
  | .pcie1 => 1
  | _ => 0

/-- Vectors of a function's MSI-X table. -/
def msixVectors (fn : Nat) : Nat := if fn == 0 then 256 else 8

def bar2Read (d : Dev) (r : Requester) (o : Nat) : Word :=
  let fn := fnOf r
  if o < 0x80000 then
    if o % 0x1000 == 0 && fn == 0 then w32 ((ringAt d (0x40000 ≤ o) (o / 0x1000 % 64)).head % 65536) else 0
  else if 0xF0000 ≤ o && o < 0xF0000 + 16 * msixVectors fn then sparseGet msixDefault d.qmg.msix (fn * 2 ^ 20 + (o - 0xF0000))
  else if 0xF1000 ≤ o && (o - 0xF1000) * 8 < msixVectors fn then
    w32 ((List.range 32).foldl (fun a i => a + b2n (d.qmg.pba.contains (fn, (o - 0xF1000) * 8 + i)) * 2 ^ i) 0)
  else 0

/-- An MSI-X vector that is unmasked sends the message that waits (R352). -/
def unmask (d : Dev) (fn vec : Nat) : Dev :=
  if !msixMasked d fn vec && d.qmg.pba.contains (fn, vec) then
    emit { d with qmg := { d.qmg with pba := d.qmg.pba.filter (· != (fn, vec)) } } (.msix fn vec)
  else d

def bar2Write (d : Dev) (r : Requester) (o : Nat) (val : Word) : Dev :=
  let fn := fnOf r
  if o < 0x80000 then
    let rx := decide (0x40000 ≤ o)
    let q := o / 0x1000 % 64
    if o % 0x1000 == 0 && fn == 0 && ringOn d rx q then doorbell d rx q val [] else d
  else if 0xF0000 ≤ o && o < 0xF0000 + 16 * msixVectors fn then
    let k := fn * 2 ^ 20 + (o - 0xF0000)
    let w := if o % 16 == 0 then val &&& 0xFFFFFFFC#32 else if o % 16 == 12 then val &&& 1#32 else val
    unmask { d with qmg := { d.qmg with msix := sparseSet msixDefault d.qmg.msix k w } } fn ((o - 0xF0000) / 16)
  else d

/-- An access in BAR2: turned away as PCIe turns one away in BAR0. -/
def withBar2 (d : Dev) (r : Requester) (off : Nat) (f : Dev → Dev) : Dev :=
  if d.gen.mode == .off || d.start.phase == .held || !pathServed d r || off % 4 != 0 then { d with resp := ⟨.unsupportedRequest, [0]⟩ }
  else f (answer d [])

/-! ### PCIe configuration space (R1, R345, R446) -/

/-- A function's configuration space lies, for the commands of this model, at 0x0200_0000, past BAR2 (log 19). -/
def inConfig (r : Requester) (off : Nat) : Bool := isPcie r && 0x2000000 ≤ off && off < 0x2001000

/-- Configuration requests are answered while the PCIE domain is good, in MINIMAL too; function 1 is there where fuse WARDEN_PCIE is blown (R446, R65). -/
def configServed (d : Dev) (r : Requester) : Bool :=
  (pcieServed d || (d.gen.mode == .minimal && pcieGood d)) && (fnOf r == 0 || (fuses d).wardenPcie)

/-- A word of a function's configuration space: the IDs, the class code, the subsystem's IDs. The device ID of function 1, the revision ID and the rest, which the spec does not state, are free values (log 19). -/
def configRead (d : Dev) (r : Requester) (o : Nat) : Dev :=
  let w := w32 (Config.free d.freeIdx)
  if o == 0x2C then answer d [(fuses d).subsys]
  else
    let d1 := { d with freeIdx := d.freeIdx + 1 }
    if o == 0 then answer d1 [w32 ((if fnOf r == 0 then 0x8816 else bits w 31 16) * 2 ^ 16 + Config.noroneVid.toNat)]
    else if o == 8 then answer d1 [w32 (0x088000 * 2 ^ 8 + bits w 7 0)]
    else answer d1 [w]

/-- An access in configuration space. What the spec says of that space is read only, so a write is answered and changes nothing (log 19). -/
def withConfig (d : Dev) (r : Requester) (off : Nat) (f : Dev → Dev) : Dev :=
  if configServed d r && off % 4 == 0 then f (answer d []) else { d with resp := ⟨.unsupportedRequest, [0]⟩ }

/-! ### The bus -/

def inAlias (off : Nat) : Bool := 0x800000 ≤ off && off < 0x1000000

/-- A 32-bit read by a requester. -/
def busRead (d : Dev) (r : Requester) (off : Nat) : Dev :=
  if inBar2 r off then withBar2 d r off (fun d => answer d [bar2Read d r (off - 0x1000000)])
  else if inConfig r off then withConfig d r off (fun d => configRead d r (off - 0x2000000))
  else if inAlias off then withAccess d r off evAlias (fun d => aliasReadDo d r off)
  else withRead d r off (fun d => regRead d r off)

/-- A 32-bit write by a requester. -/
def busWrite (d : Dev) (r : Requester) (off : Nat) (val : Word) : Dev :=
  if inBar2 r off then withBar2 d r off (fun d => bar2Write d r (off - 0x1000000) val)
  else if inConfig r off then withConfig d r off id
  else if inAlias off then withAccess d r off evAlias (fun d => aliasWriteDo d r off val)
  else withWrite d r off (fun d => regWrite d r off val)

/-- Any size of an access but a word is answered with Unsupported Request (R5). -/
def sized (d : Dev) (bytes : Nat) (f : Dev → Dev) : Dev :=
  if bytes != 4 then { d with resp := ⟨.unsupportedRequest, [0]⟩ } else f d

def execRegisterWrite (req : Requester) (off bytes : Nat) (val : Word) (s : State) : Host.Outcome State Fault Refusal :=
  act s fun d => sized d bytes fun d => busWrite d req off val

def execReadClearRead (req : Requester) (off bytes : Nat) (s : State) : Host.Outcome State Fault Refusal :=
  act s fun d => sized d bytes fun d => busRead d req off

def execLatchingRead (req : Requester) (off bytes : Nat) (s : State) : Host.Outcome State Fault Refusal :=
  act s fun d => sized d bytes fun d => busRead d req off

def execAliasRead (req : Requester) (off bytes : Nat) (s : State) : Host.Outcome State Fault Refusal :=
  act s fun d => sized d bytes fun d => if inAlias off then busRead d req off else d

def execAliasWrite (req : Requester) (off bytes : Nat) (val : Word) (s : State) : Host.Outcome State Fault Refusal :=
  act s fun d => sized d bytes fun d => if inAlias off then busWrite d req off val else d

def execIndDataRead (req : Requester) (slot : Nat) (s : State) : Host.Outcome State Fault Refusal :=
  act s fun d => if hasInd slot then busRead d req (indBase slot + 4) else d

def execIndDataWrite (req : Requester) (slot : Nat) (val : Word) (s : State) : Host.Outcome State Fault Refusal :=
  act s fun d => if hasInd slot then busWrite d req (indBase slot + 4) val else d

/-- A write on its way times out, or a read that this command brings does. -/
def execIndTimeout (req : Requester) (slot : Nat) (s : State) : Host.Outcome State Fault Refusal :=
  act s fun d =>
    if !hasInd slot then d
    else if d.indWait.any (isInd req slot) then indTimeout d req slot
    else withRead d req (indBase slot + 4) (fun d => indTimeout d req slot)

def execGenVerOfferWrite (req : Requester) (val : Word) (s : State) : Host.Outcome State Fault Refusal :=
  act s fun d => withWrite d req GEN_VER_OFFER (fun d => verOffer d req val)

/-! ### MSPI (R348 to R350) -/

/-- The status byte of the access just made (Table 15.4). -/
def mspiCode (d : Dev) : Nat :=
  match d.resp.status with
  | .ok => 0x5A
  | .mspi c => c
  | _ => 0xC3

/-- MSPI answers while the chip is powered and out of PORST_N. -/
def mspiAlive (d : Dev) : Bool := d.gen.mode != .off && d.start.phase != .held

/-- A FRAME status, as the Tally counts it (Table 20.4). -/
def frameError (d : Dev) : Dev := tally d 23 3 0x20 none

/-- One word of a READ: the status byte and four data bytes; what the data bytes of a FRAME status carry is not stated. -/
def mspiReadWord (d : Dev) (a : Nat) : List Byte × Dev :=
  let d1 := busRead d .mspi a
  let c := mspiCode d1
  if c == 0xCC then
    let (b, d2) := drawBytes (frameError d1) 4
    (BitVec.ofNat 8 c :: b, d2)
  else (BitVec.ofNat 8 c :: beBytes 4 (d1.resp.data.headD 0).toNat, d1)

def mspiReads : Nat → Dev → Nat → List Byte × Dev
  | 0, d, _ => ([], d)
  | n + 1, d, a =>
    let (b, d1) := mspiReadWord d (a % 2 ^ 24)
    let (c, d2) := mspiReads n d1 (a + 4)
    (b ++ c, d2)

/-- READ of a number of words; `early`: MSCS_N rises inside a further word. -/
def mspiRead (d : Dev) (addr words : Nat) (early : Bool) : Dev :=
  if !mspiAlive d then d
  else
    let (b, d1) := mspiReads words d addr
    emit (if early then frameError d1 else d1) (.mspi b)

def execMspiRead (addr words : Nat) (early : Bool) (s : State) : Host.Outcome State Fault Refusal :=
  act s fun d => mspiRead d addr words early

/-- A write earns a code: STATUS keeps the first other than OK (R349). -/
def mspiEarn (d : Dev) (c : Nat) : Dev :=
  let d1 := if c == 0xCC then frameError d else d
  if c == 0x5A || d1.mspiErr.isSome then d1 else { d1 with mspiErr := some c }

def mspiWrites (d : Dev) : List Word → Nat → Dev
  | [], _ => d
  | w :: r, a =>
    let d1 := busWrite d .mspi (a % 2 ^ 24) w
    mspiWrites (mspiEarn d1 (mspiCode d1)) r (a + 4)

/-- WRITE: each complete word is posted; a partial word is discarded. -/
def mspiWrite (d : Dev) (addr : Nat) (words : List Word) (early : Bool) : Dev :=
  if !mspiAlive d then d
  else
    let d1 := mspiWrites d words addr
    if early then mspiEarn d1 (if d1.gen.mode == .bringup then 0xB5 else 0xCC) else d1

def execMspiWrite (addr : Nat) (words : List Word) (early : Bool) (s : State) : Host.Outcome State Fault Refusal :=
  act s fun d => mspiWrite d addr words early

/-- STATUS, once every posted write is done; another command byte that is neither READ nor WRITE is unknown. -/
def mspiStatus (d0 : Dev) (cmd : Nat) : Dev :=
  if !mspiAlive d0 || cmd == 0x0B || cmd == 0x02 then d0
  else if cmd == 0x05 then
    emit { d0 with mspiErr := none } (.mspi [BitVec.ofNat 8 (d0.mspiErr.getD 0x5A), BitVec.ofNat 8 (modeCode d0.gen.mode)])
  else if d0.gen.mode == .bringup then emit d0 (.mspi [0xB5])
  else emit (frameError d0) (.mspi [0xCC])

def execMspiStatus (cmd : Nat) (s : State) : Host.Outcome State Fault Refusal := act s fun d => mspiStatus d cmd

end Sys2Proof.Machine
end

