-- ==== Sys2Proof/Machine/Bell.lean ====
section
/-! DEFINITION. The Bell: its arming point, its actions in the order of Table 2.3, suppressed wraps, the pre-Bell event, the Tally snapshot, and the passing of a TCLK (R11 to R18, R28 to R40, R52, R95 to R120, R159 to R164, R186, R463 to R465, rows BELL to STAGE_ARMING and TALLY_RING_DELIVERY). -/
namespace Sys2Proof.Machine
open Sys2Proof

/-! ### Conservation identities (R11 to R13, Table 1.1, Table 20.10)

`s` is the device sampled on the Bell TCLK. -/

/-- A difference modulo 2⁴⁸, narrowed to the low `n` bits of DETAIL. -/
def consDetail (n : Nat) (x : Int) : Nat := (x % (2 : Int) ^ n).toNat

/-- The two sides of an identity differ. -/
def consBad (x : Int) : Bool := x % (2 : Int) ^ 48 != 0

/-- A failed identity: source, channel, detail. -/
def failIf (bad : Bool) (code chan detail : Nat) : List Failure := if bad then [(code, chan, detail)] else []

def hallFails (s : Dev) : List Failure :=
  (List.range 12).flatMap (fun m =>
    let x : Int := (s.hal.issued.getD m 0 : Int) - (s.hal.returned.getD m 0 + s.hal.outstanding.getD m 0 : Nat)
    failIf (consBad x) srcHallCons m (consDetail 24 x))
  ++ failIf (256 < sumN s.hal.outstanding) srcHallCons 0xFF (sumN s.hal.outstanding % 2 ^ 24)

/-- Rings of one kind; channels from `base`. -/
def ringFails (rings : List Ring) (base : Nat) : List Failure :=
  (List.range rings.length).flatMap fun q =>
    let r := rings.getD q {}
    let x : Int := (r.issued : Int) - (r.completed + r.inflight : Nat)
    failIf (consBad x) srcQmgCons (base + q) (consDetail 23 x)

def qmgFails (s : Dev) : List Failure :=
  let x : Int := (s.qmg.granted : Int) - (s.qmg.consumed + s.qmg.held : Nat)
  ringFails s.qmg.txq 0 ++ ringFails s.qmg.rxq 64 ++ failIf (consBad x) srcQmgCons 0xFF (2 ^ 23 + consDetail 23 x)

/-- Sources in ascending order of the block that is their channel. -/
def fltFails (s : Dev) : List Failure :=
  (List.range 256).flatMap fun slot => (s.flt.sources.filter (·.code / 256 == slot)).flatMap fun x =>
    let y : Int := (x.raised : Int) - (x.written + x.coalesced + x.lost : Nat)
    failIf (consBad y) srcFltCons slot (x.code % 256 * 2 ^ 16 + consDetail 16 y)

/-- Outcome counters of one block: the total taken, then its outcomes and the pipeline, `n` of them. -/
def outcomeFails (src n : Nat) (outc : List (List Nat)) : List Failure :=
  (List.range outc.length).flatMap fun c =>
    let l := outc.getD c []
    let x : Int := (l.getD 0 0 : Int) - (sumN ((l.drop 1).take n) : Nat)
    failIf (consBad x) src c (consDetail 24 x)

/-- Every identity of Table 1.1 that fails, with the failures of TSC's audit among them: by block in the order of the base offsets, then by channel (R23, R48). -/
def bellFails (s : Dev) (tsc : List Failure) : List Failure :=
  fltFails s ++ tsc ++ outcomeFails srcTolCons 5 s.tol.outc ++ outcomeFails srcPtpCons 4 s.ptp.outc ++ qmgFails s ++ hallFails s

/-- The checks of a Bell are complete within 5 µs of it (Table 2.3); the reports of those that failed carry that instant, which follows the Bell (R110, R488). When it comes is a free value (log 51). -/
def reportFails (l : List Failure) (d : Dev) : Dev :=
  if l.isEmpty then d
  else
    let (k, d1) := drawBelow d 5000
    l.foldl (fun d x => report d x.1 x.2.1 x.2.2) (advance d1 (k + 1))

/-! ### The Tally snapshot (R465, Table 20.5) -/

/-- CNTc: the count, SAT and EN. -/
def tallyCell (s : Dev) (c : Nat) : Nat :=
  let n := tallyGet s c
  n + b2n (n == 2 ^ 48 - 1) * 2 ^ 62 + b2n (efb s (TAL_CFG + 16 * c) 31) * 2 ^ 63

/-- The snapshot record of a Bell: counters of `s`, the rest as it stands at the Bell. -/
def tallyRecord (s d : Dev) : List Byte :=
  let nen := (List.range 384).countP (fun c => efb s (TAL_CFG + 16 * c) 31)
  let flags := b2n (d.gen.mode == .factory) + 2 * b2n d.tal.droppedBefore + 4 * b2n (faultN d)
  leBytes 8 d.bellCnt.toNat ++ leBytes 8 d.t.toNat ++ leBytes 2 0x0100 ++ leBytes 2 nen
    ++ leBytes 4 (sclShow d SCL_COND).toNat ++ leBytes 4 ((statWord d 0 0).toNat / 2 ^ 16)
    ++ leBytes 1 (min 64 d.flt.log.length) ++ leBytes 1 flags ++ zeros 2
    ++ (List.range 384).flatMap (fun c => leBytes 8 (tallyCell s c))

/-- The snapshot of a Bell, and its record where TAL_RING.EN = 1. -/
def tallySnapshot (s d : Dev) : Dev :=
  if enOf s baseTal then
    { d with tal := { d.tal with
        snap := s.tal.live, snapBell := d.bellCnt, snapT := d.t,
        recordDue := if rgb d TAL_RING 31 then some (tallyRecord s d) else none } }
  else d

/-- The record of the last Bell goes to its ring, or is counted (R465). -/
def tallyDelivery (d : Dev) : Dev :=
  match d.tal.recordDue with
  | some body =>
    let d1 := { d with tal := { d.tal with recordDue := none } }
    let (d2, ok) := deliver d1 (rgf d1 TAL_RING 5 0) 7 body
    if ok then { d2 with tal := { d2.tal with droppedBefore := false } }
    else countUp { d2 with tal := { d2.tal with droppedBefore := true } } TAL_DROP 31 0 1
  | none => d

def execTallyRingDelivery (s : State) : Host.Outcome State Fault Refusal := act s tallyDelivery

/-! ### The arming point (R35, R86, R107, R152) -/

/-- Writes staged to the coming Bell. -/
def forBell (e : Staged) : Bool := e.boundary == .bell && !e.late

/-- A selection that names a scale with SETDONE = 0 is refused (R107). -/
def refuseOutsel (d : Dev) : Dev :=
  let bad := fun (e : Staged) => forBell e && e.words.any (fun w => w.1 == TSC_OUTSEL && !(scaleOf d (bit w.2 0)).setDone)
  if d.staged.any bad then statSet { d with staged := d.staged.filter (fun e => !bad e) } baseTsc 19 else d

/-- What a scale-steering stall that takes no reference delivers by the arming point: SL_FREE in free-run, its last y from a takeover to its Bell (R102, R176, Table 17.6). -/
def armOffer (d : Dev) (n : Nat) : Dev :=
  match steeredScale d n with
  | some b =>
    let s := selOf d n
    if holdsY d n then updScale d b (fun x => { x with offer := some ((stallOf d n).y, false) })
    else if s.servo == .freeRun && (scaleOf d b).offer.isNone then
      updScale d b (fun x => { x with offer := some (yOf d n, false) })
    else d
  | none => d

/-- The selector fixes the target of a stall (R152); a swap of the coming Bell has it choose as it will stand then (R410). -/
def fixTarget (d : Dev) (n : Nat) : Dev :=
  let v := swapView d
  let t := chooseUnder v n (armedWord v (selKey SEL_CTRL n))
  updSel d n fun s => { s with target := some t, armedHold := s.servo == .holdover }

/-- Two microseconds before a Bell. -/
def armBell (d : Dev) : Dev :=
  if d.tsc.armedDone then d
  else
    let d1 := refuseOutsel (deltaRecheck d)
    let d2 := (List.range 6).foldl (fun d p => captureBank d p .bell) d1
    let d3 := (selectedStalls d2).foldl (fun d n => armOffer (fixTarget d n) n) d2
    { d3 with
      staged := d3.staged.map (fun e => if forBell e then { e with armed := true } else e)
      tsc := { d3.tsc with armedDone := true } }

/-- Two microseconds before a boundary of its own period: the values that have reached the block are armed, a gate list captured. -/
def armOther (d : Dev) (b : Boundary) : Dev :=
  let d1 := match b with
    | .gclCycle p => captureBank d p b
    | _ => d
  { d1 with staged := d1.staged.map (fun e => if e.boundary == b && !e.late then { e with armed := true } else e) }

/-! ### Commits of the targets (R159 to R164, R490) -/

/-- What the actions of one Bell share. -/
structure BellCtx where
  inp : BellIn
  /-- the device on the Bell TCLK, before any action -/
  old : Dev
  /-- keys of the class S words that took effect -/
  keys : List Nat
  deriving DecidableEq, Repr

inductive Commit where
  | nothing | hold | cancel
  | switch (r : Nat)
  deriving DecidableEq, Repr

/-- A target fixed 2 µs ago may still be taken (R161). -/
def mayTake (d : Dev) (n r : Nat) : Bool :=
  let c := ef d (selKey SEL_CTRL n)
  if bit c 0 && bits c 12 8 == r then mayForce d n r else isCandidate d n r

/-- The pair's own first setting stands in for a stall's in STANDBY (R402). -/
def twinStandby (d : Dev) : Bool := d.gen.mode == .standby && twinConfigured d

/-- What a stall does at its Bell. `sets`: the twin's first setting falls on it. -/
def commitOf (d : Dev) (sets : Bool) (n : Nat) : Commit :=
  let s := selOf d n
  if selStands d n && d.twn.selLate then .nothing
  else match s.target with
    | none => .nothing
    | some none => if s.curV then .hold else .nothing
    | some (some r) =>
      if s.curV && s.cur == r then .nothing
      else if !mayTake d n r then .cancel
      else match steeredScale d n with
        | some b => if twinStandby d && !sets && !(scaleOf d b).setDone then .nothing else .switch r
        | none => .switch r

/-- φ of a reference on the Bell TCLK, before the Bell's steps, exact in 2⁻¹⁶ ns. -/
def phiAt (x : BellCtx) (r : Nat) : Rat := phiExact x.old r

/-- What REF30 takes of the partner's DIFF in STANDBY, less a step still to be made (R402). -/
def twinShift (d : Dev) (b : Bool) (r : Nat) : Int :=
  if twinStandby d && r == 30 then
    (if b then d.twn.diffB else d.twn.diffA) - ((d.twn.stepPending.map (·.1)).getD 0)
  else 0

/-- V of a software setting that this Bell makes. -/
def softV (x : BellCtx) (b : Bool) (d : Dev) : Option Nat :=
  let k := scKey SC_SET_NS (b2n b)
  if x.keys.contains k && !(scaleOf d b).setDone then softSetting (ef d (k - 8)) (ef d (k - 4)) (ef d k) (ef d (k + 4)) else none

/-- The step of a switch (R159): phase of the target against the scale before the Bell's steps, or against V (R490), rounded to the nearest 2⁻¹⁶ ns; that of a phase target modulo one second. -/
def switchAmount (x : BellCtx) (d : Dev) (b : Bool) (r base : Nat) : Int :=
  let a := ratNearest (phiAt x r + ((twinShift d b r : Int) : Rat) + (((x.old.tsc.o : Int) - base : Int) : Rat) / (2 ^ 32 : Rat))
  if carriage d r == .phase then modSecond a else a

/-- The step or the setting that a switch asks of its scale; a frequency target asks for none, and only one that carries time can set it (R105, R151). -/
def askScale (x : BellCtx) (d : Dev) (n : Nat) (b : Bool) (r : Nat) : Dev :=
  let soft := softV x b d
  if (scaleOf d b).setDone || soft.isSome then
    if hasPhase d r then
      let src := if soft.isSome then 2 else if (selOf d n).armedHold then 3 else if d.twn.twinSwitch then 4 else 2
      let amt := switchAmount x d b r (soft.getD (scaleOf x.old b).v)
      updScale d b fun s => { s with stepReqs := s.stepReqs ++ [⟨src, amt⟩] }
    else d
  else if twinStandby d || carriage d r != .time then d
  else
    let v := (ratNearest (phiAt x r + (x.old.tsc.o : Rat) / (2 ^ 32 : Rat))).toNat * 2 ^ 32
    updScale d b fun s => { s with setReq := some ⟨5, v⟩ }

/-- The bound's side of a switch: holdover ends, the window and the disputes start again; every switch is the one that R16 asks for (R157), and a target with phase ends the frozen components (R125, R128, R133). -/
def switchScl (d : Dev) (b : Bool) (r : Nat) : Dev :=
  let ht := holdTimeOf d b
  updScl d b fun s =>
    let s1 := { s with
      win := [], dispFrom := [], dispMax := 0, reanchored := true,
      holdTime := if s.tEntry.isSome then ht else s.holdTime, tEntry := none }
    if hasPhase d r then { s1 with frozen := false, snap := none } else s1

/-- A full-phase stall that steers a clock adopts the phase of its target (R162, R197). -/
def adoptPhase (d : Dev) (n r : Nat) : Dev :=
  if steersClock d n && stallFunc d n != 3 && hasPhase d r then countUp d (stKey SL_EVT n) 31 16 1 else d

/-- A switch commits (R159, R162, R164): it removes the whole phase of its target, so e starts at 0. -/
def commitSwitch (x : BellCtx) (d : Dev) (n r : Nat) : Dev :=
  let d1 := match steeredScale d n with
    | some b => switchScl (askScale x d n b r) b r
    | none => d
  let d2 := updSel (adoptPhase (leaveState d1 n) n r) n fun s => { s with
    cur := r, curV := true, servo := .acquiring, lockCnt := 0, unlockCnt := 0, tEntry := none }
  let d3 := noteClamp (updStall (countUp d2 (selKey SEL_CNT n) 15 0 1) n fun s => { s with
    relatch := true, eSum := 0, eN := 0, e := 0 }) n
  ((selOf d3 n).disputes.filter (fun p => p.i == r || p.j == r)).foldl (fun d p =>
    beginDisp d n (if p.i == r then p.j else p.i)) d3

def commitStall (x : BellCtx) (sets : Bool) (d : Dev) (n : Nat) : Dev :=
  match commitOf d sets n with
  | .nothing => d
  | .hold => enterHoldover d n
  | .cancel =>
    let d1 := statSet d baseRef 16
    if (selOf d1 n).curV && !keepsCur d1 n (selOf d1 n).cur then enterHoldover d1 n else d1
  | .switch r => commitSwitch x d n r

/-- What a takeover or an abdication left standing ends with the Bell whose targets were chosen after it (R407, R408). -/
def endSelWait (d : Dev) : Dev :=
  if d.twn.selLate then { d with twn := { d.twn with selLate := false } }
  else { d with twn := { d.twn with selWait := false, twinSwitch := false } }

/-- The holdover model's prediction for a scale whose stall was in holdover at the arming point (R102, R129, R158). -/
def holdOffer (x : BellCtx) (d : Dev) (n : Nat) : Dev :=
  match steeredScale d n with
  | some b =>
    if (selOf d n).armedHold && (sclOf d b).tEntry.isSome then
      let temp := if efb d (ssKey SS_CTRL b) 4 then tsenseTemp x.inp.vSense else x.inp.tChip
      let y := clampI (ylim d n) (prediction d b temp)
      updScale (noteClamp (updStall d n fun s => { s with y := prediction d b temp }) n) b fun s => { s with offer := some (y, true) }
    else d
  | none => d

/-! ### Scales at a Bell (R96 to R107, R402) -/

/-- The partner's step and selection that this chip makes at its Bell (R402, R403). -/
def askTwinStep (x : BellCtx) (d : Dev) : Dev :=
  match d.twn.stepPending with
  | some (amt, change) =>
    let ask := fun (d : Dev) (b : Bool) (a : Int) => if a == 0 then d
      else updScale d b fun s => { s with stepReqs := s.stepReqs ++ [⟨4, a⟩] }
    match change with
    | some new =>
      if (scaleOf d new).setDone then
        ask d new (((x.old.tsc.o : Int) + amt * 2 ^ 32 - (scaleOf x.old new).v) / 2 ^ 32)
      else d
    | none => if d.twn.stepBoth then ask (ask d false amt) true amt else ask d d.tsc.cur amt
  | none => d

/-- A setting has been made: its scale is bounded as set (R142). -/
def afterSetting (old : Dev) (d : Dev) (b : Bool) : Dev :=
  if (scaleOf d b).setDone && !(scaleOf old b).setDone then
    updScl d b fun s => { s with win := [], freeRunFrom := some d.t, timeRefT := none, tEntry := none, holdTime := 0 }
  else d

/-- Setting, steps and INC change of one scale, in the order of R52; and the software step that was made. -/
def bellScale (x : BellCtx) (d : Dev) (b : Bool) : Dev × Int :=
  let k := scKey SC_SET_NS (b2n b)
  let d1 := if x.keys.contains k then
      trySetting d b (softSetting (ef d (k - 8)) (ef d (k - 4)) (ef d k) (ef d (k + 4))) 1
    else d
  let d2 := match (scaleOf d b).setReq with
    | some q => trySetting d1 b (some q.value) q.source
    | none => d1
  let d3 := applySteps (afterSetting d d2 b) b (scaleOf d b).stepReqs
  let amt := if x.keys.contains (scKey SC_STEP_HI (b2n b)) then efPairS d (scKey SC_STEP_LO (b2n b)) else 0
  let d4 := applyStep d3 b 1 amt
  let made := if (scaleOf d4 b).v == (scaleOf d3 b).v then 0 else amt
  let d5 := changeInc d4 b
  (updScale d5 b (fun s => { s with offer := none, setReq := none, stepReqs := [] }), made)

/-- TS-O's selection (R107): as written, or in STANDBY as the partner's. -/
def bellOutsel (x : BellCtx) (d : Dev) : Dev :=
  if twinStandby d then
    match d.twn.stepPending with
    | some (_, some new) =>
      if (scaleOf d new).setDone && new != d.tsc.cur then setBoth (switchOut d new 4) TSC_OUTSEL (w32 (b2n new)) else d
    | _ => d
  else
    let new := efb d TSC_OUTSEL 0
    if x.keys.contains TSC_OUTSEL && new != d.tsc.cur && (scaleOf d new).setDone then switchOut d new 6 else d

/-- The selection that TS-O has after the coming Bell (R87). -/
def comingSel (d : Dev) : Bool :=
  if twinStandby d then ((d.twn.stepPending.bind (·.2)).getD d.tsc.cur)
  else if d.staged.any (fun e => forBell e && e.words.any (·.1 == TSC_OUTSEL)) then bit (armedWord d TSC_OUTSEL) 0
  else d.tsc.cur

/-- The twin's first setting of both scales is asked for (R402). -/
def askTwinSet (d : Dev) : Dev :=
  let va := twinValue d false
  let vb := twinValue d true
  let d1 := updScale d false (fun s => { s with setReq := some ⟨4, va⟩ })
  let d2 := updScale d1 true (fun s => { s with setReq := some ⟨4, vb⟩ })
  { d2 with twn := { d2.twn with loaded := true, stepPending := none, stepBoth := false } }

/-- Counts of the scales' steps, also of a switch whose step is 0 (Table 13.4), which tell stamps of different sides apart (R317). -/
def countSteps (before after : Dev) : Dev :=
  let f := fun (i : Nat) (moved : Bool) (l : List Nat) => if moved then l.modify i (· + 1) else l
  let a := before.tsc.a.v != after.tsc.a.v || !before.tsc.a.stepReqs.isEmpty
  let b := before.tsc.b.v != after.tsc.b.v || !before.tsc.b.stepReqs.isEmpty
  { after with ptp := { after.ptp with
      stepCnt := f 0 a (f 1 b (f 2 (before.tsc.o != after.tsc.o || (if before.tsc.cur then b else a)) after.ptp.stepCnt)) } }

/-- The scales' actions at a Bell: settings, steps, INC and OUTSEL, re-anchoring and the audit; the software steps made, and the checks that failed. -/
def bellScales (x : BellCtx) (d : Dev) : Dev × (Int × Int) × List Failure :=
  let (da, sa) := bellScale x d false
  let (db, sb) := bellScale x da true
  let d1 := bellOutsel x db
  let d2 := { d1 with
    tsc := { d1.tsc with oF := (scaleOf d1 d1.tsc.cur).f },
    twn := { d1.twn with stepPending := none, stepBoth := false } }
  let win := fun (d : Dev) (b : Bool) => if (scaleOf d b).reanchor then updScl d b (fun s => { s with win := [] }) else d
  let d3 := reanchor (reanchor (win (win d2 false) true) false) true
  let (d4, fails) := audit d3
  (countSteps d d4, (sa, sb), fails)

/-! ### Stalls, APLLs, pulses and grids at a Bell -/

/-- Built stalls close their interval: e, a second of history, the lock criteria (R123, R165, R177, R179). -/
def bellStalls (d : Dev) : Dev :=
  ((List.range 32).filter (fun n => stallBuilt d n)).foldl (fun d n =>
    let d1 := noteClamp (pushHist (closeE d n) n) n
    if selStands d1 n && d1.gen.mode == .active then d1 else lockStep d1 n) d

/-- The scale whose stall became LOCKED at this Bell notes its value (R323). -/
def noteLocked (x : BellCtx) (d : Dev) : Dev :=
  [false, true].foldl (fun d b =>
    match steeringStall d (b2n b) with
    | some n =>
      if (selOf d n).servo == .locked && (selOf x.old n).servo != .locked then
        let v := (scaleOf d b).v
        let l := upd d.tol.lockedAt (b2n b) (fun _ => some v)
        { d with tol := { d.tol with lockedAt := if d.tsc.cur == b then upd l 2 (fun _ => some d.tsc.o) else l } }
      else d
    | none => d) d

/-- Δ of an APLL at this Bell, 0.5 ps (R186): the switch of a full-phase stall, the step of its time-bus source, the change of POFS. -/
def apllDelta (x : BellCtx) (d : Dev) (n : Nat) : Rat :=
  let pofs : Int := sext 32 (ef d (apKey AP_POFS n)).toNat - (apllOf d n).pofs
  let own : Rat := match stallOn d n with
    | some st =>
      let t := tbusOf d st
      if t != 0 then
        if noEpoch d st || stallFunc d st == 3 then 0
        else -((((scaleVal d (tbusScale t) : Int) - scaleVal x.old (tbusScale t) : Int) : Rat) * 2000 / (2 ^ 48 : Rat))
      else
        let s := selOf d st
        let o := selOf x.old st
        let moved := s.curV && (!o.curV || o.cur != s.cur)
        if moved && stallFunc d st == 2 && hasPhase d s.cur then
          let held := match x.inp.probes.find? (·.1 == st) with
            | some (_, v) => v
            | none => 0
          (phiAt x s.cur - (held : Rat)) * 2000 / 65536
        else 0
    | none => 0
  own + (pofs : Rat)

/-- The APLLs' part: phase changes, spur evaluation, restart of gated outputs (R183, R186, R189, R193, R194). -/
def bellApll (x : BellCtx) (d : Dev) (n : Nat) : Dev :=
  let d1 := updApll (addPhase d n (apllDelta x d n)) n (fun a => { a with pofs := sext 32 (ef d (apKey AP_POFS n)).toNat })
  let rebuilt := fun (o : Nat) => deltaDue x.old && x.old.cht.delta.any (fun r => r.kind == 3 && r.index == o)
  let fresh := (List.range 24).filter (fun o => ((outOf x.old o).run && !(outOf d1 o).run) || rebuilt o)
  restartOuts (evalSpur d1 n) n fresh (!(apllOf x.old n).realign && (apllOf d1 n).realign)

/-- The phase that the audio stall adopts at this Bell is left to slew, within half a sample period (R162, R418). -/
def audSlew (x : BellCtx) (d : Dev) : Dev :=
  match audioStall d with
  | some st =>
    let s := selOf d st
    let o := selOf x.old st
    if s.curV && (!o.curV || o.cur != s.cur) && hasPhase d s.cur && d.aud.st == .internal then
      let held := match x.inp.probes.find? (·.1 == st) with
        | some (_, v) => v
        | none => 0
      let p := nominalP d
      let a := (phiAt x s.cur - (held : Rat)) / 65536
      updAud d fun u => { u with slew := a - p * ((a / p + 1 / 2).floor : Rat) }
    else d
  | none => d

/-- Instants that the steps of this Bell passed over, and the start of what waits for a set scale (R41, R200, R204, R207, R210). -/
def bellOuts (x : BellCtx) (d : Dev) : Dev :=
  let o0 := x.old.tsc.o
  let d1 := (List.range 8).foldl (fun d n => pulseSkips d n (scaleVal x.old (pulseScale d n))) d
  let d2 := (List.range 8).foldl (fun d g => if d.tsc.o == o0 then d else gridStep d g o0) d1
  startOuts ((List.range 16).foldl (fun d n => trigSkips d n o0) d2)

/-! ### The whole Bell -/

/-- The staged writes of the Bell take effect; those that missed it wait for the next (R33, R36). -/
def takeStaged (d : Dev) : Dev × List Nat :=
  let now := d.staged.filter forBell
  let rest := (d.staged.filter (fun e => !forBell e)).map (fun e =>
    if e.boundary == .bell then { e with late := false, armed := false } else e)
  let d1 := now.foldl (fun d e => tallyStaged (effWords d .bell e.words) e) { d with staged := rest }
  (d1, now.flatMap (fun e => e.words.map (·.1)))

/-- A delta charter that is due, with what follows for pulses and grids it rebuilds (R39, R87). -/
def bellDelta (d : Dev) : Dev :=
  if deltaDue d then
    let rs := d.cht.delta
    let d1 := dropIncumbents (applyDelta d (comingSel d))
    rs.foldl (fun e r =>
      if r.kind == 4 then pulseRestart e r.index
      else if r.kind == 5 then gridRetime d e r.index
      else e) d1
  else d

/-- BELLCNT counts the Bell, or is loaded from the partner's snapshot (R30). -/
def bellCount (sets : Bool) (d : Dev) : Dev :=
  { d with bellCnt := if sets then BitVec.ofNat 64 (twinBellCnt d) else d.bellCnt + 1 }

/-- GEN_BELL_STAT takes a Bell; the arming of the next begins anew. -/
def bellFlags (d : Dev) : Dev :=
  let d1 := countUp (setReg d GEN_BELL_STAT (putBit (rg d GEN_BELL_STAT) 0 true)) GEN_BELL_STAT 31 16 1
  { d1 with tsc := { d1.tsc with armedDone := false, preDone := false, hadBell := true, lastBellO := d1.tsc.o } }

/-- Bells in service since a start (R444). -/
def bellService (d : Dev) : Dev :=
  if d.backup.inAttempt && inService d then { d with backup := { d.backup with bells := min 60 (d.backup.bells + 1) } } else d

/-- The last time or phase reference of each scale (R325). -/
def noteRefs (d : Dev) : Dev :=
  [false, true].foldl (fun d b =>
    match scaleCur d b with
    | some r => if hasPhase d r then { d with tol := { d.tol with lastRef := upd d.tol.lastRef (b2n b) (fun _ => some r) } } else d
    | none => d) d

/-- Everything that selection does at the Bell. -/
def bellSelect (x : BellCtx) (sets : Bool) (d : Dev) : Dev :=
  let d1 := (selectedStalls d).foldl (holdOffer x) (bellStalls d)
  let d2 := (selectedStalls d1).foldl (commitStall x sets) d1
  showRates (endSelWait { d2 with sels := d2.sels.map (fun s => { s with target := none, armedHold := false }) })

/-- The blocks that follow the scales at a Bell. -/
def bellBlocks (x : BellCtx) (d : Dev) : Dev :=
  let d1 := bellOuts x ((List.range 4).foldl (bellApll x) d)
  let d2 := epochSkips (gnsBell (driftBell (gateBell (calBell d1))) x.inp) x.old.tsc.o
  let d3 := (List.range 6).foldl (fun d p => launchSkips d p) d2
  audBell (audSlew x (tolBell (noteRefs (ptpBell (streamSkips x.old (loopbackBell d3 x.inp.loopBad))))))

/-- The actions of a Bell on its TCLK and after it (Table 2.3). -/
def bellActions (inp : BellIn) (s : Dev) : Dev :=
  let prevT := s.tsc.lastBellT.toNat
  let lwpA := s.tsc.a.lwp
  let lwpB := s.tsc.b.lwp
  let sets := twinSets s
  let d1 := swapBell (drillBell (bellCount sets (bellDelta (closeInterval s))))
  let (d2, keys) := takeStaged d1
  let x : BellCtx := ⟨inp, s, keys⟩
  let d3 := effectKeys d1 d2 keys
  let d4 := bellSelect x sets (if sets then askTwinSet d3 else d3)
  let (d5, soft, fails) := bellScales x (if twinStandby d4 then askTwinStep x d4 else d4)
  let d6 := stampBell (takeCals (oweDeltas (noteLocked x d5) lwpA lwpB))
  let temp := fun (d : Dev) (b : Bool) => if efb d (ssKey SS_CTRL b) 4 then tsenseTemp inp.vSense else inp.tChip
  let d7 := sclBell d6 false prevT (temp d6 false) inp.tChip (tsenseTemp inp.vSense) soft.1
  let d8 := sclBell d7 true prevT (temp d7 true) inp.tChip (tsenseTemp inp.vSense) soft.2
  let d9 := sourcesFollow (bellBlocks x d8)
  let d10 := twnBell d9 (((d9.tsc.o : Int) - s.tsc.o) / 2 ^ 32)
  reportFails (bellFails s fails) (tallySnapshot s (bellFlags (bellService (checkpoint d10))))

/-! ### Time passes -/

def setPre (d : Dev) : Dev :=
  setReg { d with tsc := { d.tsc with preDone := true } } GEN_BELL_STAT (putBit (rg d GEN_BELL_STAT) 1 true)

def setSupp (d : Dev) : Dev := setReg d GEN_BELL_STAT (putBit (rg d GEN_BELL_STAT) 2 true)

/-- PRE_LEAD in ms. -/
def preLead (d : Dev) : Nat := max 1 (min 250 (rgf d GEN_BELL_CTRL 15 8))

/-- TCLKs until TS-O stands PRE_LEAD before the coming Bell, n TCLKs from now. -/
def ticksToPre (d : Dev) (n : Nat) : Nat :=
  let inc := incOf d.tsc.oF
  let wrap := (d.tsc.o + n * inc) / secUnit * secUnit
  ceilDiv (wrap - preLead d * ms * nsUnit - d.tsc.o) inc

/-- n TCLKs pass, not beyond the coming Bell, m TCLKs from now: a suppressed wrap, the pre-Bell event, the arming and the filling in of BOUND_DELTA come as they fall (R31, R35, R40, R113). A write that reaches its block 2,000 TCLKs before the Bell still earns it (R33): the arming ends that TCLK. -/
def passTo (d : Dev) (m n : Nat) : Dev :=
  let d1 := if wrapSuppressed d (ticksToWrap d) && ticksToWrap d ≤ n then setSupp d else d
  let d2 := if !d1.tsc.preDone && ticksToPre d m ≤ n then setPre d1 else d1
  fillDeltas (if m < n + 2000 then advance (armBell (advance d2 (m - 2000))) (n - (m - 2000)) else advance d2 n)

/-- n TCLKs pass, if the Bell does not come first. -/
def pass (d : Dev) (n : Nat) : Dev :=
  match ticksToBell d with
  | some m => if n < m then armCommits (passTo d m n) else d
  | none => d

/-- The coming Bell: what lies before it, then its actions. -/
def bellNow (inp : BellIn) (d0 : Dev) : Dev :=
  let d := indFinishAll d0
  match ticksToBell d with
  | some m => bellActions inp (audPlace (passTo d m m))
  | none => d

def execBell (inp : BellIn) (s : State) : Host.Outcome State Fault Refusal := act s (bellNow inp)

/-- The wrap that is no Bell (R31). -/
def suppressedWrap (d0 : Dev) : Dev :=
  let d := indFinishAll d0
  if wrapSuppressed d (ticksToWrap d) then pass d (ticksToWrap d) else d

def execSuppressedWrap (s : State) : Host.Outcome State Fault Refusal := act s suppressedWrap

/-- The pre-Bell event (R40). -/
def preBell (d0 : Dev) : Dev :=
  let d := indFinishAll d0
  match ticksToBell d with
  | some m => if d.tsc.preDone then d else pass d (min (ticksToPre d m) (m - 1))
  | none => d

def execPreBell (s : State) : Host.Outcome State Fault Refusal := act s preBell

/-- An arming point; that of the Bell ends the TCLK that lies 2,000 TCLKs before it. -/
def stageArming (b : Boundary) (d0 : Dev) : Dev :=
  let d := indFinishAll d0
  if b == .bell then
    match ticksToBell d with
    | some m => if d.tsc.armedDone then d else pass d (m - 1999)
    | none => d
  else armOther d b

def execStageArming (b : Boundary) (s : State) : Host.Outcome State Fault Refusal := act s (stageArming b)

/-- One TCLK while no command waits: the counters count, a suppressed wrap, the pre-Bell event and the arming point come as they fall. The Bell itself is the command BELL, which brings what the device measures there: the TCLK before it, time waits for it (DESIGN CHOICE, log 20). -/
def tick (d0 : Dev) : Dev := pass (indFinishAll d0) 1

def idle (s : State) : Host.Outcome State Fault Refusal := act s tick

end Sys2Proof.Machine
end

