-- ==== Sys2Proof/Machine/Hall.lean ====
section
/-! DEFINITION. The Hall: tags, holds, grants (R363 to R367; rows HALL_REQUEST, HALL_COMPLETION). -/
namespace Sys2Proof.Machine
open Sys2Proof

/-- Tags a master may hold: LIMIT, 0 acts as 1. -/
def tagLimit (d : Dev) (m : Nat) : Nat := max 1 (rgf d (HAL_M_CFG + 16 * m) 5 0)

def isLane (t : Nat) : Bool := t == 5 || t == 6

/-- The slots of a master's own block window (Table 2.1): M5 and the others of R365. -/
def ownSlot (m : Nat) : Option Nat :=
  match m with
  | 2 => some 16
  | 3 => some 14
  | 4 => some 15
  | 5 => some 12
  | 6 => some 19
  | 7 => some 3
  | 8 => some 4
  | 10 => some 2
  | 11 => some 5
  | _ => none

/-- Requests that hold a tag. -/
def tagHolders (d : Dev) : List HallReq := d.hal.granted ++ d.hal.tagged

/-- R364: an outstanding request of the same master and ID goes to a different target. -/
def heldOrder (d : Dev) (r : HallReq) : Bool :=
  (tagHolders d).any (fun x => x.master == r.master && x.id == r.id && x.target != r.target)

/-- R365: an engine's request to a Lane while that Lane's queue holds a request to the master's own window. -/
def heldCycle (d : Dev) (r : HallReq) : Bool :=
  isLane r.target && (match ownSlot r.master with
    | some s => d.hal.granted.any (fun x => x.target == r.target && x.slot == s)
    | none => false)

/-- A tag is free for the master (R363, R367). -/
def tagFree (d : Dev) (m : Nat) : Bool :=
  d.hal.outstanding.getD m 0 < tagLimit d m && sumN d.hal.outstanding < 256 && !d.hal.draining.contains m

/-- A target accepts a request: a Lane while its queue of 16 has room (R365). -/
def targetFree (d : Dev) (t : Nat) : Bool := !isLane t || (d.hal.granted.filter (·.target == t)).length < 16

/-- Place of a master in the round of a target that last granted `last`. -/
def roundPlace (last m : Nat) : Nat := (m + 11 - last) % 12

/-- Does x win over y at a target (R366)? -/
def winsOver (d : Dev) (t : Nat) (x y : HallReq) : Bool :=
  let p := fun (r : HallReq) => rgf d (HAL_M_CFG + 16 * r.master) 9 8
  let last := d.hal.lastGrant.getD t 0
  p y < p x || (p x == p y && roundPlace last x.master < roundPlace last y.master)

/-- The request a target grants next: the winner among those that wait there, of one master the oldest. -/
def nextGrant (d : Dev) (t : Nat) : Option HallReq :=
  (d.hal.tagged.filter (·.target == t)).foldl (fun w r => match w with
    | none => some r
    | some x => if winsOver d t r x then some r else some x) none

/-- Targets grant what waits, as long as they accept it. -/
def grantAll : Nat → Dev → Nat → Dev
  | 0, d, _ => d
  | n + 1, d, t =>
    if targetFree d t then
      match nextGrant d t with
      | some r =>
        grantAll n { d with hal := { d.hal with
          tagged := d.hal.tagged.erase r, granted := d.hal.granted ++ [r],
          lastGrant := upd d.hal.lastGrant t (fun _ => r.master) } } t
      | none => d
    else d

/-- A request gets its tag and is granted, or waits at its target. -/
def giveTag (d : Dev) (r : HallReq) : Dev :=
  let d1 := { d with hal := { d.hal with
    tagged := d.hal.tagged ++ [{ r with heldOrder := false, heldCycle := false }],
    issued := bump d.hal.issued r.master, outstanding := bump d.hal.outstanding r.master } }
  grantAll (d1.hal.tagged.length) d1 r.target

/-- Count a hold once, when it begins (R365). -/
def countHold (d : Dev) (r : HallReq) : HallReq × Dev :=
  let o := heldOrder d r
  let c := heldCycle d r
  let d1 := if o && !r.heldOrder then tally d 20 3 0x22 none else d
  let d2 := if c && !r.heldCycle then tally d1 20 3 0x23 none else d1
  ({ r with heldOrder := o, heldCycle := c }, d2)

/-- A request at the Hall: a tag, or a place among those that wait without one. -/
def enterHall (d : Dev) (r : HallReq) : Dev :=
  let (r1, d1) := countHold d r
  if !r1.heldOrder && !r1.heldCycle && tagFree d1 r1.master then giveTag d1 r1
  else { d1 with hal := { d1.hal with waiting := d1.hal.waiting ++ [r1] } }

/-- Look again at the requests that wait, oldest first. -/
def enterAgain (d : Dev) : Dev :=
  d.hal.waiting.foldl enterHall { d with hal := { d.hal with waiting := [] } }

def execHallRequest (master id target slot : Nat) (write : Bool) (beats : Nat) (s : State) : Host.Outcome State Fault Refusal :=
  act s fun d =>
    if 11 < master || 63 < id || 8 < target || beats == 0 || 16 < beats then d
    else enterHall d ⟨master, id, target, slot, write, beats, false, false⟩

/-- The last beat of a granted request completes: its tag returns (R363), and what waited for it is looked at again. -/
def hallComplete (d : Dev) (m id : Nat) : Dev :=
  match d.hal.granted.find? (fun r => r.master == m && r.id == id) with
  | some r =>
    let d1 := { d with hal := { d.hal with
      granted := d.hal.granted.erase r, returned := bump d.hal.returned m, outstanding := unbump d.hal.outstanding m } }
    let left := (tagHolders d1).any (·.master == m)
    let d2 := if left then d1 else { d1 with hal := { d1.hal with draining := d1.hal.draining.filter (· != m) } }
    enterAgain (grantAll (d2.hal.tagged.length) d2 r.target)
  | none => d

def execHallCompletion (master id : Nat) (s : State) : Host.Outcome State Fault Refusal :=
  act s fun d => hallComplete d master id

end Sys2Proof.Machine
end

