-- ==== Sys2Proof/Machine/Timed.lean ====
section
/-! DEFINITION. Events whose instant the state itself gives: the time up to that instant passes before the event, and an event that lies beyond the coming Bell has not come (R41, R144, R149, R158, R198 to R207, R230, R234, R238, R250). -/
namespace Sys2Proof.Machine
open Sys2Proof

/-! ### Reaching an instant -/

/-- n TCLKs pass where they end before the coming Bell, or where the counters stand. -/
def reachIn (d0 : Dev) (n : Nat) : Option Dev :=
  let d := indFinishAll d0
  if n == 0 then some d
  else match ticksToBell d with
    | some m => if n < m then some (pass d n) else none
    | none => none

/-- The free counter reaches a value; one that it has passed is reached. -/
def reachTick (d : Dev) (due : Nat) : Option Dev := reachIn d (due - d.t.toNat)

/-- A scale of the coding of STAMP_SCALE reaches a value in ns. -/
def reachScale (d : Dev) (sc : Nat) (ns : Rat) : Option Dev :=
  let inc := incOf (scaleF d sc)
  let left := ns - scaleNs d sc
  if left ≤ 0 then reachIn d 0
  else if inc == 0 then none
  else reachIn d (ratCeil (left * (nsUnit : Rat) / (inc : Rat))).toNat

/-- An event runs on the device as it stands at its instant; none: it has not come. -/
def whenReached (o : Option Dev) (f : Dev → Dev) (d : Dev) : Dev :=
  match o with
  | some e => f e
  | none => d

/-- An event that is due at a value of the free counter. -/
def atTick (due : Nat) (f : Dev → Dev) (d : Dev) : Dev := whenReached (reachTick d due) f d

/-- The same where the state may give no instant: then there is no event. -/
def atTick? (due : Option Nat) (f : Dev → Dev) (d : Dev) : Dev :=
  match due with
  | some t => atTick t f d
  | none => d

/-! ### References (R144, R149, R153, R158) -/

def qualifyEvent (r : Nat) (d : Dev) : Dev :=
  if r < 31 && (refOf d r).present && !(refOf d r).qualified then
    atTick (qualifyDue d r) (fun e => refQualify e r) d
  else d

def execRefQualify (ref : Nat) (s : State) : Host.Outcome State Fault Refusal := act s (qualifyEvent ref)

/-- SWHOLD seconds have passed since t_entry: the stall may take a target again (R158). -/
def holdOffEvent (n : Nat) (d : Dev) : Dev := atTick? (holdOffEnd d n (eff d (selKey SEL_CTRL n) 23 16)) id d

def execHoldoffExpiry (stall : Nat) (s : State) : Host.Outcome State Fault Refusal := act s (holdOffEvent stall)

/-- The evaluation of a Bell comes 20 µs after it (R153). -/
def evaluationDue (d : Dev) : Nat := d.tsc.lastBellT.toNat + 20 * us

def execRefEvaluation (meas : List RefMeas) (s : State) : Host.Outcome State Fault Refusal :=
  act s fun d => atTick (evaluationDue d) (fun e => refEvaluation e meas) d

/-! ### Pulses (R198 to R200) -/

/-- The next instant of a pulse comes. -/
def pulseEvent (n : Nat) (d : Dev) : Dev :=
  if !pulseMayFire d n then d
  else match pulseRef d n with
    | some _ => atTick? ((pulseInDue d n).map (fun q => (ratCeil (q / 65536)).toNat)) (fun e => pulseInstant e n) d
    | none => whenReached (reachScale d (pulseScale d n) (pulseAt d n (pulseNextK d n))) (fun e => pulseInstant e n) d

def execPulseInstant (n : Nat) (s : State) : Host.Outcome State Fault Refusal := act s (pulseEvent n)

/-- When the active level of a pulse or a trigger ends. -/
def widthDue (d : Dev) (trig : Bool) (n : Nat) : Option Nat :=
  (if trig then (trigOf d n).endPs else (pulseOf d n).endPs).map (fun p => ceilDiv p.toNat 1000)

def execPulseWidthEnd (trig : Bool) (n : Nat) (s : State) : Host.Outcome State Fault Refusal :=
  act s fun d => atTick? (widthDue d trig n) (fun e => widthEnd e trig n) d

def execMissingInputPulse (ref : Nat) (s : State) : Host.Outcome State Fault Refusal :=
  act s fun d => atTick? (pulseWindowEnd d ref) (fun e => missingPulse e ref) d

/-! ### Grids and triggers (R201 to R206) -/

/-- TS-O reaches the next line of a video grid; after a negative step, the line after the last one produced (R204). -/
def gridEvent (g : Nat) (d : Dev) : Dev :=
  if !videoRuns d g then d
  else whenReached (reachScale d 0 ((nextLine d g : Rat) * linePeriod d g * 1000000000)) (fun e => gridBoundary e g) d

def execGridBoundary (g : Nat) (s : State) : Host.Outcome State Fault Refusal := act s (gridEvent g)

/-- A measured grid has had no edge for 1.5 periods (R202). -/
def flywheelEvent (g : Nat) (d : Dev) : Dev :=
  if !built d 5 g || !(gridOf d g).run || isVideo d g || !(gridOf d g).started then d
  else whenReached (reachScale d 0 (flywheelAt d g)) (fun e => gridFlywheel e g) d

def execGridFlywheel (g : Nat) (s : State) : Host.Outcome State Fault Refusal := act s (flywheelEvent g)

/-- TS-O reaches the instant of a trigger (R205). -/
def triggerEvent (n : Nat) (d : Dev) : Dev :=
  match trigDue d n with
  | some (c, q) => whenReached (reachScale d 0 q) (fun e => triggerInstant e n c q) d
  | none => d

def execTriggerInstant (n : Nat) (s : State) : Host.Outcome State Fault Refusal := act s (triggerEvent n)

/-! ### GNSS (R230, R234, R238, R250) -/

/-- GCLK has been within tolerance for 1 s since it last failed at a Bell. -/
def gclkDue (d : Dev) : Nat := d.gns.gclkBadT.toNat + 1000 * ms

def execGclkRecovery (s : State) : Host.Outcome State Fault Refusal := act s fun d => atTick (gclkDue d) gclkRecovery d

/-- The scheduled change of TAI − UTC comes. -/
def leapEvent (d : Dev) : Dev :=
  match leapDue d with
  | some t => whenReached (reachScale d 0 ((t : Rat) * 1000000000)) leapChange d
  | none => d

def execLeapChange (s : State) : Host.Outcome State Fault Refusal := act s leapEvent

def execSearchTimeout (ch : Nat) (s : State) : Host.Outcome State Fault Refusal :=
  act s fun d => atTick? (searchEnd d ch) (fun e => searchTimeout e ch) d

/-- TS-O reaches the next epoch instant, or the Bell's TCLK is one. -/
def epochEvent (inp : EpochIn) (d : Dev) : Dev :=
  match bellEpochNow d with
  | some _ => solutionEpoch d inp
  | none => whenReached (reachScale d 0 ((epochNext d : Rat) / (nsUnit : Rat))) (fun e => solutionEpoch e inp) d

def execSolutionEpoch (inp : EpochIn) (s : State) : Host.Outcome State Fault Refusal := act s (epochEvent inp)

/-! ### The TDC (R216, R219, R220) -/

/-- TDC_WINDOW has elapsed since the start: the measurement closes. -/
def execTdcWindowExpiry (s : State) : Host.Outcome State Fault Refusal :=
  act s fun d => atTick? (windowDue d) (fun e => tdcClose e false false false) d

def execTdcGateClose (s : State) : Host.Outcome State Fault Refusal := act s fun d => atTick? (gateDue d) gateClose d

def execTdcMinute (rdy : Bool) (s : State) : Host.Outcome State Fault Refusal :=
  act s fun d => atTick (minuteDue d) (fun e => tdcMinute e rdy) d

/-! ### Ports (R278 to R291) -/

/-- An entry of a pair's table has stood for FORGET. -/
def forgetEvent (p src seq : Nat) (d : Dev) : Dev :=
  atTick? (((portOf d (lanA d p)).prp.find? (fun e => e.src == src && e.seq == seq)).map (forgetAt d (lanA d p)))
    (fun e => prpForget e p src seq) d

def execPrpForget (port src seq : Nat) (s : State) : Host.Outcome State Fault Refusal := act s (forgetEvent port src seq)

def execPauseTimerExpiry (port : Nat) (prio : Option Nat) (s : State) : Host.Outcome State Fault Refusal :=
  act s fun d => atTick? ((pauseTimer d port prio).map (·.toNat)) (fun e => pauseExpiry e port prio) d

/-- The port's scale comes to the end of the current gate entry: the gates follow it. -/
def gateEvent (p : Nat) (d : Dev) : Dev :=
  if (portOf d p).oper.gen then
    whenReached (reachScale d (stampScale d 7 p) (scaleNs d (stampScale d 7 p) + (gateNow d p).2.1)) id d
  else d

def execGateEntryChange (port : Nat) (s : State) : Host.Outcome State Fault Refusal := act s (gateEvent port)

/-- A cycle of the operational list starts: on this TCLK, or at the next start. -/
def cycleEvent (p : Nat) (d : Dev) : Dev :=
  if cycleNow d p then gclCycleStart d p
  else match cycleTicks d p with
    | some n => whenReached (reachIn d n) (fun e => gclCycleStart e p) d
    | none => d

def execGclCycleStart (port : Nat) (s : State) : Host.Outcome State Fault Refusal :=
  act s fun d => if 5 < port then d else cycleEvent port d

/-- The start instant of the launch queue's head comes. -/
def launchEvent (p : Nat) (d : Dev) : Dev :=
  match launchDue d p with
  | some q => whenReached (reachScale d (stampScale d 7 p) q) (fun e => launchStart e p) d
  | none => d

def execLaunchStart (port : Nat) (s : State) : Host.Outcome State Fault Refusal :=
  act s fun d => if 5 < port then d else launchEvent port d

/-- Half of XQUANTA has passed since XOFF was sent. -/
def execFcRepeatTimer (port cls : Nat) (s : State) : Host.Outcome State Fault Refusal :=
  act s fun d => if 5 < port || 7 < cls then d else
    atTick? (((portOf d port).fcDue.getD (fcIx d port cls) none).map (·.toNat)) (fun e => fcRepeat e port cls) d

/-! ### The Crier (R309, R315, R316, R318) -/

/-- The port's scale reaches the next instant of a stream. -/
def streamEvent (e : Nat) (grant : Option Nat) (mtype : Nat) (d : Dev) : Dev :=
  match streamOf d e grant mtype with
  | some x => whenReached (reachScale d (stampScale d 7 x.port) ((instantAt x (nextK d x) : Rat) / 65536)) (fun f => scheduledInstant f e grant mtype) d
  | none => d

def execScheduledMessageInstant (entry : Nat) (grant : Option Nat) (mtype : Nat) (s : State) : Host.Outcome State Fault Refusal :=
  act s (streamEvent entry grant mtype)

def execTrackingDelayReq (slot : Nat) (s : State) : Host.Outcome State Fault Refusal :=
  act s fun d => if slotRuns d slot then atTick (requestDue d slot) (fun e => sendRequest e slot) d else d

def execGrantRenewalTimer (slot mtype : Nat) (s : State) : Host.Outcome State Fault Refusal :=
  act s fun d => atTick? (renewalDue d slot mtype) (fun e => renewGrant e slot mtype) d

def execTrackingTimeout (slot cause : Nat) (s : State) : Host.Outcome State Fault Refusal :=
  act s fun d => atTick? (timeoutDue d slot cause) (fun e => trackingTimeout e slot cause) d

/-! ### Rings (R352) -/

def execInterruptTimer (rx : Bool) (ring : Nat) (s : State) : Host.Outcome State Fault Refusal :=
  act s fun d => if 63 < ring then d else atTick? (itimeDue d rx ring) (fun e => ringPending e rx ring) d

/-! ### Start and reset (R384, R400, R432, R438, R442, R451, R453) -/

def execBrownoutHoldEnd (vcore : Nat) (s : State) : Host.Outcome State Fault Refusal :=
  act s fun d => atTick (holdEndDue d) (fun e => brownoutHoldEnd e vcore) d

def execClockDomainTimeout (dom : Nat) (s : State) : Host.Outcome State Fault Refusal :=
  act s fun d => atTick? (deferredDue d dom) (fun e => domainTimeout e dom) d

def execHoldupEnergyTimeout (s : State) : Host.Outcome State Fault Refusal := act s fun d => atTick (energyDue d) energyTimeout d

def execBringupWatchdogExpiry (s : State) : Host.Outcome State Fault Refusal := act s fun d => atTick (bringupDue d) bringupWatchdog d

def execClaimWaitExpiry (s : State) : Host.Outcome State Fault Refusal := act s fun d => atTick (claimDue d) claimExpiry d

def execWatchdogExpiry (s : State) : Host.Outcome State Fault Refusal := act s fun d => atTick? (wdogDue d) watchdogExpiry d

def execQuiesceTimeout (s : State) : Host.Outcome State Fault Refusal := act s fun d => atTick? (quiesceDue d) quiesceTimeout d

def execBlockResetRelease (s : State) : Host.Outcome State Fault Refusal := act s fun d => atTick? (releaseDue d) resetReleased d

/-! ### Reactions (R458, R459) -/

def execGraceExpiry (source chan : Nat) (s : State) : Host.Outcome State Fault Refusal :=
  act s fun d => atTick? (graceDue d source chan) (fun e => afterReaction (graceExpiry e source chan)) d

/-- When the backoff of a retry ends, while one runs. -/
def retryDue (d : Dev) (source chan : Nat) : Option Nat :=
  let c := fltChanOf d source chan
  if c.backoff then backoffDue c else none

def execRetryBackoffEnd (source chan : Nat) (s : State) : Host.Outcome State Fault Refusal :=
  act s fun d => atTick? (retryDue d source chan) (fun e => afterReaction (retryBackoffEnd e source chan)) d

def execReactionStepComplete (s : State) : Host.Outcome State Fault Refusal :=
  act s fun d => atTick? (stepDue d) (fun e => afterReaction (reactionStepComplete e)) d

/-! ### The twin link (R393 to R399, R404, R408) -/

def execTwinLinkTrained (s : State) : Host.Outcome State Fault Refusal := act s fun d => atTick? (trainDue d) linkTrains d

def execHelloSend (s : State) : Host.Outcome State Fault Refusal := act s fun d => atTick? (helloDue d) sendHello d

/-- The next slot of an enabled chip comes. -/
def slotEvent (sub : Nat) (alive : Bool) (d : Dev) : Dev :=
  let k := slotNext d
  if enOf d baseTwn then whenReached (reachScale d 0 ((k * 1000000 + slotOffset d : Nat) : Rat)) (fun e => timingSend e sub k alive) d else d

def execTimingSend (sub : Nat) (alive : Bool) (s : State) : Host.Outcome State Fault Refusal := act s (slotEvent sub alive)

def execTwinLockLoss (s : State) : Host.Outcome State Fault Refusal := act s fun d => atTick? (lockLossDue d) lockLoss d

/-- The n-th millisecond after the last one accounted for ends. -/
def missEvent (n : Nat) (f : Dev → Dev) (d : Dev) : Dev :=
  if enOf d baseTwn then whenReached (reachScale d 0 ((missAt d n : Nat) : Rat)) f d else d

def execHeartbeatMiss (s : State) : Host.Outcome State Fault Refusal := act s (missEvent 1 missedMs)

def execHeartbeatLoss (s : State) : Host.Outcome State Fault Refusal :=
  act s fun d => missEvent (50 - d.twn.missed) missedAll d

def execMuteTimeout (s : State) : Host.Outcome State Fault Refusal := act s fun d => atTick? (muteDue d) muteTimeout d

/-! ### Audio (R414, R417, R421, R34) -/

def execAudioClockLoss (clk : Nat) (s : State) : Host.Outcome State Fault Refusal :=
  act s fun d => if clkWatched d clk then atTick (lossDue d clk) (fun e => clockLost (audPlace e) clk 1) d else d

/-- The block boundary of an output: now, or when the block that is being sent ends. -/
def blockEvent (n : Nat) (d0 : Dev) : Dev :=
  if 3 < n || !audRuns d0 then d0
  else
    let d := audPlace d0
    if d.aud.frame == 0 then blockBoundary d n else atTick? (boundaryDue d) (fun e => blockBoundary (audPlace e) n) d

def execAudioBlockBoundary (out : Nat) (s : State) : Host.Outcome State Fault Refusal := act s (blockEvent out)

/-- The switch of the domain clock: now, or at the boundary of the block that is being sent. -/
def switchEvent (d0 : Dev) : Dev :=
  if !audRuns d0 || (d0.aud.change.isNone && !d0.aud.returnDue) then d0
  else
    let d := audPlace d0
    if d.aud.frame == 0 then returnSwitch d else atTick? (boundaryDue d) (fun e => returnSwitch (audPlace e)) d

def execAudioReturnSwitch (s : State) : Host.Outcome State Fault Refusal := act s switchEvent

/-- The end of a ramp: now, where its last sample has left, or when the placed edges have sent it. -/
def rampEvent (n : Nat) (d0 : Dev) : Dev :=
  if 3 < n || (audOut d0 n).ramp == 0 then d0
  else
    let d := audPlace d0
    if (audOut d n).rampDone then rampEnd d n
    else atTick? (edgeDue d (rampLeft d n)) (fun e => rampEnd (audPlace e) n) d

def execRampEnd (out : Nat) (s : State) : Host.Outcome State Fault Refusal := act s (rampEvent out)

/-! ### Hold-up (R383) -/

def execDischargeTest (deltaMv : Nat) (s : State) : Host.Outcome State Fault Refusal :=
  act s fun d => if d.start.phase == .held || d.gen.mode == .off then d else atTick (htestDue d) (fun e => dischargeTest e deltaMv) d

/-! ### Ports' retries -/

def execPortRetryBackoffEnd (port : Nat) (s : State) : Host.Outcome State Fault Refusal :=
  act s fun d => atTick? (portRetryDue d port) (fun e => portRetryEnd e port) d

end Sys2Proof.Machine
end

