-- ==== Sys2Proof/Machine/Dispatch.lean ====
section
/-! DEFINITION. One arm for each command: a direct call of its meaning. -/
namespace Sys2Proof.Machine
open Sys2Proof

/-- The effect of a command on everything but the queue. -/
def exec (i : Instr) (s : State) : Host.Outcome State Fault Refusal :=
  match i with
  | .coreRailsValid => Sys2Proof.Machine.execCoreRailsValid s
  | .coreRailsFail => Sys2Proof.Machine.execCoreRailsFail s
  | .porstNLow => Sys2Proof.Machine.execPorstNLow s
  | .porstNRise testmode => Sys2Proof.Machine.execPorstNRise testmode s
  | .rstNLow => Sys2Proof.Machine.execRstNLow s
  | .rstNRelease => Sys2Proof.Machine.execRstNRelease s
  | .perstN => Sys2Proof.Machine.execPerstN s
  | .functionLevelReset fn => Sys2Proof.Machine.execFunctionLevelReset fn s
  | .brownoutHoldBegin vcore => Sys2Proof.Machine.execBrownoutHoldBegin vcore s
  | .brownoutHoldEnd vcore => Sys2Proof.Machine.execBrownoutHoldEnd vcore s
  | .brownoutReset vcore => Sys2Proof.Machine.execBrownoutReset vcore s
  | .brownoutResetRelease vcore => Sys2Proof.Machine.execBrownoutResetRelease vcore s
  | .trimLoadComplete crcOk image => Sys2Proof.Machine.execTrimLoadComplete crcOk image s
  | .clockDomainGood d hz => Sys2Proof.Machine.execClockDomainGood d hz s
  | .clockDomainTimeout d => Sys2Proof.Machine.execClockDomainTimeout d s
  | .clockLoss d => Sys2Proof.Machine.execClockLoss d s
  | .charterFlashReadComplete slot image => Sys2Proof.Machine.execCharterFlashReadComplete slot image s
  | .flashIoFail => Sys2Proof.Machine.execFlashIoFail s
  | .fabricBuildComplete => Sys2Proof.Machine.execFabricBuildComplete s
  | .selfTestComplete res => Sys2Proof.Machine.execSelfTestComplete res s
  | .holdupEnergyTimeout => Sys2Proof.Machine.execHoldupEnergyTimeout s
  | .bringupWatchdogExpiry => Sys2Proof.Machine.execBringupWatchdogExpiry s
  | .startSuccessCount => Sys2Proof.Machine.execStartSuccessCount s
  | .claimWaitExpiry => Sys2Proof.Machine.execClaimWaitExpiry s
  | .twfloorLowInClaim => Sys2Proof.Machine.execTwfloorLowInClaim s
  | .watchdogExpiry => Sys2Proof.Machine.execWatchdogExpiry s
  | .rstWdogWrite req val => Sys2Proof.Machine.execRstWdogWrite req val s
  | .rstCmdBlockReset req val => Sys2Proof.Machine.execRstCmdBlockReset req val s
  | .rstCmdChipReset req val => Sys2Proof.Machine.execRstCmdChipReset req val s
  | .rstCmdCoresReset req val => Sys2Proof.Machine.execRstCmdCoresReset req val s
  | .blockQuiesced => Sys2Proof.Machine.execBlockQuiesced s
  | .quiesceTimeout => Sys2Proof.Machine.execQuiesceTimeout s
  | .blockResetRelease => Sys2Proof.Machine.execBlockResetRelease s
  | .bell inp => Sys2Proof.Machine.execBell inp s
  | .suppressedWrap => Sys2Proof.Machine.execSuppressedWrap s
  | .preBell => Sys2Proof.Machine.execPreBell s
  | .stageArming b => Sys2Proof.Machine.execStageArming b s
  | .checkpointComplete => Sys2Proof.Machine.execCheckpointComplete s
  | .ledgerExtractIssue signedInTime => Sys2Proof.Machine.execLedgerExtractIssue signedInTime s
  | .ledgerRingDelivery => Sys2Proof.Machine.execLedgerRingDelivery s
  | .tallyRingDelivery => Sys2Proof.Machine.execTallyRingDelivery s
  | .registerWrite req off bytes val => Sys2Proof.Machine.execRegisterWrite req off bytes val s
  | .readClearRead req off bytes => Sys2Proof.Machine.execReadClearRead req off bytes s
  | .latchingRead req off bytes => Sys2Proof.Machine.execLatchingRead req off bytes s
  | .aliasRead req off bytes => Sys2Proof.Machine.execAliasRead req off bytes s
  | .aliasWrite req off bytes val => Sys2Proof.Machine.execAliasWrite req off bytes val s
  | .indDataRead req slot => Sys2Proof.Machine.execIndDataRead req slot s
  | .indDataWrite req slot val => Sys2Proof.Machine.execIndDataWrite req slot val s
  | .indTimeout req slot => Sys2Proof.Machine.execIndTimeout req slot s
  | .genVerOfferWrite req val => Sys2Proof.Machine.execGenVerOfferWrite req val s
  | .tscLrdSelWrite req val => Sys2Proof.Machine.execTscLrdSelWrite req val s
  | .scSetNsWrite req scale val => Sys2Proof.Machine.execScSetNsWrite req scale val s
  | .scStepHiWrite req scale val => Sys2Proof.Machine.execScStepHiWrite req scale val s
  | .loadStream req => Sys2Proof.Machine.execLoadStream req s
  | .loadFlash req slot => Sys2Proof.Machine.execLoadFlash req slot s
  | .arm req => Sys2Proof.Machine.execArm req s
  | .flashWrite req slot => Sys2Proof.Machine.execFlashWrite req slot s
  | .abort req => Sys2Proof.Machine.execAbort req s
  | .chtLoadDataWrite req val => Sys2Proof.Machine.execChtLoadDataWrite req val s
  | .verifyComplete => Sys2Proof.Machine.execVerifyComplete s
  | .shadowBuildComplete => Sys2Proof.Machine.execShadowBuildComplete s
  | .flashWriteComplete equal => Sys2Proof.Machine.execFlashWriteComplete equal s
  | .holdoverPointBoundary scale => Sys2Proof.Machine.execHoldoverPointBoundary scale s
  | .refPresent ref => Sys2Proof.Machine.execRefPresent ref s
  | .refQualify ref => Sys2Proof.Machine.execRefQualify ref s
  | .refLoss ref cause => Sys2Proof.Machine.execRefLoss ref cause s
  | .holdoffExpiry stall => Sys2Proof.Machine.execHoldoffExpiry stall s
  | .refEvaluation meas => Sys2Proof.Machine.execRefEvaluation meas s
  | .selDclrWrite req stall val => Sys2Proof.Machine.execSelDclrWrite req stall val s
  | .refLockoutWrite req val => Sys2Proof.Machine.execRefLockoutWrite req val s
  | .stallUpdate stall phase => Sys2Proof.Machine.execStallUpdate stall phase s
  | .apllLockAssert n => Sys2Proof.Machine.execApllLockAssert n s
  | .apllLockLoss n => Sys2Proof.Machine.execApllLockLoss n s
  | .apllRefLoss n => Sys2Proof.Machine.execApllRefLoss n s
  | .phaseStepperStep n half => Sys2Proof.Machine.execPhaseStepperStep n half s
  | .pulseInstant n => Sys2Proof.Machine.execPulseInstant n s
  | .pulseWidthEnd trig n => Sys2Proof.Machine.execPulseWidthEnd trig n s
  | .pulseInputEdge ref falling sub => Sys2Proof.Machine.execPulseInputEdge ref falling sub s
  | .missingInputPulse ref => Sys2Proof.Machine.execMissingInputPulse ref s
  | .gridBoundary g => Sys2Proof.Machine.execGridBoundary g s
  | .gridEdge g sub => Sys2Proof.Machine.execGridEdge g sub s
  | .gridFlywheel g => Sys2Proof.Machine.execGridFlywheel g s
  | .triggerInstant n => Sys2Proof.Machine.execTriggerInstant n s
  | .trnCntHiWrite req n val => Sys2Proof.Machine.execTrnCntHiWrite req n val s
  | .captureEdge n falling sub => Sys2Proof.Machine.execCaptureEdge n falling sub s
  | .trnCap0Read req n => Sys2Proof.Machine.execTrnCap0Read req n s
  | .tdcStartEdge e => Sys2Proof.Machine.execTdcStartEdge e s
  | .tdcStopEdge input e => Sys2Proof.Machine.execTdcStopEdge input e s
  | .tdcWindowExpiry => Sys2Proof.Machine.execTdcWindowExpiry s
  | .tdcTimestampEdge input e => Sys2Proof.Machine.execTdcTimestampEdge input e s
  | .tdcGateClose => Sys2Proof.Machine.execTdcGateClose s
  | .tdcMinute rdy => Sys2Proof.Machine.execTdcMinute rdy s
  | .tdcCalibrationComplete res => Sys2Proof.Machine.execTdcCalibrationComplete res s
  | .tdcRes0Read req => Sys2Proof.Machine.execTdcRes0Read req s
  | .gclkRecovery => Sys2Proof.Machine.execGclkRecovery s
  | .searchDwellComplete who inp => Sys2Proof.Machine.execSearchDwellComplete who inp s
  | .searchTimeout ch => Sys2Proof.Machine.execSearchTimeout ch s
  | .channelTrack ch => Sys2Proof.Machine.execChannelTrack ch s
  | .navUnitDecoded u => Sys2Proof.Machine.execNavUnitDecoded u s
  | .gnssStoreWrite item => Sys2Proof.Machine.execGnssStoreWrite item s
  | .aidRecord content => Sys2Proof.Machine.execAidRecord content s
  | .solutionEpoch inp => Sys2Proof.Machine.execSolutionEpoch inp s
  | .gnPosZHiWrite req val => Sys2Proof.Machine.execGnPosZHiWrite req val s
  | .spectrumUpdate band lines => Sys2Proof.Machine.execSpectrumUpdate band lines s
  | .leapChange => Sys2Proof.Machine.execLeapChange s
  | .gnJncfgLearn req band val => Sys2Proof.Machine.execGnJncfgLearn req band val s
  | .frameReceived port f => Sys2Proof.Machine.execFrameReceived port f s
  | .prpForget port src seq => Sys2Proof.Machine.execPrpForget port src seq s
  | .pauseTimerExpiry port prio => Sys2Proof.Machine.execPauseTimerExpiry port prio s
  | .transmitOpportunity port => Sys2Proof.Machine.execTransmitOpportunity port s
  | .launchQueueEntry port => Sys2Proof.Machine.execLaunchQueueEntry port s
  | .launchStart port => Sys2Proof.Machine.execLaunchStart port s
  | .gateEntryChange port => Sys2Proof.Machine.execGateEntryChange port s
  | .gclCycleStart port => Sys2Proof.Machine.execGclCycleStart port s
  | .macGclCommitWrite req port val => Sys2Proof.Machine.execMacGclCommitWrite req port val s
  | .flowControlThreshold port cls => Sys2Proof.Machine.execFlowControlThreshold port cls s
  | .fcRepeatTimer port cls => Sys2Proof.Machine.execFcRepeatTimer port cls s
  | .linkTrained port speed => Sys2Proof.Machine.execLinkTrained port speed s
  | .linkLoss port => Sys2Proof.Machine.execLinkLoss port s
  | .portTransientFault port cause => Sys2Proof.Machine.execPortTransientFault port cause s
  | .portRetryBackoffEnd port => Sys2Proof.Machine.execPortRetryBackoffEnd port s
  | .syncReceived slot => Sys2Proof.Machine.execSyncReceived slot s
  | .followUpReceived slot => Sys2Proof.Machine.execFollowUpReceived slot s
  | .delayRespReceived slot => Sys2Proof.Machine.execDelayRespReceived slot s
  | .announceReceived slot rank portState => Sys2Proof.Machine.execAnnounceReceived slot rank portState s
  | .delayReqReceived port => Sys2Proof.Machine.execDelayReqReceived port s
  | .pdelayReqReceived port => Sys2Proof.Machine.execPdelayReqReceived port s
  | .unicastRequestReceived port => Sys2Proof.Machine.execUnicastRequestReceived port s
  | .unicastCancelReceived port => Sys2Proof.Machine.execUnicastCancelReceived port s
  | .managementMessageReceived port => Sys2Proof.Machine.execManagementMessageReceived port s
  | .scheduledMessageInstant entry grant mtype => Sys2Proof.Machine.execScheduledMessageInstant entry grant mtype s
  | .trackingDelayReq slot => Sys2Proof.Machine.execTrackingDelayReq slot s
  | .grantRenewalTimer slot mtype => Sys2Proof.Machine.execGrantRenewalTimer slot mtype s
  | .trackingTimeout slot cause => Sys2Proof.Machine.execTrackingTimeout slot cause s
  | .ptCalcmdStore req val => Sys2Proof.Machine.execPtCalcmdStore req val s
  | .calibrationStoreComplete equal => Sys2Proof.Machine.execCalibrationStoreComplete equal s
  | .ntpRequestTaken port => Sys2Proof.Machine.execNtpRequestTaken port s
  | .ntsExchangeBegin => Sys2Proof.Machine.execNtsExchangeBegin s
  | .ntpv4Answer => Sys2Proof.Machine.execNtpv4Answer s
  | .tolCmdAdvance req val => Sys2Proof.Machine.execTolCmdAdvance req val s
  | .epochKeyDerived => Sys2Proof.Machine.execEpochKeyDerived s
  | .mintRecord => Sys2Proof.Machine.execMintRecord s
  | .flushEdge => Sys2Proof.Machine.execFlushEdge s
  | .cacheFilled => Sys2Proof.Machine.execCacheFilled s
  | .doorbellWrite fn rx ring val posts => Sys2Proof.Machine.execDoorbellWrite fn rx ring val posts s
  | .descriptorCompletion rx ring => Sys2Proof.Machine.execDescriptorCompletion rx ring s
  | .interruptTimer rx ring => Sys2Proof.Machine.execInterruptTimer rx ring s
  | .ringEnable req rx ring => Sys2Proof.Machine.execRingEnable req rx ring s
  | .dmaError rx ring addr => Sys2Proof.Machine.execDmaError rx ring addr s
  | .mspiRead addr words early => Sys2Proof.Machine.execMspiRead addr words early s
  | .mspiWrite addr words early => Sys2Proof.Machine.execMspiWrite addr words early s
  | .mspiStatus cmd => Sys2Proof.Machine.execMspiStatus cmd s
  | .hallRequest master id target slot write beats => Sys2Proof.Machine.execHallRequest master id target slot write beats s
  | .hallCompletion master id => Sys2Proof.Machine.execHallCompletion master id s
  | .keyCommit req => Sys2Proof.Machine.execKeyCommit req s
  | .keyInvalidate req node => Sys2Proof.Machine.execKeyInvalidate req node s
  | .invalidateWalkComplete => Sys2Proof.Machine.execInvalidateWalkComplete s
  | .keyLoad req engine node => Sys2Proof.Machine.execKeyLoad req engine node s
  | .keyUnload req engine => Sys2Proof.Machine.execKeyUnload req engine s
  | .keySeal req => Sys2Proof.Machine.execKeySeal req s
  | .sealComplete => Sys2Proof.Machine.execSealComplete s
  | .keyFwmac req => Sys2Proof.Machine.execKeyFwmac req s
  | .fwmacComplete => Sys2Proof.Machine.execFwmacComplete s
  | .keyZeroise req => Sys2Proof.Machine.execKeyZeroise req s
  | .tamperEvent source => Sys2Proof.Machine.execTamperEvent source s
  | .keyTcfgWrite req val => Sys2Proof.Machine.execKeyTcfgWrite req val s
  | .holdupSample vhsns => Sys2Proof.Machine.execHoldupSample vhsns s
  | .dischargeTest deltaMv => Sys2Proof.Machine.execDischargeTest deltaMv s
  | .keyHtestRun req val => Sys2Proof.Machine.execKeyHtestRun req val s
  | .twinLinkTrained => Sys2Proof.Machine.execTwinLinkTrained s
  | .helloSend => Sys2Proof.Machine.execHelloSend s
  | .helloReceived msg => Sys2Proof.Machine.execHelloReceived msg s
  | .timingSend sub alive => Sys2Proof.Machine.execTimingSend sub alive s
  | .timingReceived msg sub => Sys2Proof.Machine.execTimingReceived msg sub s
  | .twinLockLoss => Sys2Proof.Machine.execTwinLockLoss s
  | .heartbeatMiss => Sys2Proof.Machine.execHeartbeatMiss s
  | .heartbeatLoss => Sys2Proof.Machine.execHeartbeatLoss s
  | .abdicateReceived msg => Sys2Proof.Machine.execAbdicateReceived msg s
  | .twfloorRelease => Sys2Proof.Machine.execTwfloorRelease s
  | .twnCmdAbdicate req val => Sys2Proof.Machine.execTwnCmdAbdicate req val s
  | .twnCmdSwap req val => Sys2Proof.Machine.execTwnCmdSwap req val s
  | .handoverReceived msg => Sys2Proof.Machine.execHandoverReceived msg s
  | .handoverAnsReceived msg => Sys2Proof.Machine.execHandoverAnsReceived msg s
  | .bellMessageReceived msg => Sys2Proof.Machine.execBellMessageReceived msg s
  | .muteTimeout => Sys2Proof.Machine.execMuteTimeout s
  | .snapBeginReceived msg => Sys2Proof.Machine.execSnapBeginReceived msg s
  | .snapDataReceived msg => Sys2Proof.Machine.execSnapDataReceived msg s
  | .snapEndReceived msg => Sys2Proof.Machine.execSnapEndReceived msg s
  | .snapAckReceived msg => Sys2Proof.Machine.execSnapAckReceived msg s
  | .audioEdge clk frame => Sys2Proof.Machine.execAudioEdge clk frame s
  | .audioClockLoss clk => Sys2Proof.Machine.execAudioClockLoss clk s
  | .audioBlockBoundary out => Sys2Proof.Machine.execAudioBlockBoundary out s
  | .audioReturnSwitch => Sys2Proof.Machine.execAudioReturnSwitch s
  | .rampEnd out => Sys2Proof.Machine.execRampEnd out s
  | .loopThroughSlip out => Sys2Proof.Machine.execLoopThroughSlip out s
  | .faultReport source chan detail => Sys2Proof.Machine.execFaultReport source chan detail s
  | .graceExpiry source chan => Sys2Proof.Machine.execGraceExpiry source chan s
  | .fltAckWrite req val => Sys2Proof.Machine.execFltAckWrite req val s
  | .retryBackoffEnd source chan => Sys2Proof.Machine.execRetryBackoffEnd source chan s
  | .reactionStepComplete => Sys2Proof.Machine.execReactionStepComplete s
  | .fltInjWrite req val => Sys2Proof.Machine.execFltInjWrite req val s
  | .fltEnt0Read req => Sys2Proof.Machine.execFltEnt0Read req s
  | .fltSrcSelWrite req val => Sys2Proof.Machine.execFltSrcSelWrite req val s
  | .ptGrdSelWrite req val => Sys2Proof.Machine.execPtGrdSelWrite req val s
  | .keyNrdSelWrite req val => Sys2Proof.Machine.execKeyNrdSelWrite req val s
  | .twinLinkLoss => Sys2Proof.Machine.execTwinLinkLoss s
  | .channelLockLoss ch => Sys2Proof.Machine.execChannelLockLoss ch s
  | .oscrdyFall => Sys2Proof.Machine.execOscrdyFall s
  | .vbatLoss => Sys2Proof.Machine.execVbatLoss s
  | .unicastGrantReceived slot => Sys2Proof.Machine.execUnicastGrantReceived slot s
  | .pdelayRespReceived port => Sys2Proof.Machine.execPdelayRespReceived port s
  | .jtagInstructionUpdate instr => Sys2Proof.Machine.execJtagInstructionUpdate instr s

end Sys2Proof.Machine
end

