-- ==== Sys2Proof/Machine/Step.lean ====
section
/-! DEFINITION. One step of the block: the command at the front of the queue, run on the state with the queue's rest. -/
namespace Sys2Proof.Machine
open Sys2Proof

/-- Take the command at the front; on an empty queue one TCLK passes (DESIGN CHOICE, log 20). -/
def step (s : State) : Host.Outcome State Fault Refusal :=
  match s.pending with
  | i :: rest => exec i { s with pending := rest }
  | [] => idle s

/-- Put the command that a word spells at the front of the queue; no row of the table gives bits, so no word spells one and the state stays (log 1). -/
def State.withFetchWord (s : State) (nbits w : Nat) : State :=
  match decodeTableWord nbits w with
  | some i => { s with pending := i :: s.pending }
  | none => s

end Sys2Proof.Machine
end

