-- ==== Sys2Proof/Safety.lean ====
section
/-! DEFINITION. What counts as a safe run, and the terms the statements use: what a command answers, what its end leaves, how an access is served. -/
namespace Sys2Proof.Machine
open Sys2Proof

/-- A step answers a next state. -/
def StepSafe (s : State) : Prop := ∃ t, step s = .next t

/-- A step that neither faults nor refuses keeps the machine running for n steps. -/
def RunSafe (n : Nat) (s : State) : Prop := ∃ t, Host.Core.run ⟨State, Fault, Refusal, step, State.reset⟩ n s = .next t

/-- The command answers a next state whose queue is the state's own and whose device meets P. -/
def Gives (i : Instr) (s : State) (P : Dev → Prop) : Prop :=
  ∃ t : State, exec i s = .next t ∧ t.pending = s.pending ∧ P t.dev

/-! ### What the end of every command leaves -/

/-- Table 12.3: no port stands in a state that its enables and the mode would move it out of. -/
def portCalm (d : Dev) (p : Nat) : Bool :=
  decide (d.ports.length ≤ p) ||
  (match (portOf d p).st with
   | .disabled => !(portEnabled d p && (inService d || d.gen.mode == .bringup))
   | .retired => enOf d (macWin p) || heldInReset d 13 p
   | _ => portEnabled d p)

/-- R398, R411: a twin key that is gone while messages are protected has left no lock and no partial snapshot. -/
def keyCalm (d : Dev) : Bool :=
  !(twinProtected d 4 && (twinKey d).isNone)
    || (!d.twn.locked && d.twn.rtts.isEmpty && d.twn.departs == 0 && d.twn.partSnap.isNone)

/-- R393: the twin link is neither down while it should train nor in use while its block is off. -/
def twinCalm (d : Dev) : Bool :=
  let en := enOf d baseTwn && !heldInReset d 19 0
  keyCalm d && (if d.twn.link == .down then !(en && (inService d || d.gen.mode == .bringup)) else en)

/-- Ports and twin link stand where their enables and the mode put them. -/
def calm (d : Dev) : Bool := (List.range 6).all (portCalm d) && twinCalm d

/-- Calm, and the pending block sources are those whose condition of Table 15.5 holds (R352). -/
def settled (d : Dev) : Bool :=
  calm d && decide (d.qmg.srcPending = ((List.range 27).map (· + 128)).filter (srcCondition d))

/-- The device without what the end of any command may change: the Tally's counts, the pending sources and their messages, the outputs. -/
def quiet (d : Dev) : Dev := { d with tal := {}, out := [], qmg := { d.qmg with srcPending := [], pba := [] } }

/-- The device without what the end of a command may change in any state, the ports and the twin link that follow their enables included; registers are compared one by one beside it. -/
def restOf (d : Dev) : Dev :=
  { d with
    tal := {}, out := [], regs := []
    qmg := { d.qmg with txq := [], consumed := 0, held := 0, srcPending := [], pba := [] }
    twn := { d.twn with
      link := .down, trainT := 0, pull := false, floorLow := false, locked := false, rtts := [], departs := 0, partSnap := none }
    ports := [], tol := { d.tol with outc := [] }, ptp := { d.ptp with outc := [] } }

/-- A register that the end of a command leaves: any but the STAT and the counters of a port, STAT of TOL and TWN_EVT. -/
def quietKey (k : Nat) : Prop :=
  ¬ ((0x280000 ≤ k ∧ k < 0x2E0000 ∧ (k % 0x10000 = 8 ∨ (0x100 ≤ k % 0x10000 ∧ k % 0x10000 < 0x180))) ∨ k = 0x340008 ∨ k = 0x480058)

/-- The canonical form of every register store, of the words in effect and of the NV store. -/
def Dev.canonical (d : Dev) : Bool := sparseWf resetWord d.regs && sparseWf resetWord d.eff && sparseWf nvBlank d.nv

/-! ### A served access -/

/-- The register an offset reaches: an alias word reaches the register of its bit (R59). -/
def regAt (off : Nat) : Nat := if off < 0x800000 then off else (off - 0x800000) / 128 * 4

/-- The access of a requester reaches its block: it is not turned away, privilege lets it through, and the block is not in reset. -/
def Served (d : Dev) (r : Requester) (off : Nat) : Prop :=
  turnedAway d r off = none ∧ (wardenOnly (regAt off) = true → isWarden r = true) ∧ inBlockReset d (regAt off) = false

/-- Nothing that a requester has written through an indirect window is still on its way. -/
def indIdle (d : Dev) : Prop := d.indWait = []

end Sys2Proof.Machine
end

