-- ==== Sys2Proof/Certificates/Slice0/Obligations.lean ====
section
/-! DEFINITION. The statements for the provers: what each command does and leaves alone, the rules of the Ledger, of faults, of access, and what every step keeps. -/
namespace Sys2Proof.Machine
open Sys2Proof

/-- The device as a command finds it: it has put nothing out yet. -/
def fresh (s : State) : Dev := { s.dev with out := [] }

/-- The device as a served access reaches its block: the access counted by the Tally, answered with no data yet. -/
def reached (s : State) (r : Requester) (off ev : Nat) : Dev :=
  tally { s.dev with out := [], resp := ⟨.ok, []⟩ } ((slotOf (regAt off)).getD 24) 1 ev (some (accOf r (regAt off)))

/-- `e` is `d` but for the Tally's counts, the pending sources with their messages, and the outputs. -/
def Same (e d : Dev) : Prop := quiet e = quiet d

/-- `e` is `d` as the end of any command leaves it: ports and the twin link follow their enables. -/
def Ends (e d : Dev) : Prop := restOf e = restOf d ∧ ∀ k, quietKey k → rg e k = rg d k

/-- Reports that a source has made (R457). -/
def raisedBy (d : Dev) (code : Nat) : Nat := (fltSourceOf d code).raised

/-- The device with an access answered: `ws` are the words it returns, none for a write. -/
def answered (s : State) (ws : List Word) : Dev := { s.dev with resp := ⟨.ok, ws⟩ }

/-- What the equation of R108 leaves of a working scale, with what the running Bell interval has added so far. -/
def imbalance (d : Dev) (b : Bool) : Int :=
  leftOf d b - ((scaleOf d b).steps + (scaleOf d b).drift) - (scaleOf d b).f * ((d.t - d.tsc.lastBellT).toNat : Int)

/-- The device at a value of the free counter: the time up to it has passed, and the coming Bell lies beyond it. -/
def At (s : State) (due : Nat) (d : Dev) : Prop := reachTick (fresh s) due = some d

/-- The device when TS-O, TS-A or TS-B (0, 1, 2) reaches a value in ns. -/
def AtScale (s : State) (sc : Nat) (ns : Rat) (d : Dev) : Prop := reachScale (fresh s) sc ns = some d

/-- The record that the n-th write to a half of the Ledger left. -/
def recAt (d : Dev) (b : Bool) (n : Nat) : LedgerRec := sparseGet blankRec (scaleOf d b).ram (n % 4096)

/-- What a failed start leaves (R444, R445): the attempt counted with its reason; at LIMIT MINIMAL, which shows the reason; below it a new start. -/
def StartFailed (e d : Dev) (reason detail : Nat) : Prop :=
  e.backup.attempt = min 7 (d.backup.attempt + 1) ∧ e.backup.lastFail = reason ∧ e.backup.failDetail = detail ∧
  (limitOf d ≤ min 7 (d.backup.attempt + 1) → e.gen.mode = .minimal ∧ e.start.phase = .done ∧
    e.backup.fallback = reason ∧ e.backup.fallbackDetail = detail ∧ e.gen.coresRun = false) ∧
  (min 7 (d.backup.attempt + 1) < limitOf d → d.start.minimalDue = false →
    e.gen.mode = .bringup ∧ e.start.phase = (if d.start.shadowsValid then .clocks else .trimLoad) ∧ e.tsc = {} ∧ e.cht.cur = none)

/-- What a warm reset by a source leaves (R448, R449, R444): the source recorded and counted; the start from its clock bring-up, or its trim load; a reset within a start attempt, before its 60th Bell in service, counted as failed for reason 9 with the source. -/
def Restarted (e d : Dev) (src : Nat) : Prop :=
  e.backup.lastSrc = src ∧ (src < d.backup.rstCnt.length → e.backup.rstCnt.getD src 0 = min 65535 (d.backup.rstCnt.getD src 0 + 1)) ∧
  e.power = d.power ∧ e.start.shadowsValid = d.start.shadowsValid ∧ e.start.fuses = d.start.fuses ∧
  (d.start.minimalDue = false → d.gen.mode ≠ .minimal →
    (d.backup.inAttempt = false ∨ 60 ≤ d.backup.bells ∨ d.backup.attempt + 1 < limitOf d ∧ d.backup.attempt < 7 →
      e.gen.mode = .bringup ∧ e.start.phase = (if d.start.shadowsValid then .clocks else .trimLoad) ∧ e.tsc = {} ∧ e.cht.cur = none) ∧
    (d.backup.inAttempt = true → d.backup.bells < 60 →
      e.backup.attempt = min 7 (d.backup.attempt + 1) ∧ e.backup.lastFail = 9 ∧ e.backup.failDetail = src ∧ e.backup.inAttempt = false))

/-- An edge on a TDC input as it is resolved (R213): the coarse count, the fine time of its code, its direction. -/
def edgeAs (d : Dev) (n : Nat) (x : TdcIn) : TdcEdge :=
  ⟨d.t.toNat, fineTime (tdcTable d (d.tdc.intp.getD n 15)) (x.code % 2048), fallingIn x,
    tableStale d (d.tdc.intp.getD n 15), d.bellCnt.toNat % 65536⟩

/-- An input takes an edge: it runs, the edge crosses its threshold with a slope it wants, and the dead time after the last is over (R212). -/
def Accepts (d : Dev) (n : Nat) (x : TdcIn) : Prop :=
  edgePasses d n x = true ∧ ∀ l, d.tdc.lastEdge.getD n none = some l → l + 4 * 2 ^ 21 ≤ edgeTime (edgeAs d n x)

/-- The oldest message the Crier has taken that meets a test, and the frame it came in. -/
def Heard (d : Dev) (p : PtpMsg → Bool) (f : Taken) (x : PtpMsg) : Prop :=
  d.taken.find? (fun t => t.ptp && (msgOf t).any p) = some f ∧ msgOf f = some x

/-- The oldest Signaling message that meets a test and has TLVs of a type not yet handled; these TLVs. -/
def Signalled (d : Dev) (p : PtpMsg → Bool) (t : Nat) (f : Taken) (x : PtpMsg) (l : List (List Byte)) : Prop :=
  Heard d (fun m => m.type == 12 && p m && !m.rx.handled.contains t && (signalTlvs m).any (·.1 == t)) f x ∧
    ((signalTlvs x).filter (·.1 == t)).map (·.2) = l

/-- A twin message without protection that the device would send next (R395): type, flags, length, SEQ and Bell before the payload, a CRC-32 after it. -/
def plainTwin (d : Dev) (type : Nat) (payload : List Byte) : List Byte :=
  let b := beBytes 1 type ++ beBytes 1 (b2n d.twn.pull + 2 * twinSide d + 4 * b2n (twinProt d)) ++ beBytes 2 payload.length
    ++ beBytes 4 (d.twn.txSeq % 2 ^ 32) ++ beBytes 8 d.bellCnt.toNat ++ payload
  b ++ beBytes 4 (crc32 b).toNat

/-- No reference and no lock goes with what has just happened (R158, R179, R271). -/
def Undisturbed (d : Dev) : Prop := afterReaction d = d

/-- The counter i of a port (Table 12.8). -/
def cntKey (p i : Nat) : Nat := MAC_CNT + p * 0x10000 + 4 * i

end Sys2Proof.Machine

/-! ### Power, resets and the start (chapter 19) -/

section
open Sys2Proof Sys2Proof.Machine

/-- R44, R448: the core rails and the reset pins. OFF without rails; a pin held low holds the device in reset and is recorded as its source; its rise begins a start. -/
def Obligations.RailsAndPins : Prop :=
  (∀ s, Gives .coreRailsFail s fun e => e.gen.mode = .off ∧ e.power.railsValid = false ∧ e.backup = s.dev.backup ∧
      e.start.phase = .idle ∧ e.start.shadowsValid = false ∧ e.tsc = {} ∧ e.gnsStore = s.dev.gnsStore) ∧
  (∀ s, s.dev.power.railsValid = false → s.dev.power.porstLow = false → s.dev.power.rstnLow = false →
    Gives .coreRailsValid s fun e => e.gen.mode = .bringup ∧ e.power.railsValid = true ∧ e.start.phase = .trimLoad ∧
      e.start.shadowsValid = false ∧ e.tsc = {} ∧
      (s.dev.backup.inAttempt = true → s.dev.backup.bells < 60 → s.dev.gen.mode ≠ .minimal →
        e.backup.attempt = min 7 (s.dev.backup.attempt + 1) ∧ e.backup.lastFail = 9 ∧ e.backup.failDetail = 8)) ∧
  (∀ s, s.dev.power.railsValid = true → s.dev.power.porstLow = false → 0 < s.dev.backup.rstCnt.length →
    Gives .porstNLow s fun e => e.power.porstLow = true ∧ e.start.phase = .held ∧ e.start.shadowsValid = false ∧
      e.backup.lastSrc = 0 ∧ e.backup.rstCnt.getD 0 0 = min 65535 (s.dev.backup.rstCnt.getD 0 0 + 1)) ∧
  (∀ s tm, s.dev.power.porstLow = true → s.dev.power.railsValid = true → s.dev.power.rstnLow = false →
    s.dev.power.brownReset = false → s.dev.start.phase = .held →
    Gives (.porstNRise tm) s fun e => e.power.porstLow = false ∧ e.start.testSampled = tm ∧
      (s.dev.start.shadowsValid = false → e.start.phase = .trimLoad) ∧
      (s.dev.start.shadowsValid = true → s.dev.start.minimalDue = false → e.start.phase = .clocks)) ∧
  (∀ s, s.dev.power.railsValid = true → s.dev.power.rstnLow = false → s.dev.power.porstLow = false →
    s.dev.power.brownReset = false → 2 < s.dev.backup.rstCnt.length →
    Gives .rstNLow s fun e => e.power.rstnLow = true ∧ e.start.phase = .held ∧ e.backup.lastSrc = 2 ∧
      e.start.shadowsValid = s.dev.start.shadowsValid ∧
      e.backup.rstCnt.getD 2 0 = min 65535 (s.dev.backup.rstCnt.getD 2 0 + 1)) ∧
  (∀ s, s.dev.power.rstnLow = true → s.dev.power.railsValid = true → s.dev.power.porstLow = false →
    s.dev.power.brownReset = false → s.dev.start.phase = .held →
    Gives .rstNRelease s fun e => e.power.rstnLow = false ∧
      (s.dev.start.shadowsValid = false → e.start.phase = .trimLoad) ∧
      (s.dev.start.shadowsValid = true → s.dev.start.minimalDue = false → e.start.phase = .clocks))

/-- R362, R432, R433, R448: PERST_N and an FLR of function 0 clear every ring's EN and both take the function's MSI-X words back to their reset values; an FLR of function 1 leaves the rings. A brownout hold is logged and ends; a brownout reset holds the device in reset under source 1 until it is released. -/
def Obligations.EndpointAndBrownoutResets : Prop :=
  (∀ s, s.dev.gen.mode ≠ .off → s.dev.start.phase ≠ .held →
    Gives .perstN s fun e => (∀ q, q < 64 → rgb e (cfgTx q) 31 = false ∧ rgb e (cfgRx q) 31 = false) ∧
      (∀ w, e.qmg.msix.all (fun x => x.1 / 2 ^ 20 != w % 2) = true) ∧ e.power = s.dev.power ∧ e.gen = s.dev.gen ∧
      e.tsc = s.dev.tsc) ∧
  (∀ s, s.dev.gen.mode ≠ .off → s.dev.start.phase ≠ .held →
    Gives (.functionLevelReset 0) s fun e => (∀ q, q < 64 → rgb e (cfgTx q) 31 = false ∧ rgb e (cfgRx q) 31 = false) ∧
      e.qmg.msix.all (fun x => x.1 / 2 ^ 20 != 0) = true ∧ e.backup = s.dev.backup ∧ e.gen = s.dev.gen) ∧
  (∀ s, s.dev.gen.mode ≠ .off → s.dev.start.phase ≠ .held → (fuses s.dev).wardenPcie = true →
    Gives (.functionLevelReset 1) s fun e => e.qmg.msix = s.dev.qmg.msix.filter (fun x => x.1 / 2 ^ 20 != 1) ∧
      e.backup = s.dev.backup ∧ e.gen = s.dev.gen ∧ ∀ k, quietKey k → rg e k = rg s.dev k) ∧
  (∀ s v, s.dev.power.railsValid = true → s.dev.power.hold = false → s.dev.power.brownReset = false → v < 705 →
    Gives (.brownoutHoldBegin v) s fun e => e.power = { s.dev.power with hold := true, holdT := s.dev.t, vcore := v } ∧
      raisedBy e srcBrownoutHold = raisedBy s.dev srcBrownoutHold + 1 ∧
      rgf e RST_BROWN 31 16 = min 65535 (rgf s.dev RST_BROWN 31 16 + 1) ∧ e.gen = s.dev.gen ∧ e.key = s.dev.key) ∧
  (∀ s v d, At s (holdEndDue (fresh s)) d →
    Gives (.brownoutHoldEnd v) s fun e =>
      e.power = { d.power with hold := (if 705 ≤ v then false else d.power.hold), vcore := v } ∧
      e.gen = d.gen ∧ e.flt = d.flt ∧ ∀ k, quietKey k → k ≠ RST_VCORE → rg e k = rg d k) ∧
  (∀ s v, s.dev.power.railsValid = true → s.dev.power.brownReset = false → s.dev.power.porstLow = false → v < 665 →
    1 < s.dev.backup.rstCnt.length →
    Gives (.brownoutReset v) s fun e => e.power.brownReset = true ∧ e.power.hold = false ∧ e.start.phase = .held ∧
      e.start.shadowsValid = false ∧ e.backup.lastSrc = 1 ∧
      e.backup.rstCnt.getD 1 0 = min 65535 (s.dev.backup.rstCnt.getD 1 0 + 1)) ∧
  (∀ s v, s.dev.power.brownReset = true → s.dev.power.railsValid = true → s.dev.power.porstLow = false →
    s.dev.power.rstnLow = false → s.dev.start.phase = .held → 705 ≤ v →
    Gives (.brownoutResetRelease v) s fun e => e.power.brownReset = false ∧ e.power.vcore = v ∧
      (s.dev.start.shadowsValid = false → e.start.phase = .trimLoad) ∧
      (s.dev.start.shadowsValid = true → s.dev.start.minimalDue = false → e.start.phase = .clocks)) ∧
  (∀ s v, s.dev.power.brownReset = true → v < 705 →
    Gives (.brownoutResetRelease v) s fun e => e.power = { s.dev.power with vcore := v } ∧ e.start = s.dev.start)

/-- R435, R436, R438, R439, R455: a trim load loads the shadows or is repeated three times; a domain found good, deferred or failed while others are still to be judged; a deferred domain whose time is over; the loss of a running domain, whose reaction does not reset the chip. -/
def Obligations.TrimAndClocks : Prop :=
  (∀ s img, s.dev.start.phase = .trimLoad →
    Gives (.trimLoadComplete true img) s fun e => e.start.shadowsValid = true ∧ e.start.fuses = img ∧
      e.backup.bkpTrim = img.bkpTrim ∧ e.power = s.dev.power ∧
      (img.factoryEn = true → s.dev.start.testSampled = true → e.gen.mode = .factory ∧ e.start.phase = .clocks) ∧
      (img.factoryEn = false ∨ s.dev.start.testSampled = false → s.dev.start.minimalDue = false →
        e.gen = s.dev.gen ∧ e.start.phase = .clocks)) ∧
  (∀ s img, s.dev.start.phase = .trimLoad → s.dev.start.trimLoads < 3 →
    Gives (.trimLoadComplete false img) s fun e =>
      e.start = { s.dev.start with trimLoads := s.dev.start.trimLoads + 1 } ∧ e.gen = s.dev.gen) ∧
  (∀ s img, s.dev.start.phase = .trimLoad → 3 ≤ s.dev.start.trimLoads → s.dev.gen.mode ≠ .factory →
    Gives (.trimLoadComplete false img) s fun e => StartFailed e s.dev 1 0) ∧
  (∀ s dom hz, dom < s.dev.start.domains.length → dom ≤ 19 → s.dev.start.phase ≠ .held → s.dev.gen.mode ≠ .off →
    nearNominal dom hz = true → domainOf s.dev dom = .waiting → (dom = 1 → (oscNominal hz).isSome = true) →
    (∃ k, k < 20 ∧ k ≠ dom ∧ (essential k || nonEssential k) = true ∧ domainOf s.dev k = .waiting) →
    Gives (.clockDomainGood dom hz) s fun e =>
      (∀ k, domainOf e k = if k = dom then .good else domainOf s.dev k) ∧ e.gen = s.dev.gen ∧ e.start.phase = s.dev.start.phase ∧
      (dom = 2 → e.tsc.running = true) ∧ (dom = 1 → e.start.oscHz = (oscNominal hz).getD 0)) ∧
  (∀ s dom d, At s s.dev.t.toNat d → domainOf s.dev dom = .waiting → domainOf d dom = .waiting → dom < d.start.domains.length →
    d.start.phase = .clocks → (essential dom || nonEssential dom) = true →
    (∃ k, k < 20 ∧ k ≠ dom ∧ (essential k || nonEssential k) = true ∧ domainOf d k = .waiting) →
    Gives (.clockDomainTimeout dom) s fun e =>
      (∀ k, domainOf e k = if k = dom then (if dom = 12 ∨ dom = 13 then .deferred else .failed) else domainOf d k) ∧
      raisedBy e srcClockFail = raisedBy d srcClockFail + (if dom = 12 ∨ dom = 13 then 0 else 1) ∧
      e.tsc = d.tsc ∧ e.start.phase = .clocks) ∧
  (∀ s dom t d, domainOf s.dev dom = .deferred → s.dev.start.ethT = some t → At s (t.toNat + 10 * ms) d →
    domainOf d dom = .deferred → dom < d.start.domains.length → d.cht.cur.isSome = true →
    Gives (.clockDomainTimeout dom) s fun e => domainOf e dom = .failed ∧ (∀ k, k ≠ dom → domainOf e k = domainOf d k) ∧
      raisedBy e srcClockFail = raisedBy d srcClockFail + 1 ∧ (dom = 12 → heldInReset e 19 0 = true) ∧
      (dom = 13 → ∀ p, p < 6 → heldInReset e 13 p = true) ∧ e.tsc = d.tsc ∧ e.power = d.power) ∧
  (∀ s dom, domainOf s.dev dom = .good → s.dev.flt.reactions = [] → s.dev.flt.waiting = [] →
    (policyEntry s.dev srcClockLoss).ladder.testBit 3 = false →
    Gives (.clockLoss dom) s fun e => (∀ k, domainOf e k = if k = dom then .lost else domainOf s.dev k) ∧
      raisedBy e srcClockLoss = raisedBy s.dev srcClockLoss + 1 ∧
      ((fltChanOf s.dev srcClockLoss 0).grace = none → (fltChanOf e srcClockLoss 0).latched = true ∧
        (fltChanOf e srcClockLoss 0).perm = true))

/-- R81, R82, R84, R440, R442 to R444, R384, R400: the charter's steps of a start, the self-test and the end of the start, in service or in a failed attempt. -/
def Obligations.StartSteps : Prop :=
  (∀ s k image, s.dev.cht.st = .loading → s.dev.cht.startSlot = some k → headCheck image 4194304 = none →
    Gives (.charterFlashReadComplete k image) s fun e => e.cht.st = .verifying ∧
      e.cht.buf = image.take (readHeader image).imageLen ∧ e.cht.startSlot = some k ∧ e.start = s.dev.start ∧ e.gen = s.dev.gen) ∧
  (∀ s k image c, s.dev.cht.st = .loading → s.dev.cht.startSlot = some k → headCheck image 4194304 = some c →
    s.dev.cht.prefErr = none →
    Gives (.charterFlashReadComplete k image) s fun e => e.cht.st = .loading ∧ e.cht.startSlot = some (1 - k) ∧
      e.cht.prefErr = some c ∧ e.cht.errCode = c ∧ e.cht.buf = [] ∧ e.start = s.dev.start ∧ e.gen = s.dev.gen) ∧
  (∀ s, s.dev.cht.st = .loading → s.dev.cht.startSlot = none → s.dev.cht.slot.isSome = true →
    Gives .flashIoFail s fun e => e.cht.st = .error ∧ e.cht.errCode = 0x0F ∧ e.gen = s.dev.gen ∧ e.start = s.dev.start) ∧
  (∀ s k, s.dev.cht.st = .loading → s.dev.cht.startSlot = some k → s.dev.cht.prefErr = none →
    Gives .flashIoFail s fun e => e.cht.st = .loading ∧ e.cht.startSlot = some (1 - k) ∧ e.cht.errCode = 0x0F ∧
      e.gen = s.dev.gen ∧ e.start = s.dev.start) ∧
  (∀ s k, s.dev.cht.st = .verifying → s.dev.cht.startSlot = some k →
    Gives .verifyComplete s fun e =>
      (∀ i, verifyImage s.dev s.dev.cht.buf = .inr i → i.hdr.isDelta = false → s.dev.cht.torn.contains k = false →
        e.cht.st = .building ∧ e.start.phase = .build ∧ e.cht.shadow = some (shadowOf s.dev i) ∧ e.gen = s.dev.gen) ∧
      (∀ c x, verifyImage s.dev s.dev.cht.buf = .inl (c, x) → s.dev.cht.prefErr = none →
        e.cht.st = .loading ∧ e.cht.startSlot = some (1 - k) ∧ e.cht.errCode = c ∧ e.cht.prefErr = some c ∧ e.gen = s.dev.gen)) ∧
  (∀ s f k, s.dev.start.phase = .build → s.dev.cht.shadow = some f → s.dev.cht.startSlot = some k →
    Gives .fabricBuildComplete s fun e => e.start.phase = .selfTest ∧ e.cht.st = .idle ∧ e.cht.startSlot = none ∧
      e.cht.altSlot = (k != rgf s.dev CHT_BOOT 0 0) ∧
      (f.fabric.ethref ≠ 0xFF → domainOf s.dev 13 ≠ .failed → e.cht.cur = some f)) ∧
  (∀ s res, s.dev.start.phase = .selfTest → s.dev.gen.mode ≠ .factory → res.sramOk = false →
    Gives (.selfTestComplete res) s fun e => StartFailed e s.dev 6 1) ∧
  (∀ s res, s.dev.start.phase = .selfTest → s.dev.gen.mode ≠ .factory → res.sramOk = true → res.lockstepOk = true →
    res.auditorOk = true → (fuses s.dev).holdcap = 0 →
    Gives (.selfTestComplete res) s fun e => e.start.taps = res.taps ∧ e.start.wdogPaused = false ∧
      (twinConfigured s.dev = false → e.gen.mode = .active ∧ e.start.phase = .done ∧ e.backup.inAttempt = true ∧ e.backup.bells = 0) ∧
      (twinConfigured s.dev = true → res.floorLow = true → e.gen.mode = .standby ∧ e.start.phase = .done) ∧
      (twinConfigured s.dev = true → res.floorLow = false → e.gen.mode = s.dev.gen.mode ∧ e.start.phase = .claimWait)) ∧
  (∀ s res, s.dev.start.phase = .selfTest → s.dev.gen.mode ≠ .factory → res.sramOk = true → res.lockstepOk = true →
    res.auditorOk = true → 0 < (fuses s.dev).holdcap → (fuses s.dev).holdcap * res.deltaMv ≤ 40000 →
    Gives (.selfTestComplete res) s fun e => e.start.taps = res.taps ∧
      (e.start.phase = .energyWait ↔ ¬ (e.key.eValid = true ∧ 1200 ≤ e.key.e)) ∧
      (e.start.phase = .energyWait → e.start.wdogPaused = true ∧ e.start.waitT = s.dev.t ∧ e.gen.mode = s.dev.gen.mode)) ∧
  (∀ s d, At s (energyDue (fresh s)) d → d.start.phase = .energyWait → d.gen.mode ≠ .factory →
    Gives .holdupEnergyTimeout s fun e => StartFailed e d 8 5) ∧
  (∀ s d, At s (bringupDue (fresh s)) d → d.gen.mode = .bringup → d.start.phase = .clocks → d.start.wdogPaused = false →
    Gives .bringupWatchdogExpiry s fun e => StartFailed e d 7 0) ∧
  (∀ s, calm s.dev = true → s.dev.backup.inAttempt = true → 60 ≤ s.dev.backup.bells →
    Gives .startSuccessCount s (Same · { s.dev with backup := { s.dev.backup with attempt := 0, inAttempt := false } })) ∧
  (∀ s d, At s (claimDue (fresh s)) d → d.start.phase = .claimWait → d.twn.floorLow = false →
    Gives .claimWaitExpiry s fun e => e.gen.mode = .active ∧ e.start.phase = .done ∧ e.backup.inAttempt = true ∧
      e.backup.bells = 0 ∧ (calm d = true → twinConfigured d = true → e.twn.pull = true)) ∧
  (∀ s, s.dev.start.phase = .claimWait →
    Gives .twfloorLowInClaim s fun e => e.gen.mode = .standby ∧ e.start.phase = .done ∧ e.backup.inAttempt = true ∧
      e.backup.bells = 0)

/-- R444, R445: a start that fails counts the attempt with its reason; at LIMIT it enters MINIMAL, shows the reason and stops every output; below it the start begins anew. In FACTORY nothing counts. -/
def Obligations.StartFailure : Prop :=
  (∀ d reason detail, d.gen.mode ≠ .factory →
    StartFailed (startFail d reason detail) d reason detail ∧
    (limitOf d ≤ min 7 (d.backup.attempt + 1) → ∀ o, (outOf (startFail d reason detail) o).run = false) ∧
    (startFail d reason detail).power = d.power ∧ (startFail d reason detail).start.shadowsValid = d.start.shadowsValid) ∧
  (∀ d reason detail, d.gen.mode = .factory → startFail d reason detail = d)

/-- R453, R448 to R450: the watchdog's expiry, PERIOD ms after its last kick, and its write; a software chip reset, and one that lacks its key. -/
def Obligations.WatchdogAndChipReset : Prop :=
  (∀ s t d, wdogDue (fresh s) = some t → At s t d → rgb d RST_WDOG 31 = true →
    d.gen.mode = .active ∨ d.gen.mode = .standby ∨ d.gen.mode = .factory →
    Gives .watchdogExpiry s fun e => Restarted e d 4) ∧
  (∀ s, rgb s.dev RST_WDOG 31 = true → s.dev.gen.mode = .active → s.dev.tsc.running = true →
    wdogDue (fresh s) = some (s.dev.gen.kickT.toNat + max 1 (rgf s.dev RST_WDOG 15 0) * 1000000)) ∧
  (∀ s, calm s.dev = true → rgb s.dev RST_WDOG 31 = false ∨ s.dev.gen.mode = .bringup ∨ s.dev.gen.mode = .minimal →
    Gives .watchdogExpiry s (Same · s.dev)) ∧
  (∀ s r v, calm s.dev = true → Served s.dev r RST_WDOG →
    Gives (.rstWdogWrite r v) s fun e =>
      rg e RST_WDOG = w32 (bits v 15 0 + 2 ^ 31 * b2n (bit v 31 || rgb s.dev RST_WDOG 31)) ∧
      e.gen.kickT = (if bits v 23 16 = 0xA5 ∨ (bit v 31 = true ∧ rgb s.dev RST_WDOG 31 = false) then s.dev.t else s.dev.gen.kickT) ∧
      (∀ k, k ≠ RST_WDOG → rg e k = rg s.dev k) ∧
      Same { e with regs := [], gen := s.dev.gen } { answered s [] with regs := [] }) ∧
  (∀ s r v, Served s.dev r RST_CMD → bits v 31 24 = 0xA5 →
    Gives (.rstCmdChipReset r v) s fun e => Restarted e s.dev 6) ∧
  (∀ s r v, calm s.dev = true → Served s.dev r RST_CMD → bits v 31 24 ≠ 0xA5 →
    Gives (.rstCmdChipReset r v) s (Same · (statSet (answered s []) baseRst 17)))

/-- R450 to R452: a block or the control cores are asked to quiesce, unless another reset runs; the reset is asserted when they are idle, or by force at RST_QTIMEOUT; it is held for 64 cycles of the block's clock and released. -/
def Obligations.BlockReset : Prop :=
  (∀ s r v k, calm s.dev = true → Served s.dev r RST_CMD → blockResetTarget v = some k → s.dev.gen.rst = none →
    Gives (.rstCmdBlockReset r v) s fun e =>
      e.gen = { s.dev.gen with rst := some ⟨k, bits v 15 8, false, 0, false, s.dev.t⟩ } ∧
      e.backup = { s.dev.backup with lastTarget := slotBase k / 65536, lastChan := bits v 15 8, lastForced := false } ∧
      e.regs = s.dev.regs ∧ e.eff = s.dev.eff) ∧
  (∀ s r v, calm s.dev = true → Served s.dev r RST_CMD → blockResetTarget v = none ∨ s.dev.gen.rst.isSome = true →
    Gives (.rstCmdBlockReset r v) s (Same · (statSet (answered s []) baseRst 17))) ∧
  (∀ s r v, calm s.dev = true → Served s.dev r RST_CMD → s.dev.gen.rst = none →
    Gives (.rstCmdCoresReset r v) s fun e =>
      e.gen = { s.dev.gen with rst := some ⟨bits v 23 16, bits v 15 8, true, 0, false, s.dev.t⟩ } ∧ e.regs = s.dev.regs) ∧
  (∀ s x, s.dev.gen.rst = some x → x.stage = 0 → 7 < s.dev.backup.rstCnt.length →
    Gives .blockQuiesced s fun e => e.gen.rst = some { x with stage := 1, forced := false, startT := s.dev.t } ∧
      e.backup.lastForced = false ∧ e.backup.rstCnt.getD 7 0 = min 65535 (s.dev.backup.rstCnt.getD 7 0 + 1) ∧
      e.backup.rstForced = s.dev.backup.rstForced ∧ (x.cores = true → e.gen.coresRun = false ∧ e.cores = {})) ∧
  (∀ s x t d, s.dev.gen.rst = some x → x.stage = 0 → quiesceDue (fresh s) = some t → At s t d → d.gen.rst = some x →
    Gives .quiesceTimeout s fun e => e.gen.rst = some { x with stage := 1, forced := true, startT := d.t } ∧
      e.backup.lastForced = true ∧ e.backup.rstForced = min 65535 (d.backup.rstForced + 1) ∧
      (x.cores = true → e.gen.coresRun = false ∧ e.cores = {})) ∧
  (∀ s x, s.dev.gen.rst = some x → x.stage = 0 →
    quiesceDue (fresh s) = some (x.startT.toNat + 1000 * max 10 (min 100000 (rgf s.dev RST_QTIMEOUT 16 0)))) ∧
  (∀ s x t d, s.dev.gen.rst = some x → x.stage = 1 → releaseDue (fresh s) = some t → At s t d → d.gen.rst = some x →
    Gives .blockResetRelease s fun e => e.gen.rst = none ∧ (x.cores = true → e.gen.coresRun = true) ∧ e.power = d.power ∧
      e.tsc.o = d.tsc.o)

end

/-! ### The Bell, the scales and the Ledger (chapters 2 and 5) -/

section
open Sys2Proof Sys2Proof.Machine

/-- R108, R105, R106, R98, R120: the equation of the Ledger is kept by everything that moves a working scale: the counting of TCLKs, the close of a Bell interval, a step, an INC change, a switch of TS-O, a record; a setting and a re-anchoring make it hold. -/
def Obligations.LedgerBalance : Prop :=
  (∀ d b n, (d.t - d.tsc.lastBellT).toNat + n < 2 ^ 64 → -(2 ^ 38) ≤ (scaleOf d b).f → imbalance (advance d n) b = imbalance d b) ∧
  (∀ d b, imbalance (closeInterval d) b = imbalance d b) ∧
  (∀ d b c v source, d.t = d.tsc.lastBellT → imbalance (makeSetting d b v source) c = if c = b then 0 else imbalance d c) ∧
  (∀ d b c source amount, imbalance (applyStep d b source amount) c = imbalance d c) ∧
  (∀ d b c, d.t = d.tsc.lastBellT → imbalance (changeInc d b) c = imbalance d c) ∧
  (∀ d new source c, imbalance (switchOut d new source) c = imbalance d c) ∧
  (∀ d b c, d.t = d.tsc.lastBellT →
    imbalance (reanchor d b) c = if c = b ∧ (scaleOf d b).reanchor = true then 0 else imbalance d c) ∧
  (∀ d half r c, imbalance (writeRec d half r) c = imbalance d c) ∧
  (∀ d b, d.t = d.tsc.lastBellT → imbalance d b = 0 → equationHolds d b = true)

/-- R97: an INC offset outside −2³⁸ to +2³⁸ is clamped to the nearer limit, sets STAT.INC_CLAMP and is recorded as clamped with FLAGS.CLAMP; one inside is not. -/
def Obligations.IncOffsetIsClamped : Prop :=
  ∀ d b f source flags, wantedInc d b = some (f, source, flags) →
    (scaleOf (changeInc d b) b).f = max (-(2 ^ 38)) (min (2 ^ 38) f) ∧
    (f < -(2 ^ 38) ∨ 2 ^ 38 < f → rgb (changeInc d b) (baseTsc + 8) 16 = true) ∧
    (-(2 ^ 38) ≤ f ∧ f ≤ 2 ^ 38 → rg (changeInc d b) (baseTsc + 8) = rg d (baseTsc + 8)) ∧
    ((scaleOf d b).f ≠ clampInc f →
      (recAt (changeInc d b) b (scaleOf d b).lwp.toNat).action = 3 ∧ (recAt (changeInc d b) b (scaleOf d b).lwp.toNat).amount = BitVec.ofInt 64 (max (-(2 ^ 38)) (min (2 ^ 38) f)) ∧ (recAt (changeInc d b) b (scaleOf d b).lwp.toNat).source = source ∧
        ((recAt (changeInc d b) b (scaleOf d b).lwp.toNat).flags.testBit 3 = true ↔ (f < -(2 ^ 38) ∨ 2 ^ 38 < f)))

/-- R104: an INC record is written when the offset after the Bell's change differs from the offset before it, its FLAGS showing the contributor: software in MANUAL, else the holdover model or the stall; an unchanged offset writes none. -/
def Obligations.IncRecordIffChanged : Prop :=
  ∀ d b, ((scaleOf (changeInc d b) b).f ≠ (scaleOf d b).f → (scaleOf (changeInc d b) b).lwp = (scaleOf d b).lwp + 1 ∧
      (recAt (changeInc d b) b (scaleOf d b).lwp.toNat).action = 3 ∧ (recAt (changeInc d b) b (scaleOf d b).lwp.toNat).flags / 16 = (if eff d (SC_CTRL + if b then 0x100 else 0) 0 0 = 1 then 2 else
          match (scaleOf d b).offer with
          | some (_, true) => 4
          | _ => 1)) ∧
    ((scaleOf (changeInc d b) b).f = (scaleOf d b).f → (scaleOf (changeInc d b) b).lwp = (scaleOf d b).lwp ∧
      (scaleOf (changeInc d b) b).ram = (scaleOf d b).ram) ∧
    (scaleOf (changeInc d b) (!b)) = scaleOf d (!b)

/-- R105, R100: a first setting gives its scale the value, on the same TCLK TS-O where it copies the scale; a scale that has had its setting refuses another and shows it. -/
def Obligations.FirstSetting : Prop :=
  (∀ d b v source, (scaleOf d b).setDone = false →
    (scaleOf (trySetting d b (some v) source) b).v = v ∧ (scaleOf (trySetting d b (some v) source) b).setDone = true ∧
    scaleOf (trySetting d b (some v) source) (!b) = scaleOf d (!b) ∧
    (trySetting d b (some v) source).tsc.o = (if d.tsc.cur = b then v else d.tsc.o) ∧
    (trySetting d b (some v) source).tsc.auditor = d.tsc.auditor) ∧
  (∀ d b v source, (scaleOf d b).setDone = true → trySetting d b v source = statSet d baseTsc 18) ∧
  (∀ d b source, trySetting d b none source = statSet d baseTsc 18) ∧
  (∀ lo hi ns frac : Word, softSetting lo hi ns frac = none ↔ 1000000000 ≤ ns.toNat)

/-- R106, R100: a step adds its amount to its scale and to TS-O where it copies the scale, with one record; one that would take the seconds out of their range is refused, shown, and changes no scale. -/
def Obligations.StepOfAScale : Prop :=
  (∀ d b source amount, amount ≠ 0 → 0 ≤ ((scaleOf d b).v : Int) + amount * 2 ^ 32 →
    ((scaleOf d b).v : Int) + amount * 2 ^ 32 < (2 ^ 64 : Int) * secUnit →
    ((scaleOf (applyStep d b source amount) b).v : Int) = (scaleOf d b).v + amount * 2 ^ 32 ∧
    (scaleOf (applyStep d b source amount) b).lwp = (scaleOf d b).lwp + 1 ∧
    scaleOf (applyStep d b source amount) (!b) = scaleOf d (!b) ∧
    (d.tsc.cur ≠ b → (applyStep d b source amount).tsc.o = d.tsc.o) ∧
    (d.tsc.cur = b → 0 ≤ (d.tsc.o : Int) + amount * 2 ^ 32 →
      ((applyStep d b source amount).tsc.o : Int) = d.tsc.o + amount * 2 ^ 32)) ∧
  (∀ d b source amount, amount ≠ 0 → (((scaleOf d b).v : Int) + amount * 2 ^ 32 < 0 ∨
      (2 ^ 64 : Int) * secUnit ≤ ((scaleOf d b).v : Int) + amount * 2 ^ 32) →
    applyStep d b source amount = statSet d baseTsc 17)

/-- R29, R30, R33, R35, R110: a Bell comes to its TCLK, where BELLCNT counts it, GEN_BELL_STAT shows it, the interval closes and the arming of the next begins anew. The free counter stands there, or within the 5 µs in which failed checks are reported. The policy is one whose ladders reset no chip, so that no report of the Bell's checks ends the run. -/
def Obligations.BellCountsItself : Prop :=
  (∀ s inp, indIdle s.dev → s.dev.tsc.running = true →
    Gives (.bell inp) s fun e => e.tsc.armedDone = false ∧ e.tsc.preDone = false) ∧
  (∀ s inp n, indIdle s.dev → ticksToBell s.dev = some n → twinSets s.dev = false → s.dev.cht.st ≠ .armed →
    s.dev.flt.waiting = [] → (∀ c, (policyEntry s.dev c).ladder.testBit 3 = false) →
    Gives (.bell inp) s fun e => e.bellCnt = s.dev.bellCnt + 1 ∧
      e.tsc.lastBellT = s.dev.t + BitVec.ofNat 64 n ∧ (e.t - e.tsc.lastBellT).toNat ≤ 5000 ∧ rgb e GEN_BELL_STAT 0 = true ∧ e.tsc.hadBell = true)

/-- R31, R35, R40: what lies before a Bell: a suppressed wrap is no Bell and shows SUPP; the pre-Bell event; the arming point of the Bell, 2 µs before it, and that of a grid's period. -/
def Obligations.ApproachOfTheBell : Prop :=
  (∀ s, indIdle s.dev → s.dev.tsc.running = true → wrapSuppressed s.dev (ticksToWrap s.dev) = true → 0 < incOf s.dev.tsc.oF →
    Gives .suppressedWrap s fun e => e.bellCnt = s.dev.bellCnt ∧ e.t = s.dev.t + BitVec.ofNat 64 (ticksToWrap s.dev) ∧
      rgb e GEN_BELL_STAT 2 = true ∧ rgf e GEN_BELL_STAT 31 16 = rgf s.dev GEN_BELL_STAT 31 16 ∧
      e.tsc.lastBellT = s.dev.tsc.lastBellT ∧ e.tsc.lastBellO = s.dev.tsc.lastBellO ∧ e.gen = s.dev.gen ∧ e.refs = s.dev.refs) ∧
  (∀ s n, indIdle s.dev → ticksToBell s.dev = some n → s.dev.tsc.preDone = false → ticksToPre s.dev n < n →
    Gives .preBell s fun e => e.bellCnt = s.dev.bellCnt ∧ rgb e GEN_BELL_STAT 1 = true ∧ e.tsc.preDone = true ∧
      e.t = s.dev.t + BitVec.ofNat 64 (ticksToPre s.dev n) ∧ e.tsc.lastBellT = s.dev.tsc.lastBellT ∧ e.gen = s.dev.gen) ∧
  (∀ s n, indIdle s.dev → ticksToBell s.dev = some n → 0 < n → s.dev.tsc.armedDone = false →
    Gives (.stageArming .bell) s fun e => e.tsc.armedDone = true ∧ e.t = s.dev.t + BitVec.ofNat 64 (n - 1999) ∧
      (∀ x ∈ e.staged, x.boundary = .bell → x.late = false → x.armed = true) ∧ e.bellCnt = s.dev.bellCnt ∧ e.gen = s.dev.gen) ∧
  (∀ s g, calm s.dev = true → indIdle s.dev →
    Gives (.stageArming (.gridPeriod g)) s (Same · { s.dev with
      staged := s.dev.staged.map (fun e => if e.boundary == .gridPeriod g && !e.late then { e with armed := true } else e) }))

/-- R96, R100, R30, R33, R36, R40: every TCLK adds INC to each working scale and the selected INC to TS-O, one to the auditor and one to the free counter, and moves nothing else; the Bell counts itself, raises BELL with its count, closes the interval, and takes the writes staged to it; those that missed it wait for the next. Where time passes up to an instant before the Bell, only that happens. -/
def Obligations.TicksAndTheBell : Prop :=
  (∀ d n m, (advance d n).tsc.a.v = d.tsc.a.v + n * incOf d.tsc.a.f ∧ (advance d n).tsc.b.v = d.tsc.b.v + n * incOf d.tsc.b.f ∧
      (advance d n).tsc.o = d.tsc.o + n * incOf d.tsc.oF ∧ (advance d n).tsc.auditor = d.tsc.auditor + n ∧
      (advance d n).t = d.t + BitVec.ofNat 64 n ∧ advance (advance d n) m = advance d (n + m) ∧
      incOf 0 = 2 ^ 48 ∧ (∀ f, -(2 ^ 38) ≤ f → f ≤ 2 ^ 38 → (incOf f : Int) = 2 ^ 48 + f) ∧
      { (advance d n) with t := d.t, tsc := d.tsc } = d) ∧
  (∀ d, (bellCount false d).bellCnt = d.bellCnt + 1 ∧ { (bellCount false d) with bellCnt := d.bellCnt } = d) ∧
  (∀ d, rgb (bellFlags d) GEN_BELL_STAT 0 = true ∧ (bellFlags d).tsc.armedDone = false ∧ (bellFlags d).tsc.preDone = false ∧
    rgf (bellFlags d) GEN_BELL_STAT 31 16 = min 65535 (rgf d GEN_BELL_STAT 31 16 + 1) ∧
    (bellFlags d).tsc.hadBell = true ∧ (bellFlags d).tsc.lastBellO = d.tsc.o ∧
    (∀ k, k ≠ GEN_BELL_STAT → rg (bellFlags d) k = rg d k)) ∧
  (∀ d, (closeInterval d).tsc.lastBellT = d.t ∧
    (closeInterval d).tsc.a.drift = d.tsc.a.drift + d.tsc.a.f * ((d.t - d.tsc.lastBellT).toNat : Int) ∧
    (closeInterval d).tsc.b.drift = d.tsc.b.drift + d.tsc.b.f * ((d.t - d.tsc.lastBellT).toNat : Int) ∧
    (closeInterval d).tsc.a.v = d.tsc.a.v ∧ (closeInterval d).tsc.b.v = d.tsc.b.v ∧ (closeInterval d).tsc.o = d.tsc.o) ∧
  (∀ d e k w, d.staged = [e] → e.boundary = .bell → e.late = false → e.words = [(k, w)] → aoutOf k = none →
    ef (takeStaged d).1 k = w ∧ (takeStaged d).1.staged = [] ∧ (∀ j, j ≠ k → ef (takeStaged d).1 j = ef d j) ∧
    (takeStaged d).1.regs = d.regs) ∧
  (∀ d e, d.staged = [e] → e.boundary = .bell → e.late = true →
    (takeStaged d).1 = { d with staged := [{ e with late := false, armed := false }] }) ∧
  (∀ d due e, indIdle d → reachTick d due = some e → e.t = d.t + BitVec.ofNat 64 (due - d.t.toNat) ∧ e.bellCnt = d.bellCnt ∧
    e.tsc.o = d.tsc.o + (due - d.t.toNat) * incOf d.tsc.oF ∧ e.tsc.a.v = d.tsc.a.v + (due - d.t.toNat) * incOf d.tsc.a.f ∧
    e.gen = d.gen ∧ e.power = d.power ∧ e.start = d.start ∧ e.backup = d.backup ∧ e.refs = d.refs ∧ e.flt = d.flt ∧
    e.key = d.key ∧ e.pulses = d.pulses ∧ e.grids = d.grids ∧ e.trigs = d.trigs ∧ e.tdc = d.tdc ∧ e.gns = d.gns ∧
    e.twn = d.twn ∧ e.aud = d.aud ∧ e.ptp = d.ptp ∧ e.tol = d.tol)

/-- R115, R116, R130, R141, R465: what is due leaves: a checkpoint frame to the NV store, Ledger and Tally records to their rings or to the count of those dropped, an Extract; a holdover point closes. -/
def Obligations.RecordsLeave : Prop :=
  (∀ s i l, s.dev.tsc.ckptFrame = some (i, l) →
    Gives .checkpointComplete s fun e => (∀ j, j < l.length → nvGet e (0x20000 + 4096 * i + j) = l.getD j 0) ∧
      (∀ a, a < 0x20000 + 4096 * i ∨ 0x20000 + 4096 * i + l.length ≤ a → nvGet e a = nvGet s.dev a) ∧
      e.tsc = { s.dev.tsc with
        ckptFrame := none, ckptLast := i, ckptValid := true, ckptNext := (i + 1) % 32, sinceN := s.dev.tsc.sinceN - s.dev.tsc.ckptN,
        sinceCkpt := s.dev.tsc.sinceCkpt.take (s.dev.tsc.sinceN - s.dev.tsc.ckptN), ckptN := 0 }) ∧
  (∀ s r rest q x posts, s.dev.tsc.ringQueue = r :: rest → q = rgf s.dev TSC_LRING 5 0 → rxEn s.dev q = true →
    (rxRing s.dev q).stop = false → q < s.dev.qmg.rxq.length → (rxRing s.dev q).posted = x :: posts → 64 ≤ x.bufLen →
    Gives .ledgerRingDelivery s fun e => e.tsc = { s.dev.tsc with ringQueue := rest } ∧ (rxRing e q).posted = posts ∧
      (rxRing e q).filled = (rxRing s.dev q).filled ++ [⟨recBit r, x.addr, rxComp [] 32 0 0 0 0 0 1, 0, none⟩] ∧
      ∀ k, quietKey k → rg e k = rg s.dev k) ∧
  (∀ s r rest, s.dev.tsc.ringQueue = r :: rest → rxEn s.dev (rgf s.dev TSC_LRING 5 0) = false →
    Gives .ledgerRingDelivery s fun e => e.tsc = { s.dev.tsc with ringQueue := rest } ∧
      rg e TSC_LDROP = w32 (min (2 ^ 32 - 1) ((rg s.dev TSC_LDROP).toNat + 1)) ∧
      (∀ k, quietKey k → k ≠ TSC_LDROP → rg e k = rg s.dev k)) ∧
  (∀ s body, s.dev.tal.recordDue = some body → enOf s.dev baseTal = false → rxEn s.dev (rgf s.dev TAL_RING 5 0) = false →
    Gives .tallyRingDelivery s fun e => e.tal.recordDue = none ∧ e.tal.droppedBefore = true ∧
      rg e TAL_DROP = w32 (min (2 ^ 32 - 1) ((rg s.dev TAL_DROP).toNat + 1))) ∧
  (∀ s body, s.dev.sclA.extractDue = some body → s.dev.sclB.extractDue = none → rxEn s.dev (rgf s.dev SCL_XCTRL 5 0) = false →
    Gives (.ledgerExtractIssue false) s fun e => e.sclA = { s.dev.sclA with
        extractDue := none, extract := some (markUnsigned body ++ zeros 96) } ∧ rgb e (baseScl + 8) 16 = true ∧
      rg e SCL_XDROP = w32 (min (2 ^ 32 - 1) ((rg s.dev SCL_XDROP).toNat + 1)) ∧ e.sclB = s.dev.sclB ∧ e.tsc = s.dev.tsc) ∧
  (∀ s body, s.dev.sclA.extractDue = none → s.dev.sclB.extractDue = some body → (workOf s.dev 3).node.isSome = true →
    (workOf s.dev 3).orph = false →
    Gives (.ledgerExtractIssue true) s fun e => e.sclB = { s.dev.sclB with extractDue := none, extract := e.sclB.extract } ∧
      e.sclB.extract.map (List.take body.length) = some body ∧ e.sclB.extract.map List.length = some (body.length + 96) ∧ e.sclA = s.dev.sclA ∧ e.tsc = s.dev.tsc ∧ e.gen = s.dev.gen) ∧
  (∀ s k, k ≤ 1 → pointLength (hclassOf s.dev (k == 1)) ≤ (sclOf s.dev (k == 1)).accN →
    Gives (.holdoverPointBoundary k) s fun e => (sclOf e (k == 1)).accN = 0 ∧
      (sclOf e (k == 1)).points.length = min 4096 ((sclOf s.dev (k == 1)).points.length + 1) ∧
      sclOf e (!(k == 1)) = sclOf s.dev (!(k == 1)) ∧ e.tsc = s.dev.tsc)

/-- R105, R106, R115, R37, R38: a write of SC_SET_NS or SC_STEP_HI stages its value for the Bell with the words as they stand, and TSC_LRD_SEL copies a Ledger record for its requester. -/
def Obligations.ScaleWrites : Prop :=
  (∀ s r k v, calm s.dev = true → k ≤ 1 → Served s.dev r (scKey SC_SET_NS k) → lateForBell s.dev = false → s.dev.staged = [] →
    Gives (.scSetNsWrite r k v) s fun e =>
      rg e (scKey SC_SET_NS k) = ((rg s.dev (scKey SC_SET_NS k) &&& 0xC0000000) ||| (v &&& 0x3FFFFFFF)) ∧
      e.staged.map (·.words) = [[(scKey SC_SET_NS k - 8, rg s.dev (scKey SC_SET_NS k - 8)), (scKey SC_SET_NS k - 4, rg s.dev (scKey SC_SET_NS k - 4)),
        (scKey SC_SET_NS k, rg e (scKey SC_SET_NS k)), (scKey SC_SET_NS k + 4, rg s.dev (scKey SC_SET_NS k + 4))]] ∧
      e.staged.all (fun x => x.boundary == .bell && !x.late) = true ∧ e.eff = s.dev.eff ∧ e.tsc = s.dev.tsc) ∧
  (∀ s r k v, calm s.dev = true → k ≤ 1 → Served s.dev r (scKey SC_STEP_HI k) → lateForBell s.dev = false → s.dev.staged = [] →
    Gives (.scStepHiWrite r k v) s fun e => rg e (scKey SC_STEP_HI k) = v ∧
      e.staged.map (·.words) = [[(scKey SC_STEP_LO k, rg s.dev (scKey SC_STEP_LO k)), (scKey SC_STEP_HI k, v)]] ∧
      e.eff = s.dev.eff ∧ e.tsc = s.dev.tsc) ∧
  (∀ s r v, calm s.dev = true → Served s.dev r TSC_LRD_SEL →
    Gives (.tscLrdSelWrite r v) s fun e =>
      (∀ j, j < 8 → heldWord (reqOf e r) (TSC_LRD_DATA + 4 * j) =
        (leWords (recBit (sparseGet blankRec (scaleOf s.dev (bit v 12)).ram (bits v 11 0)))).getD j 0) ∧
      e.tsc = s.dev.tsc ∧ e.regs = s.dev.regs)

end

/-! ### Access to registers (chapter 3) -/

section
open Sys2Proof Sys2Proof.Machine

/-- R5, R7, R8, R9: an access of any size but a word is an Unsupported Request and changes nothing; a word write of a plain register takes its RW bits and leaves the reserved ones. -/
def Obligations.RegisterWrites : Prop :=
  (∀ s r off n v, calm s.dev = true → n ≠ 4 →
    Gives (.registerWrite r off n v) s (Same · { s.dev with resp := ⟨.unsupportedRequest, [0]⟩ }) ∧
    Gives (.aliasWrite r off n v) s (Same · { s.dev with resp := ⟨.unsupportedRequest, [0]⟩ }) ∧
    Gives (.readClearRead r off n) s (Same · { s.dev with resp := ⟨.unsupportedRequest, [0]⟩ }) ∧
    Gives (.latchingRead r off n) s (Same · { s.dev with resp := ⟨.unsupportedRequest, [0]⟩ }) ∧
    Gives (.aliasRead r off n) s (Same · { s.dev with resp := ⟨.unsupportedRequest, [0]⟩ })) ∧
  (∀ s r off v m, calm s.dev = true → Served s.dev r off →
    (off, m) ∈ [(GEN_BELL_CTRL, 0xFF03#32), (RST_QTIMEOUT, 0x1FFFF#32), (FLT_INJ_DETAIL, 0xFFFFFFFF#32),
      (CHT_DELTA_BELL_LO, 0xFFFFFFFF#32), (CHT_DELTA_BELL_HI, 0xFFFFFFFF#32)] →
    Gives (.registerWrite r off 4 v) s fun e => rg e off = ((rg s.dev off &&& ~~~ m) ||| (v &&& m)) ∧
      (∀ k, k ≠ off → rg e k = rg s.dev k) ∧ Same { e with regs := [] } { answered s [] with regs := [] })

/-- R56: a read of STAT clears the RC bits that it returned as 1 and no others, and no other register. -/
def Obligations.ReadClears : Prop :=
  ∀ s r slot, slot ∈ [0, 1, 2, 5, 6, 7, 10, 11] → calm s.dev = true → Served s.dev r (slotBase slot + 8) → indIdle s.dev →
    Gives (.readClearRead r (slotBase slot + 8) 4) s fun e =>
      e.resp = ⟨.ok, [statWord s.dev slot (slotBase slot)]⟩ ∧
      rg e (slotBase slot + 8) = rg s.dev (slotBase slot + 8) &&& ~~~ (rg s.dev (slotBase slot + 8) &&& statRcMask slot) ∧
      (∀ k, k ≠ slotBase slot + 8 → rg e k = rg s.dev k) ∧
      Same { e with regs := [], resp := s.dev.resp } { s.dev with regs := [] }

/-- R58: a read of GEN_BELLCNT_LO answers the low word and latches the high word for the requester that reads, and for no other. -/
def Obligations.LatchingRead : Prop :=
  ∀ s r, calm s.dev = true → Served s.dev r GEN_BELLCNT_LO →
    Gives (.latchingRead r GEN_BELLCNT_LO 4) s fun e =>
      e.resp = ⟨.ok, [s.dev.bellCnt.setWidth 32]⟩ ∧
      heldWord (reqOf e r) GEN_BELLCNT_HI = (s.dev.bellCnt >>> 32).setWidth 32 ∧
      (∀ q, q ≠ r → reqOf e q = reqOf s.dev q) ∧ e.regs = s.dev.regs ∧ e.bellCnt = s.dev.bellCnt

/-- R59 to R61: an alias read returns the one bit; an alias write changes the one bit and no other of its register. -/
def Obligations.AliasAccess : Prop :=
  (∀ s r b, b < 32 → calm s.dev = true → Served s.dev r (0x800000 + RST_QTIMEOUT * 32 + b * 4) →
    Gives (.aliasRead r (0x800000 + RST_QTIMEOUT * 32 + b * 4) 4) s
      (Same · (answered s [w32 (b2n (bit (rg s.dev RST_QTIMEOUT &&& 0x1FFFF) b))]))) ∧
  (∀ s r slot b, slot ∈ [0, 1, 2] → b < 32 → calm s.dev = true → Served s.dev r (0x800000 + (slotBase slot + 8) * 32 + b * 4) →
    Gives (.aliasRead r (0x800000 + (slotBase slot + 8) * 32 + b * 4) 4) s fun e =>
      e.resp = ⟨.ok, [w32 (b2n (bit (statWord s.dev slot (slotBase slot)) b))]⟩ ∧
      (∀ j, j < 32 → j ≠ b → rgb e (slotBase slot + 8) j = rgb s.dev (slotBase slot + 8) j) ∧
      (bit (statRcMask slot) b = true → rgb e (slotBase slot + 8) b = false)) ∧
  (∀ s r b v, b < 32 → calm s.dev = true → Served s.dev r (0x800000 + RST_QTIMEOUT * 32 + b * 4) →
    rg s.dev RST_QTIMEOUT &&& 0xFFFE0000 = 0 →
    Gives (.aliasWrite r (0x800000 + RST_QTIMEOUT * 32 + b * 4) 4 v) s fun e =>
      rg e RST_QTIMEOUT = (if b ≤ 16 then putBit (rg s.dev RST_QTIMEOUT) b (bit v 0) else rg s.dev RST_QTIMEOUT) ∧
      (∀ k, k ≠ RST_QTIMEOUT → rg e k = rg s.dev k) ∧ Same { e with regs := [] } { answered s [] with regs := [] })

/-- R32, R62 to R64: IND_DATA reads the word at ADDR and advances it; a write is accepted at once with BUSY, and reaches its word before time goes on; one that is not answered is discarded with TMO and IND_TIMEOUT. -/
def Obligations.IndirectWindow : Prop :=
  (∀ s r slot v, hasInd slot = true → calm s.dev = true → Served s.dev r (indBase slot + 4) → indIdle s.dev →
    Gives (.indDataWrite r slot v) s fun e => e.indWait = [(r, slot, v)] ∧ bit (indStatOf e r slot) 0 = true ∧
      indAddrOf e r slot = indAddrOf s.dev r slot ∧ e.regs = s.dev.regs ∧ (∀ q, q ≠ r → reqOf e q = reqOf s.dev q)) ∧
  (∀ s r slot, hasInd slot = true → calm s.dev = true → Served s.dev r (indBase slot + 4) → indIdle s.dev →
    Gives (.indDataRead r slot) s fun e => e.resp.status = .ok ∧ e.tsc = s.dev.tsc ∧ e.eff = s.dev.eff ∧
      indAddrOf e r slot = (if bit (indAddrOf s.dev r slot) 31 then
        w32 (2 ^ 31 + (bits (indAddrOf s.dev r slot) 23 0 + 4) % 2 ^ 24) else indAddrOf s.dev r slot)) ∧
  (∀ s r slot v, hasInd slot = true → s.dev.indWait = [(r, slot, v)] →
    Gives (.indTimeout r slot) s fun e => e.indWait = [] ∧ bit (indStatOf e r slot) 0 = false ∧
      bit (indStatOf e r slot) 1 = true ∧ raisedBy e (srcIndTimeout slot) = raisedBy s.dev (srcIndTimeout slot) + 1 ∧
      e.resp = ⟨.ok, [0]⟩ ∧ e.eff = s.dev.eff) ∧
  (∀ d r slot v, d.indWait = [(r, slot, v)] → (indFinishAll d).indWait = [] ∧ bit (indStatOf (indFinishAll d) r slot) 0 = false ∧
    (inBlockReset d (slotBase slot) = false → (fieldsAt (indTarget d r slot)).isNone = true →
      bit (indStatOf (indFinishAll d) r slot) 2 = true) ∧
    indAddrOf (indFinishAll d) r slot = (if bit (indAddrOf d r slot) 31 then
      w32 (2 ^ 31 + (bits (indAddrOf d r slot) 23 0 + 4) % 2 ^ 24) else indAddrOf d r slot) ∧ (indFinishAll d).t = d.t)

/-- R68: an offer is negotiated at once: the highest version both share, or FAIL, each requester apart. -/
def Obligations.VersionOffer : Prop :=
  ∀ s r v, calm s.dev = true → Served s.dev r GEN_VER_OFFER →
    Gives (.genVerOfferWrite r v) s fun e => (reqOf e r).verOffer = v ∧
      (r ≠ .cores → bits v 15 0 ≤ 0x0103 → 0x0100 ≤ bits v 31 16 → bits v 15 0 ≤ bits v 31 16 →
        (reqOf e r).agreed = w32 (min (bits v 31 16) 0x0103) ∧ (reqOf e r).verFail = false) ∧
      (r ≠ .cores → bits v 31 16 < 0x0100 ∨ 0x0103 < bits v 15 0 ∨ bits v 31 16 < bits v 15 0 →
        (reqOf e r).verFail = true ∧ (reqOf e r).agreed = (reqOf s.dev r).agreed) ∧
      (∀ q, q ≠ r → reqOf e q = reqOf s.dev q) ∧ Same (setReqState e r (reqOf s.dev r)) (answered s [])

/-- R54, R66: an access outside every window is an Unsupported Request; a Host access to the KEY window reads 0 and is logged. -/
def Obligations.TurnedAway : Prop :=
  (∀ d off f, d.gen.mode = .active → d.start.phase ≠ .held → outsideMap off = true →
    (withWrite d .pcie0 off f).resp = ⟨.unsupportedRequest, [0]⟩ ∧
    Same { withWrite d .pcie0 off f with resp := d.resp } d) ∧
  (∀ d off f, turnedAway d .pcie0 off = none → off < 0x800000 → wardenOnly off = true →
    (withRead d .pcie0 off f).resp = ⟨.ok, [0]⟩ ∧
    raisedBy (withRead d .pcie0 off f) srcPrivDeny = raisedBy d srcPrivDeny + 1 ∧
    (withRead d .pcie0 off f).key = d.key ∧ (withRead d .pcie0 off f).gen = d.gen)

end
/-! ### The charter loader (chapter 4) -/

section
open Sys2Proof Sys2Proof.Machine

/-- R90, R92, R94: the loader's commands in the states that take them; LOAD_STREAM and ARM in another refuse with STATE and change nothing else; a word written in LOADING appends its four bytes, most significant first; ARM takes its target from CHT_DELTA_BELL, the next Bell for 0. -/
def Obligations.LoaderCommands : Prop :=
  (∀ s r, calm s.dev = true → Served s.dev r CHT_CMD → s.dev.cht.st = .idle →
    Gives (.loadStream r) s fun e => e.cht.st = .loading ∧ e.cht.slot = none ∧ e.cht.buf = [] ∧ e.cht.errCode = 0 ∧
      Same { e with cht := s.dev.cht } (answered s [])) ∧
  (∀ s r k, calm s.dev = true → Served s.dev r CHT_CMD → s.dev.cht.st = .idle → k ≤ 1 →
    Gives (.loadFlash r k) s fun e => e.cht.st = .loading ∧ e.cht.slot = some k ∧ e.cht.buf = [] ∧ e.cht.errCode = 0 ∧
      Same { e with cht := s.dev.cht } (answered s [])) ∧
  (∀ s r, calm s.dev = true → Served s.dev r CHT_CMD → s.dev.cht.st ≠ .idle →
    Gives (.loadStream r) s (Same · { answered s [] with cht := { s.dev.cht with errCode := 0x0E, errSection := 0 } })) ∧
  (∀ s r k, calm s.dev = true → Served s.dev r CHT_CMD → s.dev.cht.st = .ready → s.dev.cht.shadowIsDelta = false → k ≤ 1 →
    Gives (.flashWrite r k) s fun e => .flash k s.dev.cht.buf ∈ e.out ∧
      Same e { answered s [] with cht := { s.dev.cht with st := .writing, slot := some k } }) ∧
  (∀ s r, calm s.dev = true → Served s.dev r CHT_CMD →
    s.dev.cht.st = .loading ∨ s.dev.cht.st = .ready ∨ s.dev.cht.st = .armed ∨ s.dev.cht.st = .error →
    Gives (.abort r) s fun e => e.cht.st = .idle ∧ e.cht.buf = [] ∧ e.cht.target = none ∧ e.cht.cur = s.dev.cht.cur ∧
      Same { e with cht := s.dev.cht } (answered s [])) ∧
  (∀ s equal k, s.dev.cht.st = .writing → s.dev.cht.slot = some k → k ≤ 1 →
    Gives (.flashWriteComplete equal) s fun e =>
      (equal = true → e.cht.st = .idle ∧ rgb e (baseCht + 8) 20 = true) ∧
      (equal = false → e.cht.st = .error ∧ e.cht.errCode = 0x0F) ∧ (if k = 0 then e.cht.aOk else e.cht.bOk) = equal ∧
      e.cht.cur = s.dev.cht.cur ∧ e.gen = s.dev.gen) ∧
  (∀ s, calm s.dev = true → s.dev.cht.st = .building → s.dev.cht.shadowIsDelta = true →
    Gives .shadowBuildComplete s (Same · { s.dev with cht := { s.dev.cht with st := .ready } })) ∧
  (∀ s r v, calm s.dev = true → Served s.dev r CHT_LOAD_DATA → s.dev.cht.st = .loading → s.dev.cht.slot = none →
    s.dev.cht.startSlot = none → s.dev.cht.buf.length < 60 →
    Gives (.chtLoadDataWrite r v) s
      (Same · { answered s [] with cht := { s.dev.cht with buf := s.dev.cht.buf ++ beBytes 4 v.toNat } })) ∧
  (∀ s r, calm s.dev = true → Served s.dev r CHT_CMD → s.dev.cht.st = .ready → s.dev.cht.shadowIsDelta = true →
    s.dev.gen.mode ≠ .minimal → lateForBell s.dev = false → deltaCheck s.dev = none →
    rgPair s.dev CHT_DELTA_BELL_LO = 0 ∨ s.dev.bellCnt.toNat < rgPair s.dev CHT_DELTA_BELL_LO →
    Gives (.arm r) s (Same · { answered s [] with cht := { s.dev.cht with
      st := .armed,
      target := some (if rgPair s.dev CHT_DELTA_BELL_LO = 0 then s.dev.bellCnt + 1
        else BitVec.ofNat 64 (rgPair s.dev CHT_DELTA_BELL_LO)) } })) ∧
  (∀ s r, calm s.dev = true → Served s.dev r CHT_CMD → s.dev.cht.st ≠ .ready →
    Gives (.arm r) s (Same · { answered s [] with cht := { s.dev.cht with errCode := 0x0E, errSection := 0 } }))

end

/-! ### References, stalls and APLLs (chapters 7 and 8) -/

section
open Sys2Proof Sys2Proof.Machine

/-- R148, R149: a reference whose conditions hold becomes present, qualifies when its time is over, and is lost with its cause, logged where it was qualified. -/
def Obligations.ReferencePresence : Prop :=
  (∀ s r, calm s.dev = true → r < 31 → r < s.dev.refs.length → kindOf s.dev r ≠ 0 → (refOf s.dev r).present = false →
    sourceValid s.dev r = true → (refOf s.dev r).y.natAbs ≤ (ef s.dev (refKey REF_FTOL r)).toNat →
    (kindOf s.dev r = 6 → accAcceptable s.dev r = true) →
    Gives (.refPresent r) s fun e => (refOf e r).present = true ∧ (refOf e r).qualified = false ∧ (refOf e r).presentFrom = s.dev.t ∧
      (∀ q, q ≠ r → refOf e q = refOf s.dev q) ∧ Same { e with refs := [] } { s.dev with refs := [] }) ∧
  (∀ s r, calm s.dev = true → sourceValid s.dev r = false → Gives (.refPresent r) s (Same · s.dev)) ∧
  (∀ s r d, indIdle s.dev → r < 31 → r < s.dev.refs.length → (refOf s.dev r).present = true → (refOf s.dev r).qualified = false →
    At s ((refOf s.dev r).presentFrom.toNat + qtimeOf s.dev r * 1000000000) d → calm d = true →
    Gives (.refQualify r) s fun e => (refOf e r).qualified = true ∧ (refOf e r).present = true ∧
      rgf e (refKey REF_EVT r) 31 16 = min 65535 (rgf d (refKey REF_EVT r) 31 16 + 1) ∧
      (∀ q, q ≠ r → refOf e q = refOf d q) ∧ (∀ k, k ≠ refKey REF_EVT r → rg e k = rg d k) ∧
      Same { e with refs := [], regs := [] } { d with refs := [], regs := [] }) ∧
  (∀ s r c, r < 31 → r < s.dev.refs.length → (refOf s.dev r).present = true →
    Gives (.refLoss r c) s fun e => (refOf e r).present = false ∧ (refOf e r).qualified = false ∧ (refOf e r).lcause = c % 16 ∧
      rgb e REF_LOSS r = true ∧ (∀ q, q ≠ r → refOf e q = refOf s.dev q) ∧
      raisedBy e srcRefLoss = raisedBy s.dev srcRefLoss + (if (refOf s.dev r).qualified then 1 else 0) ∧
      e.tsc.o = s.dev.tsc.o ∧ e.gen = s.dev.gen)

/-- R147, R148, R151, R153, R156, R158, R168: the evaluation, 20 µs after its Bell, publishes y and judges it by FTOL; a published y is the mean of at most 16 intervals; a hold-off ends; SEL_DCLR clears the marks of the bits written; a lockout takes effect at once, for an incumbent as a loss with cause 4. -/
def Obligations.Selection : Prop :=
  (∀ s (m : RefMeas) d, indIdle s.dev → At s (s.dev.tsc.lastBellT.toNat + 20000) d → m.ref < 31 → m.ref < s.dev.refs.length →
    kindOf d m.ref ≠ 0 → kindOf d m.ref ≠ 7 → (refOf s.dev m.ref).present = true → (refOf s.dev m.ref).ys = [] →
    Gives (.refEvaluation [m]) s fun e => (refOf e m.ref).y = m.y ∧
      ((refOf e m.ref).present = true ↔ m.y.natAbs ≤ (ef d (refKey REF_FTOL m.ref)).toNat) ∧
      ((refOf e m.ref).present = true → (refOf e m.ref).ys = [m.y]) ∧ ((refOf e m.ref).present = false → (refOf e m.ref).lcause = 2) ∧
      (∀ q, q ≠ m.ref → refOf e q = refOf d q) ∧ e.t = d.t) ∧
  (∀ d (m : RefMeas), m.ref < d.refs.length → (refOf d m.ref).present = true → m.ref < 31 → kindOf d m.ref ≠ 0 → kindOf d m.ref ≠ 7 →
    ((refOf (publish d m) m.ref).y * (((m.y :: (refOf d m.ref).ys).take 16).length : Int) -
      ((m.y :: (refOf d m.ref).ys).take 16).foldl (· + ·) 0).natAbs < ((m.y :: (refOf d m.ref).ys).take 16).length ∧
    (hasPhase d m.ref = false → (refOf (publish d m) m.ref).phi = 0) ∧
    ∀ q, q ≠ m.ref → refOf (publish d m) q = refOf d q) ∧
  (∀ s n due d, indIdle s.dev → holdOffEnd s.dev n (eff s.dev (selKey SEL_CTRL n) 23 16) = some due → due < 2 ^ 64 → At s due d →
    calm d = true →
    Gives (.holdoffExpiry n) s fun e => Same e d ∧ inHoldOff e n (eff e (selKey SEL_CTRL n) 23 16) = false) ∧
  (∀ s r n v, calm s.dev = true → n ≤ 31 → Served s.dev r (selKey SEL_DCLR n) →
    Gives (.selDclrWrite r n v) s (Same · { answered s [] with
      sels := upd s.dev.sels n (fun x => { x with marks := x.marks.filter (fun m => !bit v m.1) }) })) ∧
  (∀ s r v, calm s.dev = true → Served s.dev r REF_LOCKOUT →
    (∀ n, (selOf s.dev n).curV = true → bit v (selOf s.dev n).cur = false) →
    Gives (.refLockoutWrite r v) s fun e => rg e REF_LOCKOUT = v ∧ e.refs = s.dev.refs ∧
      (∀ k, k ≠ REF_LOCKOUT → (∀ n, k ≠ selKey SEL_CNT n) → rg e k = rg s.dev k) ∧ e.tsc.o = s.dev.tsc.o) ∧
  (∀ s r v n x, Served s.dev r REF_LOCKOUT → n ∈ selectedStalls s.dev → (selOf s.dev n).curV = true → (selOf s.dev n).cur = x →
    x < 31 → x < s.dev.refs.length → bit v x = true → s.dev.twn.selWait = false → (∀ m, m ≠ n → (selOf s.dev m).curV = false) →
    Gives (.refLockoutWrite r v) s fun e => rg e REF_LOCKOUT = v ∧ (refOf e x).qualified = false ∧ (refOf e x).lcause = 4 ∧
      (refOf e x).presentFrom = s.dev.t ∧ rgb e REF_LOSS x = true ∧ (selOf e n).curV = false ∧ (selOf e n).servo = .holdover ∧
      (selOf e n).tEntry = some s.dev.t ∧
      raisedBy e srcRefLoss = raisedBy s.dev srcRefLoss + (if (refOf s.dev x).qualified then 1 else 0) ∧
      (∀ q, q ≠ x → refOf e q = refOf s.dev q) ∧ e.tsc.o = s.dev.tsc.o)

/-- R169, R172, R175, R176: a detector result is taken while the stall has something to follow: less what the stepper still removes and less the zero, latched anew where that is due, it is kept in the interval's sum; in free-run the loop does not act; without a reference or a time-bus source nothing changes. -/
def Obligations.StallUpdate : Prop :=
  (∀ s n p, calm s.dev = true → (selOf s.dev n).curV = false → tbusOf s.dev n = 0 → Gives (.stallUpdate n p) s (Same · s.dev)) ∧
  (∀ s n p x z, fabricRuns s.dev = true → stallBuilt s.dev n = true → n < s.dev.stalls.length → holdsY s.dev n = false →
    (selOf s.dev n).curV = true ∨ tbusOf s.dev n ≠ 0 → twinPhase s.dev n = 0 →
    steeredScale s.dev n = none ∨ hasPhase s.dev (selOf s.dev n).cur = false ∨ (refOf s.dev (selOf s.dev n).cur).point = none →
    x = 2 * p - stepping s.dev n →
    z = (if (stallOf s.dev n).relatch = true then (if freqOnly s.dev n = true then x else 0) else (stallOf s.dev n).zero) →
    Gives (.stallUpdate n p) s fun e => (stallOf e n).raw = x ∧ (stallOf e n).zero = z ∧ (stallOf e n).relatch = false ∧
      (stallOf e n).eSum = (stallOf s.dev n).eSum + max (-(2 ^ 40)) (min (2 ^ 40) (x - z)) ∧
      (stallOf e n).eN = (stallOf s.dev n).eN + 1 ∧
      ((selOf s.dev n).servo = .freeRun → (stallOf e n).y = (stallOf s.dev n).y ∧ (stallOf e n).integ = (stallOf s.dev n).integ)) ∧
  (∀ s n p, fabricRuns s.dev = true → stallBuilt s.dev n = true → n < s.dev.stalls.length → holdsY s.dev n = false →
    (selOf s.dev n).curV = true →
    Gives (.stallUpdate n p) s fun e => (stallOf e n).eN = (stallOf s.dev n).eN + 1 ∧ (stallOf e n).relatch = false ∧
      (∀ m, m ≠ n → stallOf e m = stallOf s.dev m) ∧ e.gen = s.dev.gen ∧ e.refs = s.dev.refs ∧ e.tsc.o = s.dev.tsc.o)

/-- R103: a stall whose function is scale steering runs at a loop bandwidth of at most 50 mHz, and one written above acts as 50 mHz. -/
def Obligations.ScaleStallBandwidth : Prop :=
  ∀ s n p, fabricRuns s.dev = true → stallBuilt s.dev n = true → n < s.dev.stalls.length → holdsY s.dev n = false →
    (selOf s.dev n).curV = true → (selOf s.dev n).servo ≠ .freeRun → stallFunc s.dev n = 1 →
    Gives (.stallUpdate n p) s fun e => bwTable.getD (stallOf e n).bwEff 0 ≤ 500 ∧
      (500 < bwTable.getD (min 20 (eff s.dev (stKey SL_LOOP n) 4 0)) 0 → bwTable.getD (stallOf e n).bwEff 0 = 500) ∧
      (bwTable.getD (min 20 (eff s.dev (stKey SL_LOOP n) 4 0)) 0 ≤ 500 →
        (stallOf e n).bwEff = min 20 (eff s.dev (stKey SL_LOOP n) 4 0))

/-- R179, R184, R187, R192, R438: LOCK follows the detector, and during a start it starts the ETHREF output; a loss of lock or reference gates the outputs, is counted and logged, and unlocks the steering stall; the stepper moves PREM towards 0 by 1 ps, or 0.5 ps. -/
def Obligations.Aplls : Prop :=
  (∀ s n, n < 4 → n < s.dev.apls.length → apllBuilt s.dev n = true → rangeBad s.dev n = false → (apllOf s.dev n).lock = false →
    s.dev.gen.mode = .active →
    Gives (.apllLockAssert n) s fun e => (apllOf e n).lock = true ∧ (apllOf e n).refLost = false ∧ (apllOf e n).lockT = s.dev.t ∧
      (∀ m, m ≠ n → apllOf e m = apllOf s.dev m) ∧ e.outs = s.dev.outs ∧ e.gen = s.dev.gen) ∧
  (∀ s n o, n < 4 → n < s.dev.apls.length → apllBuilt s.dev n = true → rangeBad s.dev n = false → (apllOf s.dev n).lock = false →
    s.dev.gen.mode = .bringup → ethrefOut s.dev = some o → o ∈ drivenBy s.dev n → outInvalid s.dev o n = false → o < s.dev.outs.length →
    Gives (.apllLockAssert n) s fun e => (apllOf e n).lock = true ∧ (outOf e o).run = true ∧ e.start.ethT = some s.dev.t ∧
      (∀ q, q ≠ o → outOf e q = outOf s.dev q)) ∧
  (∀ s n, n < 4 → n < s.dev.apls.length → (apllOf s.dev n).lock = true →
    (apllOf s.dev n).gated = false ∨ (∃ o, o ∈ drivenBy s.dev n ∧ (outOf s.dev o).run = true) →
    Gives (.apllLockLoss n) s fun e => (apllOf e n).lock = false ∧ (apllOf e n).gated = true ∧ (apllOf e n).prem = 0 ∧
      (∀ o, o ∈ drivenBy s.dev n → o < s.dev.outs.length → (outOf e o).run = false ∧ (outOf e o).cause = 2) ∧
      (∀ st, stallOn s.dev n = some st → (selOf s.dev st).servo = .locked → (selOf e st).servo = .acquiring) ∧
      raisedBy e srcApllUnlock = raisedBy s.dev srcApllUnlock + 1 ∧ (∀ m, m ≠ n → apllOf e m = apllOf s.dev m) ∧
      e.tsc = s.dev.tsc ∧ e.gen = s.dev.gen) ∧
  (∀ s n, n < 4 → n < s.dev.apls.length → apllBuilt s.dev n = true → (apllOf s.dev n).refLost = false →
    (apllOf s.dev n).gated = false →
    Gives (.apllRefLoss n) s fun e => (apllOf e n).refLost = true ∧ (apllOf e n).gated = true ∧
      (∀ o, o ∈ drivenBy s.dev n → o < s.dev.outs.length → (outOf e o).run = false ∧ (outOf e o).cause = 3) ∧
      raisedBy e srcApllRefloss = raisedBy s.dev srcApllRefloss + 1 ∧ e.tsc = s.dev.tsc ∧ e.gen = s.dev.gen) ∧
  (∀ s n half, calm s.dev = true → n < 4 → n < s.dev.apls.length →
    Gives (.phaseStepperStep n half) s fun e =>
      ((apllOf e n).prem.natAbs = (apllOf s.dev n).prem.natAbs - (if half then 1 else 2)) ∧
      (0 ≤ (apllOf s.dev n).prem → 0 ≤ (apllOf e n).prem) ∧ ((apllOf s.dev n).prem ≤ 0 → (apllOf e n).prem ≤ 0) ∧
      (∀ m, m ≠ n → apllOf e m = apllOf s.dev m) ∧ Same { e with apls := [] } { s.dev with apls := [] })

end

/-! ### Pulses, grids, triggers and captures (chapter 9) -/

section
open Sys2Proof Sys2Proof.Machine

/-- R41, R144, R198 to R200: a pulse's pin goes to its active level when its scale reaches its next instant, or at its instant after an input edge, for its width, and returns; an input edge of the selected polarity within its window realigns the trains, another is not taken; a missing one is projected and counted, two in a row lose the reference. -/
def Obligations.Pulses : Prop :=
  (∀ s n l d, n < s.dev.pulses.length → pulseMayFire s.dev n = true → pulseRef s.dev n = none → (pulseOf s.dev n).lastK = some l →
    indIdle s.dev → AtScale s (pulseScale s.dev n) (pulseAt s.dev n (pulseNextK s.dev n)) d → calm d = true →
    Gives (.pulseInstant n) s fun e => (pulseOf e n).active = true ∧ (pulseOf e n).lastK = some (pulseNextK d n) ∧ l < pulseNextK d n ∧
      (pulseOf e n).endPs = some (edgePs d (pulseScale d n) (pulseAt d n (pulseNextK d n)) + pulseWidth d n) ∧
      ((pulseOf s.dev n).active = false →
        .pin (pinPulse n) (!efb d (plKey PL_CFG n) 0) (edgePs d (pulseScale d n) (pulseAt d n (pulseNextK d n))) ∈ e.out) ∧
      (∀ m, m ≠ n → pulseOf e m = pulseOf d m) ∧ Same { e with pulses := [] } { d with pulses := [] }) ∧
  (∀ s n r q d, n < s.dev.pulses.length → pulseMayFire s.dev n = true → pulseRef s.dev n = some r → pulseInDue s.dev n = some q →
    indIdle s.dev → At s (ratCeil (q / 65536)).toNat d → calm d = true →
    Gives (.pulseInstant n) s fun e => (pulseOf e n).active = true ∧ (pulseOf e n).inDone = (pulseOf s.dev n).inEdge ∧
      (pulseOf e n).endPs = some (ratNearest (q * 1000 / 65536) + pulseWidth d n) ∧
      (∀ m, m ≠ n → pulseOf e m = pulseOf d m) ∧ Same { e with pulses := [] } { d with pulses := [] }) ∧
  (∀ s n due d, indIdle s.dev → widthDue s.dev false n = some due → At s due d → n < s.dev.pulses.length → (pulseOf s.dev n).active = true →
    calm d = true →
    Gives (.pulseWidthEnd false n) s fun e => (pulseOf e n).active = false ∧ (pulseOf e n).endPs = none ∧
      .pin (pinPulse n) (efb d (plKey PL_CFG n) 0) ((pulseOf s.dev n).endPs.getD 0) ∈ e.out ∧
      Same { e with pulses := [] } { d with pulses := [] }) ∧
  (∀ s n due d, indIdle s.dev → widthDue s.dev true n = some due → At s due d → n < s.dev.trigs.length → (trigOf s.dev n).active = true →
    calm d = true →
    Gives (.pulseWidthEnd true n) s fun e => (trigOf e n).active = false ∧ (trigOf e n).endPs = none ∧
      .pin (pinTrig n) (efb d (grKey TR_CFG n) 0) ((trigOf s.dev n).endPs.getD 0) ∈ e.out ∧
      Same { e with trigs := [] } { d with trigs := [] }) ∧
  (∀ s r falling (sub : Nat) (now l : Int), calm s.dev = true → kindOf s.dev r = 2 → falling = efb s.dev (refKey REF_CFG r) 8 →
    r < s.dev.refs.length → (refOf s.dev r).present = true → (refOf s.dev r).lastPulse = some l →
    now = (s.dev.t.toNat : Int) * 65536 + sub → (now - l - 65536 * 1000000000).natAbs ≤ 65536 * 1000000 →
    Gives (.pulseInputEdge r falling sub) s fun e => (refOf e r).lastPulse = some now ∧ (refOf e r).inWindow = true ∧
      (refOf e r).missed = 0 ∧ (∀ q, q ≠ r → refOf e q = refOf s.dev q) ∧
      (∀ n, n ∈ pulsesOn s.dev r → n < s.dev.pulses.length → (pulseOf e n).inEdge = some now ∧
        ((refOf s.dev r).missed = 0 → (pulseOf e n).inPeriod = some (now - l))) ∧
      Same { e with pulses := [], refs := [], freeIdx := 0 } { s.dev with pulses := [], refs := [], freeIdx := 0 }) ∧
  (∀ s r falling (sub : Nat), calm s.dev = true → kindOf s.dev r ≠ 2 ∨ falling ≠ efb s.dev (refKey REF_CFG r) 8 ∨
      ((refOf s.dev r).present = true ∧ ∀ l, (refOf s.dev r).lastPulse = some l →
        65536 * 1000000 < ((s.dev.t.toNat : Int) * 65536 + sub - l - 65536 * 1000000000).natAbs) →
    Gives (.pulseInputEdge r falling sub) s (Same · s.dev)) ∧
  (∀ s r l d, indIdle s.dev → kindOf s.dev r = 2 → r < s.dev.refs.length → (refOf s.dev r).lastPulse = some l →
    At s (ceilDiv (l + 65536 * 1001000000).toNat 65536) d → (refOf s.dev r).missed = 0 →
    Gives (.missingInputPulse r) s fun e => (refOf e r).missed = 1 ∧ (refOf e r).present = (refOf s.dev r).present ∧
      (refOf e r).lastPulse = some (l + 65536 * 1000000000) ∧ (refOf e r).inWindow = false ∧
      (∀ n, n ∈ pulsesOn d r → rgf e (plKey PL_EVT n) 15 0 = min 65535 (rgf d (plKey PL_EVT n) 15 0 + 1)) ∧
      (∀ q, q ≠ r → refOf e q = refOf s.dev q) ∧ e.grids = s.dev.grids ∧ e.flt = s.dev.flt) ∧
  (∀ s r l d, indIdle s.dev → kindOf s.dev r = 2 → r < 31 → r < s.dev.refs.length → (refOf s.dev r).lastPulse = some l →
    At s (ceilDiv (l + 65536 * 1001000000).toNat 65536) d → 1 ≤ (refOf s.dev r).missed → (refOf s.dev r).present = true →
    Gives (.missingInputPulse r) s fun e => (refOf e r).present = false ∧ (refOf e r).lcause = 1 ∧ rgb e REF_LOSS r = true ∧
      (∀ q, q ≠ r → refOf e q = refOf s.dev q))

/-- R201, R202: a video grid's boundary when TS-O reaches its next line; a measured grid's first edge, an edge that the divider of an audio grid keeps back, an accepted one, one that takes the place of a flywheel boundary, and a rejected one; a flywheel boundary after 1.5 periods, logged at the first. -/
def Obligations.Grids : Prop :=
  (∀ s g d, g < s.dev.grids.length → indIdle s.dev → videoRuns s.dev g = true → videoRuns d g = true → s.dev.staged = [] → d.staged = [] →
    AtScale s 0 ((nextLine s.dev g : Rat) * linePeriod s.dev g * 1000000000) d →
    Gives (.gridBoundary g) s fun e => (gridOf e g).started = true ∧ (gridOf e g).lastFly = false ∧
      (gridOf e g).cnt = BitVec.ofInt 64 (nextLine d g) ∧ (gridOf e g).passed = some (nextLine d g) ∧
      (∀ p, (gridOf s.dev g).passed = some p → p < nextLine d g) ∧
      (gridOf e g).bnd = ratFloor ((nextLine d g : Rat) * linePeriod d g * 65536000000000) ∧
      (∀ h, h ≠ g → gridOf e h = gridOf d h) ∧ e.tsc = d.tsc ∧ e.refs = d.refs) ∧
  (∀ s g sub, calm s.dev = true → g < s.dev.grids.length → built s.dev 5 g = true → (gridOf s.dev g).run = true → isVideo s.dev g = false →
    (gridOf s.dev g).started = false → isAudioGrid s.dev g = false → s.dev.staged = [] →
    Gives (.gridEdge g sub) s fun e => (gridOf e g).started = true ∧ (gridOf e g).cnt = 0 ∧
      (gridOf e g).bnd = stampOf s.dev.tsc.o + sub ∧ (∀ h, h ≠ g → gridOf e h = gridOf s.dev h) ∧
      Same { e with grids := [] } { s.dev with grids := [] }) ∧
  (∀ s g sub, calm s.dev = true → g < s.dev.grids.length → built s.dev 5 g = true → (gridOf s.dev g).run = true →
    isAudioGrid s.dev g = true → (gridOf s.dev g).divN + 1 < max 1 (eff s.dev (grKey GR_DIV g) 23 0) →
    Gives (.gridEdge g sub) s (Same · { s.dev with grids := upd s.dev.grids g (fun x => { x with divN := x.divN + 1 }) })) ∧
  (∀ s g (sub : Nat) (i : Int), calm s.dev = true → g < s.dev.grids.length → built s.dev 5 g = true → (gridOf s.dev g).run = true →
    isVideo s.dev g = false → isAudioGrid s.dev g = false → (gridOf s.dev g).started = true → s.dev.staged = [] →
    i = stampOf s.dev.tsc.o + sub →
    withinMtol s.dev g (i - (gridOf s.dev g).bnd - gridPer s.dev g) (gridPer s.dev g) = true →
    Gives (.gridEdge g sub) s fun e => (gridOf e g).cnt.toInt = (BitVec.ofInt 64 ((gridOf s.dev g).cnt.toInt + 1)).toInt ∧
      (gridOf e g).bnd = i ∧ (gridOf e g).per = (i - (gridOf s.dev g).bnd).toNat ∧ (gridOf e g).lastFly = false ∧ (gridOf e g).fly = false ∧
      (∀ h, h ≠ g → gridOf e h = gridOf s.dev h) ∧ Same { e with grids := [] } { s.dev with grids := [] }) ∧
  (∀ s g (sub : Nat) (i : Int), calm s.dev = true → g < s.dev.grids.length → built s.dev 5 g = true → (gridOf s.dev g).run = true →
    isVideo s.dev g = false → isAudioGrid s.dev g = false → (gridOf s.dev g).started = true → (gridOf s.dev g).lastFly = true →
    i = stampOf s.dev.tsc.o + sub →
    withinMtol s.dev g (i - (gridOf s.dev g).bnd - gridPer s.dev g) (gridPer s.dev g) = false →
    withinMtol s.dev g (i - (gridOf s.dev g).bnd) (gridPer s.dev g) = true →
    Gives (.gridEdge g sub) s fun e => (gridOf e g).cnt = (gridOf s.dev g).cnt ∧ (gridOf e g).bnd = i ∧ (gridOf e g).lastFly = false ∧
      (gridOf e g).fly = false ∧ (∀ h, h ≠ g → gridOf e h = gridOf s.dev h) ∧
      Same { e with grids := [] } { s.dev with grids := [] }) ∧
  (∀ s g (sub : Nat), calm s.dev = true → g < s.dev.grids.length → built s.dev 5 g = true → (gridOf s.dev g).run = true →
    isVideo s.dev g = false → isAudioGrid s.dev g = false →
    (gridOf s.dev g).started = true → (gridOf s.dev g).lastFly = false →
    eff s.dev (grKey GR_CFG g) 31 16 * gridPer s.dev g <
      ((stampOf s.dev.tsc.o + sub : Int) - (gridOf s.dev g).bnd - gridPer s.dev g).natAbs * 1000000 →
    Gives (.gridEdge g sub) s fun e => rgf e (grKey GR_EVT g) 31 16 = min 65535 (rgf s.dev (grKey GR_EVT g) 31 16 + 1) ∧
      (∀ k, k ≠ grKey GR_EVT g → rg e k = rg s.dev k) ∧ gridOf e g = { gridOf s.dev g with divN := 0 } ∧
      (∀ h, h ≠ g → gridOf e h = gridOf s.dev h) ∧ Same { e with regs := [], grids := [] } { s.dev with regs := [], grids := [] }) ∧
  (∀ s g d, g < s.dev.grids.length → indIdle s.dev → built s.dev 5 g = true → (gridOf s.dev g).run = true → isVideo s.dev g = false →
    (gridOf s.dev g).started = true → s.dev.staged = [] →
    AtScale s 0 (((gridOf s.dev g).bnd : Rat) / 65536 + (gridPer s.dev g : Rat) * 3 / 131072) d →
    Gives (.gridFlywheel g) s fun e => (gridOf e g).cnt = (gridOf s.dev g).cnt + 1 ∧ (gridOf e g).lastFly = true ∧
      (gridOf e g).fly = true ∧ (gridOf e g).bnd = (gridOf s.dev g).bnd + gridPer s.dev g ∧
      raisedBy e srcGridFly = raisedBy s.dev srcGridFly + (if (gridOf s.dev g).fly then 0 else 1) ∧
      (∀ h, h ≠ g → gridOf e h = gridOf s.dev h) ∧ e.tsc = d.tsc)

/-- R26, R205, R206, R208, R209: a trigger fires when TS-O reaches its next instant, once where armed; TRn_CNT_HI arms, or misses an instant less than 2 µs away; a capture goes to the FIFO with its stamp less the tap delay, one within 8 ns of the last is lost; a read pops. -/
def Obligations.TriggersAndCaptures : Prop :=
  (∀ s n c q d, indIdle s.dev → n < s.dev.trigs.length → trigDue s.dev n = some (c, q) → AtScale s 0 q d → calm d = true →
    Gives (.triggerInstant n) s fun e => (trigOf e n).active = true ∧ (trigOf e n).armed = false ∧
      (trigPeriodic s.dev n = true → (trigOf e n).lastC = some c) ∧
      ((trigOf s.dev n).active = false → .pin (pinTrig n) (!efb d (grKey TR_CFG n) 0) (edgePs d 0 q) ∈ e.out) ∧
      (trigOf e n).endPs = some (edgePs d 0 q + (1000 * max 8 (ef d (grKey TR_WIDTH n)).toNat : Nat)) ∧
      (∀ m, m ≠ n → trigOf e m = trigOf d m) ∧ Same { e with trigs := [] } { d with trigs := [] }) ∧
  (∀ d n g, n < d.trigs.length → trigGrid d n = some g → pitchFunc d 6 n = 1 → (gridOf d g).run = true → gridInvalid d g = false →
    (gridOf d g).started = true → trigPeriodic d n = false →
    trigDue d n = (if (trigOf d n).armed = true then
      some ((trigOf d n).count.toInt, trigInstantFor d n g (trigOf d n).count.toInt / 65536) else none)) ∧
  (∀ s r n g v, calm s.dev = true → n ≤ 15 → n < s.dev.trigs.length → Served s.dev r (grKey TR_CNT_HI n) →
    trigGrid s.dev n = some g → pitchFunc s.dev 6 n = 1 → trigPeriodic s.dev n = false → (gridOf s.dev g).started = false →
    isVideo s.dev g = false →
    Gives (.trnCntHiWrite r n v) s fun e => (trigOf e n).armed = true ∧
      (trigOf e n).count = BitVec.ofNat 64 (v.toNat * 2 ^ 32 + (rg s.dev (grKey TR_CNT_LO n)).toNat) ∧
      rg e (grKey TR_CNT_HI n) = v ∧ (∀ m, m ≠ n → trigOf e m = trigOf s.dev m) ∧
      Same { e with trigs := [], regs := [] } { answered s [] with trigs := [], regs := [] }) ∧
  (∀ s r n g v, n ≤ 15 → n < s.dev.trigs.length → Served s.dev r (grKey TR_CNT_HI n) →
    trigGrid s.dev n = some g → pitchFunc s.dev 6 n = 1 → trigPeriodic s.dev n = false → (gridOf s.dev g).started = true →
    trigInstantFor s.dev n g (BitVec.ofNat 64 (v.toNat * 2 ^ 32 + (rg s.dev (grKey TR_CNT_LO n)).toNat)).toInt <
      ((stampOf s.dev.tsc.o + 2000 * 65536 : Nat) : Rat) →
    Gives (.trnCntHiWrite r n v) s fun e => (trigOf e n).armed = false ∧ rgb e (baseOut + 8) 17 = true ∧
      rgf e (grKey TR_EVT n) 15 0 = min 65535 (rgf s.dev (grKey TR_EVT n) 15 0 + 1) ∧ (∀ m, m ≠ n → trigOf e m = trigOf s.dev m)) ∧
  (∀ s n falling (sub : Nat), calm s.dev = true → n < s.dev.trigs.length → pitchFunc s.dev 6 n = 2 → s.dev.gen.mode = .active →
    edgeWanted s.dev n falling = true →
    (∀ l, (trigOf s.dev n).lastEdge = some l → l + 8 * 65536 ≤ (s.dev.t.toNat : Int) * 65536 + sub) → (trigOf s.dev n).fifo.length < 16 →
    rgb s.dev OUT_CAPRING 31 = false →
    Gives (.captureEdge n falling sub) s fun e => (trigOf e n).fifo.length = (trigOf s.dev n).fifo.length + 1 ∧
      (trigOf e n).fifo.take (trigOf s.dev n).fifo.length = (trigOf s.dev n).fifo ∧
      ((trigOf e n).fifo.getLast?.map (fun x => (x.edge, x.v, x.lostBefore))) = some (if falling then 1 else 0,
        ((stampOf (scaleVal s.dev (stampScale s.dev 6 n)) : Int) + sub - tapOf s.dev (6 + n)).toNat, (trigOf s.dev n).lostBefore) ∧
      (trigOf e n).lostBefore = false ∧ (trigOf e n).lastEdge = some ((s.dev.t.toNat : Int) * 65536 + sub) ∧
      (∀ m, m ≠ n → trigOf e m = trigOf s.dev m) ∧ Same { e with trigs := [] } { s.dev with trigs := [] }) ∧
  (∀ s n falling (sub : Nat) l, pitchFunc s.dev 6 n = 2 → s.dev.gen.mode = .active → edgeWanted s.dev n falling = true →
    (trigOf s.dev n).lastEdge = some l → (s.dev.t.toNat : Int) * 65536 + sub < l + 8 * 65536 →
    Gives (.captureEdge n falling sub) s fun e => e.trigs = s.dev.trigs ∧
      rgf e (grKey TR_EVT n) 31 16 = min 65535 (rgf s.dev (grKey TR_EVT n) 31 16 + 1) ∧ rgb e (baseOut + 8) 19 = true) ∧
  (∀ s r n x rest, calm s.dev = true → n ≤ 15 → n < s.dev.trigs.length → Served s.dev r (grKey TR_CAP n) →
    (trigOf s.dev n).fifo = x :: rest →
    Gives (.trnCap0Read r n) s fun e => (trigOf e n).fifo = rest ∧ e.resp = ⟨.ok, (leWords (capBytes n x)).take 1⟩ ∧
      (∀ j, j < 8 → heldWord (reqOf e r) (grKey TR_CAP n + 4 * j) = (leWords (capBytes n x)).getD j 0) ∧
      (∀ m, m ≠ n → trigOf e m = trigOf s.dev m) ∧ e.regs = s.dev.regs)

end
/-! ### The TDC (chapter 10) -/

section
open Sys2Proof Sys2Proof.Machine

/-- R212, R215, R216: a start opens a measurement; a start into an open one is lost, or with RESTART opens the next; a stop writes a record; the 64th closes it with END; so does the window when its time is over. An edge that does not cross the threshold or has another slope does nothing; one in the dead time is counted as lost. -/
def Obligations.IntervalMode : Prop :=
  (∀ s x, calm s.dev = true → tdcMode s.dev = 0 → Accepts s.dev 0 x → s.dev.tdc.meas = none →
    Gives (.tdcStartEdge x) s fun e =>
      e.tdc = { s.dev.tdc with
        meas := some ⟨edgeAs s.dev 0 x, 0, tdcF s.dev, !s.dev.tdc.warm⟩, nextSeq := s.dev.tdc.nextSeq + 1,
        lastEdge := e.tdc.lastEdge } ∧ Same { e with tdc := s.dev.tdc } s.dev) ∧
  (∀ s x m, calm s.dev = true → tdcMode s.dev = 0 → Accepts s.dev 0 x → s.dev.tdc.meas = some m →
    windowOver s.dev m (edgeAs s.dev 0 x) = false → rgb s.dev (baseTdc + 4) 3 = false →
    Gives (.tdcStartEdge x) s fun e =>
      e.tdc = { s.dev.tdc with lastEdge := e.tdc.lastEdge } ∧
      rgf e (inKey TDC_EVT 0) 31 16 = min 65535 (rgf s.dev (inKey TDC_EVT 0) 31 16 + 1) ∧
      (∀ k, k ≠ inKey TDC_EVT 0 → rg e k = rg s.dev k) ∧
      Same { e with tdc := s.dev.tdc, regs := [] } { s.dev with regs := [] }) ∧
  (∀ s x m, tdcMode s.dev = 0 → Accepts s.dev 0 x → s.dev.tdc.meas = some m →
    windowOver s.dev m (edgeAs s.dev 0 x) = false → rgb s.dev (baseTdc + 4) 3 = true →
    s.dev.tdc.fifo.length < 128 → rgb s.dev TDC_RING 31 = false →
    Gives (.tdcStartEdge x) s fun e => e.tdc.meas = some ⟨edgeAs s.dev 0 x, 0, tdcF s.dev, !s.dev.tdc.warm⟩ ∧
      e.tdc.nextSeq = s.dev.tdc.nextSeq + 1 ∧
      e.tdc.fifo = s.dev.tdc.fifo ++ [⟨0, m.stops, 0, s.dev.tdc.nextSeq - 1, m.start.bell16, 0, b2n m.start.falling,
        rflags m.coldSeen m.start.stale true false true + 8 * b2n s.dev.tdc.lostBefore⟩] ∧ e.gen = s.dev.gen) ∧
  (∀ s n x m, calm s.dev = true → tdcMode s.dev = 0 → n ≠ 0 → Accepts s.dev n x → s.dev.tdc.meas = some m → m.stops ≠ 63 →
    edgeTime m.start ≤ edgeTime (edgeAs s.dev n x) → windowOver s.dev m (edgeAs s.dev n x) = false →
    s.dev.tdc.fifo.length < 128 → rgb s.dev TDC_RING 31 = false →
    Gives (.tdcStopEdge n x) s fun e =>
      e.tdc = { s.dev.tdc with
        meas := some { m with stops := m.stops + 1 }, lostBefore := false, lastEdge := e.tdc.lastEdge,
        fifo := s.dev.tdc.fifo ++ [⟨BitVec.ofInt 64 (edgeDiff m.fInc m.start (edgeAs s.dev n x)), m.stops, 0,
          s.dev.tdc.nextSeq - 1, m.start.bell16, n, b2n (fallingIn x),
          rflags m.coldSeen (m.start.stale || (edgeAs s.dev n x).stale) false false false + 8 * b2n s.dev.tdc.lostBefore⟩] } ∧
      (∀ k, k ≠ inKey TDC_EVT n → rg e k = rg s.dev k) ∧
      Same { e with tdc := s.dev.tdc, regs := [] } { s.dev with regs := [] }) ∧
  (∀ s n x m, tdcMode s.dev = 0 → n ≠ 0 → Accepts s.dev n x → s.dev.tdc.meas = some m → m.stops = 63 →
    edgeTime m.start ≤ edgeTime (edgeAs s.dev n x) → windowOver s.dev m (edgeAs s.dev n x) = false →
    s.dev.tdc.fifo.length < 127 → rgb s.dev TDC_RING 31 = false →
    Gives (.tdcStopEdge n x) s fun e => e.tdc.meas = none ∧ e.tdc.nextSeq = s.dev.tdc.nextSeq ∧
      (e.tdc.fifo.drop s.dev.tdc.fifo.length).map (fun a => (a.val1, a.flags.testBit 4, a.flags.testBit 5)) =
        [(63, false, false), (64, true, true)] ∧ e.tdc.fifo.take s.dev.tdc.fifo.length = s.dev.tdc.fifo ∧ e.gen = s.dev.gen) ∧
  (∀ s n x, calm s.dev = true → tdcMode s.dev = 0 → n ≠ 0 → Accepts s.dev n x → s.dev.tdc.meas = none →
    Gives (.tdcStopEdge n x) s (fun e => Same e { s.dev with tdc := { s.dev.tdc with lastEdge := e.tdc.lastEdge } })) ∧
  (∀ s m d, indIdle s.dev → s.dev.tdc.meas = some m → s.dev.tdc.fifo.length < 128 →
    At s (m.start.coarse + tdcWindow s.dev * 1000000 + b2n (m.start.fine2 != 0)) d → rgb d TDC_RING 31 = false →
    Gives .tdcWindowExpiry s fun e => e.tdc = { s.dev.tdc with
        meas := none, lostBefore := false,
        fifo := s.dev.tdc.fifo ++ [⟨0, m.stops, 0, s.dev.tdc.nextSeq - 1, m.start.bell16, 0, b2n m.start.falling,
          rflags m.coldSeen m.start.stale true false false + 8 * b2n s.dev.tdc.lostBefore⟩] } ∧
      (∀ k, quietKey k → k ≠ inKey TDC_EVT 0 → rg e k = rg d k) ∧ e.gen = s.dev.gen) ∧
  (∀ s n x, calm s.dev = true → tdcMode s.dev ≠ 2 → edgePasses s.dev n x = true →
    n ≠ 0 → (∃ l, s.dev.tdc.lastEdge.getD n none = some l ∧ edgeTime (edgeAs s.dev n x) < l + 4 * 2 ^ 21) →
    Gives (.tdcStopEdge n x) s fun e =>
      rgf e (inKey TDC_EVT n) 31 16 = min 65535 (rgf s.dev (inKey TDC_EVT n) 31 16 + 1) ∧
      (∀ k, k ≠ inKey TDC_EVT n → rg e k = rg s.dev k) ∧ Same { e with regs := [] } { s.dev with regs := [] }) ∧
  (∀ s n x, calm s.dev = true → edgePasses s.dev n x = false → Gives (.tdcStopEdge n x) s (Same · s.dev)) ∧
  (∀ s x, calm s.dev = true → edgePasses s.dev 0 x = false → Gives (.tdcStartEdge x) s (Same · s.dev))

/-- R26, R218, R219: a timestamp is the scale at the edge, less the tap delay; in reciprocal mode an edge is counted, opens its input's part of the gate, and completes the record of the gate before it with the edges between and the time they took; a gate closes after its length, and an input without an edge has an empty record. Where no gate is open the state stays (the model's choice, log 21). -/
def Obligations.TimestampAndGate : Prop :=
  (∀ s n x (v : Nat), calm s.dev = true → tdcMode s.dev = 1 → Accepts s.dev n x → n < s.dev.tdc.edgeSeq.length →
    s.dev.tdc.fifo.length < 128 → rgb s.dev TDC_RING 31 = false →
    v = ((stampOf (scaleVal s.dev (tdcScale s.dev)) : Int) + ratNearest (((edgeAs s.dev n x).fine2 : Rat) / 32) - tapOf s.dev 22).toNat →
    Gives (.tdcTimestampEdge n x) s fun e =>
      e.tdc.fifo = s.dev.tdc.fifo ++ [⟨BitVec.ofNat 64 (v / (65536 * 1000000000)), v / 65536 % 1000000000, v % 65536,
          s.dev.tdc.edgeSeq.getD n 0, s.dev.bellCnt.toNat % 65536, n, b2n (fallingIn x),
          rflags (!s.dev.tdc.warm) (edgeAs s.dev n x).stale false false false + 8 * b2n s.dev.tdc.lostBefore⟩] ∧
      e.tdc.edgeSeq.getD n 0 = s.dev.tdc.edgeSeq.getD n 0 + 1 ∧ e.tdc.meas = s.dev.tdc.meas ∧
      rgf e (inKey TDC_EVT n) 15 0 = min 65535 (rgf s.dev (inKey TDC_EVT n) 15 0 + 1) ∧
      (∀ k, k ≠ inKey TDC_EVT n → rg e k = rg s.dev k) ∧
      Same { e with tdc := s.dev.tdc, regs := [] } { s.dev with regs := [] }) ∧
  (∀ s n x, calm s.dev = true → tdcMode s.dev = 2 → Accepts s.dev n x → n < s.dev.tdc.gates.length → n < s.dev.tdc.edgeCnt.length →
    s.dev.tdc.gateOpen = true → (tdcGateOf s.dev n).first = none → s.dev.tdc.gateWait.getD n none = none →
    Gives (.tdcTimestampEdge n x) s fun e =>
      tdcGateOf e n = ⟨some (edgeAs s.dev n x), s.dev.tdc.edgeCnt.getD n 0 + 1, tdcF s.dev, !s.dev.tdc.warm⟩ ∧
      e.tdc.edgeCnt.getD n 0 = s.dev.tdc.edgeCnt.getD n 0 + 1 ∧ (∀ k, k ≠ n → tdcGateOf e k = tdcGateOf s.dev k) ∧
      e.tdc.fifo = s.dev.tdc.fifo ∧ Same { e with tdc := s.dev.tdc } s.dev) ∧
  (∀ s n x g no a, tdcMode s.dev = 2 → Accepts s.dev n x → n < s.dev.tdc.gateWait.length → n < s.dev.tdc.edgeCnt.length →
    s.dev.tdc.gateWait.getD n none = some (g, no) → g.first = some a →
    s.dev.tdc.fifo.length < 128 → rgb s.dev TDC_RING 31 = false →
    Gives (.tdcTimestampEdge n x) s fun e => e.tdc.gateWait.getD n none = none ∧
      e.tdc.fifo = s.dev.tdc.fifo ++ [⟨BitVec.ofInt 64 (edgeDiff g.fInc a (edgeAs s.dev n x)), s.dev.tdc.edgeCnt.getD n 0 + 1 - g.count, 0,
        no, a.bell16, n, b2n a.falling,
        rflags (g.coldSeen || !s.dev.tdc.warm) (a.stale || (edgeAs s.dev n x).stale) false false false + 8 * b2n s.dev.tdc.lostBefore⟩] ∧
      e.gen = s.dev.gen) ∧
  (∀ s n a d, indIdle s.dev → tdcRuns d = true → tdcMode d = 2 → gateDue s.dev = some (s.dev.tdc.gateT.toNat + tdcWindow s.dev * 1000000) →
    At s (s.dev.tdc.gateT.toNat + tdcWindow s.dev * 1000000) d → calm d = true → n < 8 → inputTakes d n = true →
    (∀ k, k ≠ n → inputTakes d k = false) → n < s.dev.tdc.gates.length → n < s.dev.tdc.gateWait.length →
    (tdcGateOf s.dev n).first = some a →
    Gives .tdcGateClose s fun e => e.tdc.gateNo = s.dev.tdc.gateNo + 1 ∧ e.tdc.gateOpen = true ∧ e.tdc.gateT = d.t ∧
      e.tdc.gateWait.getD n none = some (tdcGateOf s.dev n, s.dev.tdc.gateNo) ∧ tdcGateOf e n = {} ∧
      (∀ k, k ≠ n → tdcGateOf e k = tdcGateOf s.dev k) ∧ e.tdc.fifo = s.dev.tdc.fifo ∧ Same { e with tdc := d.tdc } d) ∧
  (∀ d n g a, (tdcGateOf d n).first = none → d.tdc.fifo.length < 128 → rgb d TDC_RING 31 = false → n < d.tdc.gates.length →
    g = closeInput d n → a = g.tdc.fifo.getLast?.getD default →
    tdcGateOf g n = {} ∧ g.tdc.fifo = d.tdc.fifo ++ [a] ∧ a.val0 = 0 ∧ a.val1 = 0 ∧ a.seq = d.tdc.gateNo ∧ a.input = n ∧ a.bell16 < 65536) ∧
  (∀ s, calm s.dev = true → gateDue s.dev = none → Gives .tdcGateClose s (Same · s.dev))

/-- R220, R221: five minutes of OSCRDY without a reference, or five of small drift with one, set OSC_WARM; a large drift or the fall of OSCRDY clears it, and what is open remembers. -/
def Obligations.OscillatorWarm : Prop :=
  (∀ s d, indIdle s.dev → At s ((s.dev.tdc.minT.toNat / 60000000000 + 1) * 60000000000) d → calm d = true →
    heldInReset d 11 0 = false → driftRef d = none →
    Gives (.tdcMinute true) s fun e => e.tdc.rdyMin = min 5 (s.dev.tdc.rdyMin + 1) ∧ e.tdc.warmMin = 0 ∧
      e.tdc.warm = (s.dev.tdc.warm || decide (min 5 (s.dev.tdc.rdyMin + 1) = 5)) ∧ e.tdc.fifo = s.dev.tdc.fifo ∧
      e.tdc.minT = BitVec.ofNat 64 (d.t.toNat / 60000000000 * 60000000000) ∧ Same { e with tdc := d.tdc } d) ∧
  (∀ s rdy r b d, indIdle s.dev → At s ((s.dev.tdc.minT.toNat / 60000000000 + 1) * 60000000000) d → calm d = true →
    heldInReset d 11 0 = false → driftRef d = some r → s.dev.tdc.minN ≠ 0 → s.dev.tdc.lastMean = some b →
    ((s.dev.tdc.minSum : Rat) / (s.dev.tdc.minN : Rat) - b) * 1000000000 < (2 : Rat) ^ 48 →
    (b - (s.dev.tdc.minSum : Rat) / (s.dev.tdc.minN : Rat)) * 1000000000 < (2 : Rat) ^ 48 →
    Gives (.tdcMinute rdy) s fun e => e.tdc.warmMin = min 5 (s.dev.tdc.warmMin + 1) ∧
      e.tdc.warm = (s.dev.tdc.warm || decide (min 5 (s.dev.tdc.warmMin + 1) = 5)) ∧
      e.tdc.lastMean = some ((s.dev.tdc.minSum : Rat) / (s.dev.tdc.minN : Rat)) ∧ e.tdc.minN = 0 ∧ e.tdc.minSum = 0 ∧
      Same { e with tdc := d.tdc } d) ∧
  (∀ s rdy r b d, indIdle s.dev → At s ((s.dev.tdc.minT.toNat / 60000000000 + 1) * 60000000000) d →
    heldInReset d 11 0 = false → driftRef d = some r → s.dev.tdc.minN ≠ 0 → s.dev.tdc.lastMean = some b →
    (2 : Rat) ^ 48 ≤ ((s.dev.tdc.minSum : Rat) / (s.dev.tdc.minN : Rat) - b) * 1000000000 ∨
      (2 : Rat) ^ 48 ≤ (b - (s.dev.tdc.minSum : Rat) / (s.dev.tdc.minN : Rat)) * 1000000000 →
    Gives (.tdcMinute rdy) s fun e => e.tdc.warm = false ∧ e.tdc.warmMin = 0 ∧
      e.tdc.meas = s.dev.tdc.meas.map (fun m => { m with coldSeen := true })) ∧
  (∀ s, calm s.dev = true →
    Gives .oscrdyFall s fun e => e.tdc.warm = false ∧ e.tdc.warmMin = 0 ∧ e.tdc.rdyMin = 0 ∧
      e.tdc.meas = s.dev.tdc.meas.map (fun m => { m with coldSeen := true }) ∧ e.tdc.fifo = s.dev.tdc.fifo ∧
      Same { e with tdc := s.dev.tdc } s.dev)

/-- R222, R224, R226, R227: a table that passes is installed and the spare is ready to swap; one that fails is logged, and three in a row stop the background calibration; TDC_RES0 pops. -/
def Obligations.TdcCalibration : Prop :=
  (∀ s c, calm s.dev = true → s.dev.tdc.calRun = true → c.intp = s.dev.tdc.spare → calPasses c = true →
    c.intp < s.dev.tdc.tables.length → c.intp < s.dev.tdc.tableT.length →
    Gives (.tdcCalibrationComplete c) s fun e => tdcTable e c.intp = c ∧ e.tdc.tableT.getD c.intp none = some s.dev.t ∧
      e.tdc.swapReady = true ∧ e.tdc.calRun = false ∧ e.tdc.fails = 0 ∧ e.tdc.intp = s.dev.tdc.intp ∧
      (∀ i, i ≠ c.intp → tdcTable e i = tdcTable s.dev i) ∧ Same { e with tdc := s.dev.tdc } s.dev) ∧
  (∀ s c, s.dev.tdc.calRun = true → c.intp = s.dev.tdc.spare → calPasses c = false →
    Gives (.tdcCalibrationComplete c) s fun e => e.tdc = { s.dev.tdc with
        calRun := false, fails := s.dev.tdc.fails + 1, stopped := s.dev.tdc.stopped || decide (3 ≤ s.dev.tdc.fails + 1),
        round := s.dev.tdc.round && decide (s.dev.tdc.fails + 1 < 3) } ∧
      raisedBy e srcTdcCalFail = raisedBy s.dev srcTdcCalFail + 1 ∧ rgb e (baseTdc + 8) 19 = true ∧ e.gen = s.dev.gen) ∧
  (∀ s r x rest, calm s.dev = true → Served s.dev r TDC_RES → s.dev.tdc.fifo = x :: rest →
    Gives (.tdcRes0Read r) s fun e => e.tdc = { s.dev.tdc with fifo := rest } ∧
      e.resp = ⟨.ok, (leWords (tdcBytes x)).take 1⟩ ∧
      (∀ j, j < 8 → heldWord (reqOf e r) (TDC_RES + 4 * j) = (leWords (tdcBytes x)).getD j 0) ∧ e.regs = s.dev.regs) ∧
  (∀ s r, calm s.dev = true → Served s.dev r TDC_RES → s.dev.tdc.fifo = [] →
    Gives (.tdcRes0Read r) s fun e => e.tdc = s.dev.tdc ∧ e.resp = ⟨.ok, [0]⟩ ∧ e.regs = s.dev.regs)

end

/-! ### The GNSS receiver (chapter 11) -/

section
open Sys2Proof Sys2Proof.Machine

/-- R230, R234, R236 to R238, R240: a channel's states; a search of 2 s that ends in nothing frees it, one that finds its signal within its windows takes it to PULLIN; a dwell of the bank hands its detections over and moves its slot to the next satellite. GCLK's recovery after 1 s; a scheduled change of TAI − UTC takes effect at its second, or leaves the value unknown. Where the event cannot occur, the state stays (the model's choice, log 21). -/
def Obligations.GnssChannelsAndClock : Prop :=
  (∀ s c, calm s.dev = true → c < s.dev.gns.chans.length → (chanOf s.dev c).st = .pullIn ∨ (chanOf s.dev c).st = .lost →
    mayTrack s.dev (chanOf s.dev c).sig (chanOf s.dev c).fch = true → sigBand (chanOf s.dev c).sig < s.dev.gns.bandTracked.length →
    Gives (.channelTrack c) s fun e => chanOf e c = { chanOf s.dev c with st := .track } ∧
      e.gns.bandTracked.getD (sigBand (chanOf s.dev c).sig) false = true ∧ (∀ k, k ≠ c → chanOf e k = chanOf s.dev k) ∧
      Same { e with gns := { e.gns with chans := [], bandTracked := [] } }
        { s.dev with gns := { s.dev.gns with chans := [], bandTracked := [] } }) ∧
  (∀ s c, calm s.dev = true → c < s.dev.gns.chans.length → (chanOf s.dev c).st = .track →
    Gives (.channelLockLoss c) s fun e => (chanOf e c).st = .lost ∧ (chanOf e c).inSol = false ∧
      (∀ k, k ≠ c → chanOf e k = chanOf s.dev k) ∧ (∀ k, k ≠ CH_EVT + c * 0x40 → rg e k = rg s.dev k) ∧
      rgf e (CH_EVT + c * 0x40) 15 0 = min 65535 (rgf s.dev (CH_EVT + c * 0x40) 15 0 + 1) ∧
      Same { e with gns := s.dev.gns, regs := [] } { s.dev with regs := [] }) ∧
  (∀ s c d, indIdle s.dev → c < s.dev.gns.chans.length → (chanOf s.dev c).st = .search →
    At s ((chanOf s.dev c).searchT.toNat + 2000000000) d → calm d = true → chAuto d = false →
    Gives (.searchTimeout c) s fun e => chanOf e c = {} ∧ (∀ k, k ≠ c → chanOf e k = chanOf s.dev k) ∧
      Same { e with gns := d.gns } d) ∧
  (∀ s c, calm s.dev = true → (chanOf s.dev c).st ≠ .search → Gives (.searchTimeout c) s (Same · s.dev)) ∧
  (∀ s b n inp sig sv, calm s.dev = true → gnsRuns s.dev = true → s.dev.gns.aidWait = [] → bankTurn s.dev b = some n →
    n < s.dev.gns.slotSv.length → slotJob s.dev n = some (sig, 0) → sv = max 1 (s.dev.gns.slotSv.getD n 0) →
    (∀ x ∈ inp.cells, detected inp.floor (slotNcoh s.dev n) x = false) →
    Gives (.searchDwellComplete (.bank b) inp) s (Same · { s.dev with gns := { s.dev.gns with
      aidWait := [], slotSv := upd s.dev.gns.slotSv n (fun _ => sv % svCount (sigSys sig) + 1),
      bankSlot := upd s.dev.gns.bankSlot b (fun _ => n) } })) ∧
  (∀ s b n x c sig sv p fl, gnsRuns s.dev = true → s.dev.gns.aidWait = [] → bankTurn s.dev b = some n →
    n < s.dev.gns.detections.length → slotJob s.dev n = some (sig, sv) → sv ≠ 0 → sig ≠ 7 → mayTrack s.dev sig 0 = true →
    detected fl (slotNcoh s.dev n) x = true → s.dev.gns.chans.findIdx? (fun h => h.st == .idle) = some c →
    Gives (.searchDwellComplete (.bank b) ⟨p, fl, [x]⟩) s fun e =>
      chanOf e c = { st := .pullIn, sig := sig, sv := sv, doppler := x.dop * 256 } ∧ (∀ k, k ≠ c → chanOf e k = chanOf s.dev k) ∧
      e.gns.detections.getD n 0 = min 65535 (s.dev.gns.detections.getD n 0 + 1) ∧ e.gns.nav = s.dev.gns.nav ∧ e.tsc = s.dev.tsc) ∧
  (∀ s c x p fl, gnsRuns s.dev = true → s.dev.gns.aidWait = [] → c < s.dev.gns.chans.length → (chanOf s.dev c).st = .search →
    mayTrack s.dev (chanOf s.dev c).sig (chanOf s.dev c).fch = true → detected fl x.sums.length x = true →
    x.dop.natAbs ≤ dopWindow s.dev (sigSys (chanOf s.dev c).sig) (chanOf s.dev c).sv →
    (∀ w, codeWindow s.dev (sigBand (chanOf s.dev c).sig) = some w → x.code.natAbs ≤ w) →
    Gives (.searchDwellComplete (.chan c) ⟨p, fl, [x]⟩) s fun e =>
      chanOf e c = { chanOf s.dev c with st := .pullIn, doppler := (p + x.dop) * 256 } ∧ (∀ k, k ≠ c → chanOf e k = chanOf s.dev k) ∧
      e.gns.nav = s.dev.gns.nav ∧ e.tsc = s.dev.tsc) ∧
  (∀ s d, indIdle s.dev → At s (s.dev.gns.gclkBadT.toNat + 1000000000) d → calm d = true →
    Gives .gclkRecovery s (Same · { d with gns := { d.gns with gclkF := false } })) ∧
  (∀ s (t : Nat) v d, indIdle s.dev → s.dev.gns.leapNext = some (t, some v) → AtScale s 0 ((t : Rat) * 1000000000) d → calm d = true →
    Gives .leapChange s (Same · { d with gns := { d.gns with leap := v, leapNext := none } })) ∧
  (∀ s (t : Nat) d, indIdle s.dev → s.dev.gns.leapNext = some (t, none) → AtScale s 0 ((t : Rat) * 1000000000) d → calm d = true →
    Gives .leapChange s (Same · { d with gns := { d.gns with leapSrc := 0, leapNext := none } })) ∧
  (∀ s, calm s.dev = true → s.dev.gns.leapNext = none → Gives .leapChange s (Same · s.dev))

/-- R242, R243, R245 to R247: a unit of a channel in TRACK is checked: one that fails is not used; one without room in its ring is counted; an ephemeris beyond 50 km is rejected and logged; LNAV waits for a second identical reception; data goes to the NV store when the energy for it is there; an aid record is taken or discarded. -/
def Obligations.NavigationData : Prop :=
  (∀ s u bits, calm s.dev = true → (chanOf s.dev u.ch).st = .track → bandOn s.dev (sigBand (chanOf s.dev u.ch).sig) = true →
    (unitLengths (chanOf s.dev u.ch).sig).contains u.bits.length = true → (chanOf s.dev u.ch).sig ≠ 0 →
    unitCheck s.dev (chanOf s.dev u.ch).sig (chanOf s.dev u.ch).sv u.bits = (2, bits) → rgb s.dev GN_RINGS 31 = false →
    Gives (.navUnitDecoded u) s (Same · s.dev)) ∧
  (∀ s u bits, calm s.dev = true → (chanOf s.dev u.ch).st = .track → bandOn s.dev (sigBand (chanOf s.dev u.ch).sig) = true →
    (unitLengths (chanOf s.dev u.ch).sig).contains u.bits.length = true → (chanOf s.dev u.ch).sig ≠ 0 →
    unitCheck s.dev (chanOf s.dev u.ch).sig (chanOf s.dev u.ch).sv u.bits = (2, bits) → (segments bits).length = 1 →
    rgb s.dev GN_RINGS 31 = true → rxEn s.dev (rgf s.dev GN_RINGS 5 0) = false →
    Gives (.navUnitDecoded u) s fun e => rgf e GN_NAVDROP 31 0 = min (2 ^ 32 - 1) (rgf s.dev GN_NAVDROP 31 0 + 1) ∧
      e.gns = { s.dev.gns with navLost := true } ∧ (∀ k, k ≠ GN_NAVDROP → rg e k = rg s.dev k)) ∧
  (∀ s u check bits b, (chanOf s.dev u.ch).st = .track → bandOn s.dev (sigBand (chanOf s.dev u.ch).sig) = true →
    (unitLengths (chanOf s.dev u.ch).sig).contains u.bits.length = true → (chanOf s.dev u.ch).sig ≠ 0 →
    unitCheck s.dev (chanOf s.dev u.ch).sig (chanOf s.dev u.ch).sv u.bits = (check, bits) → check ≠ 2 → rgb s.dev GN_RINGS 31 = false →
    u.content.utc = none → u.content.week = none → u.content.almanac = none → u.content.ephemeris = some b → 50 < u.content.fs5Km →
    (∀ y ∈ s.dev.gns.nav, y.bits ≠ b) →
    Gives (.navUnitDecoded u) s fun e => e.gns.nav = s.dev.gns.nav ∧
      (sigSys (chanOf s.dev u.ch).sig, (chanOf s.dev u.ch).sv) ∈ e.gns.fs5 ∧ e.gns.fs5Flag = true ∧
      raisedBy e srcGnssFalsesig = raisedBy s.dev srcGnssFalsesig + 1 ∧ e.gnsStore = s.dev.gnsStore) ∧
  (∀ s u check bits b, calm s.dev = true → (chanOf s.dev u.ch).st = .track → bandOn s.dev 0 = true →
    (chanOf s.dev u.ch).sig = 0 → u.bits.length = 30 →
    unitCheck s.dev 0 (chanOf s.dev u.ch).sv u.bits = (check, bits) → check ≠ 2 → rgb s.dev GN_RINGS 31 = false →
    u.content.utc = none → u.content.week = none → u.content.almanac = none → u.content.iono = none → u.content.offset = none →
    u.content.ephemeris = some b → ((chanOf s.dev u.ch).sv, b) ∉ s.dev.gns.lnavSeen →
    Gives (.navUnitDecoded u) s fun e => Same e { s.dev with gns := { s.dev.gns with
      lnavTail := e.gns.lnavTail,
      lnavSeen := ((chanOf s.dev u.ch).sv, b) :: s.dev.gns.lnavSeen.filter (·.1 != (chanOf s.dev u.ch).sv) } }) ∧
  (∀ s u check bits b sv, calm s.dev = true → (chanOf s.dev u.ch).st = .track → bandOn s.dev 0 = true →
    (chanOf s.dev u.ch).sig = 0 → (chanOf s.dev u.ch).sv = sv → u.bits.length = 30 →
    unitCheck s.dev 0 sv u.bits = (check, bits) → check ≠ 2 → rgb s.dev GN_RINGS 31 = false →
    u.content.utc = none → u.content.week = none → u.content.almanac = none →
    u.content.ephemeris = some b → u.content.fs5Km ≤ 50 → (sv, b) ∈ s.dev.gns.lnavSeen → (∀ y ∈ s.dev.gns.nav, y.bits ≠ b) →
    Gives (.navUnitDecoded u) s fun e => ⟨0, sv, false, b, u.content.clk, s.dev.t, (nowSec s.dev).getD 0, false⟩ ∈ e.gns.nav ∧
      (∀ y ∈ e.gns.nav, y.sys = 0 → y.sv = sv → y.almanac = false → y.bits = b) ∧
      (0, sv) ∉ e.gns.fs5 ∧ (0 < s.dev.gns.storeDue.length → e.gns.storeDue.getD 0 false = true) ∧
      Same { e with gns := s.dev.gns } s.dev) ∧
  (∀ s sys, calm s.dev = true → sys < 4 → storeReady s.dev sys = true → energyFor s.dev 2400 = true →
    Gives (.gnssStoreWrite sys) s fun e =>
      e.gnsStore.nav.filter (·.sys == sys) = s.dev.gns.nav.filter (·.sys == sys) ∧
      e.gnsStore.nav.filter (·.sys != sys) = s.dev.gnsStore.nav.filter (·.sys != sys) ∧
      e.gnsStore.pos = s.dev.gnsStore.pos ∧ e.gns.nav = s.dev.gns.nav ∧
      Same { e with gns := s.dev.gns, gnsStore := s.dev.gnsStore } s.dev) ∧
  (∀ s p, calm s.dev = true → s.dev.gns.posDue = some p → energyFor s.dev 2400 = true →
    Gives (.gnssStoreWrite 4) s fun e => e.gnsStore = { s.dev.gnsStore with pos := some p } ∧ e.gns.posDue = none ∧
      Same { e with gns := s.dev.gns, gnsStore := s.dev.gnsStore } s.dev) ∧
  (∀ s sys, calm s.dev = true → sys < 4 → storeReady s.dev sys = true → energyFor s.dev 2400 = false →
    Gives (.gnssStoreWrite sys) s fun e => rgb e (baseGns + 8) 19 = true ∧ e.gnsStore = s.dev.gnsStore ∧
      e.gns = { s.dev.gns with retry := sys :: s.dev.gns.retry.filter (· != sys) } ∧ (∀ k, k ≠ baseGns + 8 → rg e k = rg s.dev k)) ∧
  (∀ s c q x rest, calm s.dev = true → aidRing s.dev = some q → gnsRuns s.dev = true → txEn s.dev q = true → (txRing s.dev q).stop = false →
    q < s.dev.qmg.txq.length → (txRing s.dev q).posted = x :: rest → aidBad (padTo 64 x.bytes) = false →
    Gives (.aidRecord c) s fun e => e.gns.aidWait = s.dev.gns.aidWait ++ [(padTo 64 x.bytes, c)] ∧
      (txRing e q).posted = rest ∧ e.gns.nav = s.dev.gns.nav ∧ e.tsc = s.dev.tsc) ∧
  (∀ s c q x rest, aidRing s.dev = some q → gnsRuns s.dev = true → txEn s.dev q = true → (txRing s.dev q).stop = false →
    (txRing s.dev q).posted = x :: rest → aidBad (padTo 64 x.bytes) = true →
    Gives (.aidRecord c) s fun e => e.gns = s.dev.gns ∧ rgb e (baseGns + 8) 20 = true ∧ e.tsc = s.dev.tsc)

/-- R230, R231, R250, R256, R260: an epoch takes its tag and marks its instant; without samples every solution in service is withdrawn and another's clean epochs start anew; a fit that T-RAIM passes has every residual within the threshold, one satellite more than unknowns, and excluded no more than MAXEX, and its clock is published as DELTA; a solution that is withdrawn is no longer valid, and is logged. -/
def Obligations.TimeSolutions : Prop :=
  (∀ s inp d, bellEpochNow s.dev = none → AtScale s 0 ((epochNext s.dev : Rat) / (nsUnit : Rat)) d → calm d = true → gnsRuns d = false →
    Gives (.solutionEpoch inp) s (Same · d)) ∧
  (∀ s inp d, bellEpochNow s.dev = none → AtScale s 0 ((epochNext s.dev : Rat) / (nsUnit : Rat)) d → gnsRuns d = true →
    bellEpochNow d = none →
    Gives (.solutionEpoch inp) s fun e => e.gns.tag = tagBefore d inp ∧ e.gns.epochV = max d.gns.epochV (d.tsc.o / epochPer d 0 * epochPer d 0) ∧
      (∀ k, k < 4 → (solOf d k).st = .disabled → solOf e k = solOf d k) ∧
      (d.gns.gclkF = true → ∀ k, k < 3 → k < d.gns.sols.length →
        ((solOf d k).st = .survey ∨ (solOf d k).st = .hold → (solOf e k).st = .withdrawn ∧ (solOf e k).valid = false ∧
          ((solBands d k).any (jnWithdraws d) = false → (solOf d k).posBad = false → (solOf e k).wcause = 7)) ∧
        ((solOf d k).st = .noFix → solOf e k = { solOf d k with nsv := 0, nexcl := 0, sysUsed := 0, sflags := epochFlags d k, clean := 0 }))) ∧
  (∀ th maxEx minSv bc wp fuel l out f, out.length ≤ maxEx → traim th maxEx minSv bc wp fuel l out = .inl f →
    (∀ r ∈ f.res, absR r ≤ (th : Rat)) ∧ f.excl.length ≤ maxEx ∧ minSv ≤ f.obs.length ∧ f.unknowns < f.obs.length ∧
      f.res.length = f.obs.length) ∧
  (∀ d k (f : Fit) upos, k < d.gns.sols.length → (solOf (publishFit d k f upos).1 k).delta = ratNearest (-f.clock * 65536 / 1000) ∧
    (solOf (publishFit d k f upos).1 k).nsv = f.obs.length ∧ (solOf (publishFit d k f upos).1 k).nexcl = f.excl.length ∧
    (solOf (publishFit d k f upos).1 k).lastT = some d.t ∧ (∀ j, j ≠ k → solOf (publishFit d k f upos).1 j = solOf d j)) ∧
  (∀ d k cause, k < d.gns.sols.length → (solOf (withdraw d k cause) k).st = .withdrawn ∧ (solOf (withdraw d k cause) k).valid = false ∧
    (solOf (withdraw d k cause) k).wcause = cause ∧
    rgf (withdraw d k cause) (solKey SOL_EVT k) 23 12 = min 4095 (rgf d (solKey SOL_EVT k) 23 12 + 1) ∧
    raisedBy (withdraw d k cause) srcGnssWithdraw = raisedBy d srcGnssWithdraw + 1)

/-- R229, R251, R262, R264: a write of GN_POS_Z_HI through the window stages the whole position for the Bell; LEARN starts the J/N reference of a band: 60 s of power, 86,400 s of C/N0; an adaptive notch engages on the strongest line at or above NTH, and an engaged one follows its line. Without the band's samples the state stays. -/
def Obligations.GnssPositionAndInterference : Prop :=
  (∀ s r v, calm s.dev = true → Served s.dev r gnsIndData → keyEn s.dev GN_POS_Z_HI = true → lateForBell s.dev = false → s.dev.staged = [] →
    Gives (.gnPosZHiWrite r v) s fun e => rg e GN_POS_Z_HI = v ∧ e.eff = s.dev.eff ∧ (∀ k, k ≠ GN_POS_Z_HI → rg e k = rg s.dev k) ∧
      e.staged.map (·.words) = [(List.range 5).map (fun i => (GN_POS + 4 * i, rg s.dev (GN_POS + 4 * i))) ++ [(GN_POS_Z_HI, v)]] ∧
      e.staged.all (fun x => x.boundary == .bell && !x.late) = true ∧ e.gns = s.dev.gns) ∧
  (∀ s r v, calm s.dev = true → Served s.dev r gnsIndData → keyEn s.dev GN_POS_Z_HI = false →
    Gives (.gnPosZHiWrite r v) s fun e => rg e GN_POS_Z_HI = v ∧ ef e GN_POS_Z_HI = v ∧ e.staged = s.dev.staged ∧
      (∀ i, i < 5 → ef e (GN_POS + 4 * i) = rg s.dev (GN_POS + 4 * i)) ∧ e.gns = s.dev.gns) ∧
  (∀ s r b v, calm s.dev = true → b ≤ 1 → Served s.dev r gnsIndData → b < s.dev.gns.learnLeft.length →
    Gives (.gnJncfgLearn r b v) s fun e =>
      rg e (bandKey GN_JNCFG b) = ((rg s.dev (bandKey GN_JNCFG b) &&& 0xFC00FC00) ||| (v &&& 0x03FF03FF)) ∧
      e.gns.learnLeft.getD b 0 = (if jnByCn s.dev b then 86400 else 60) ∧ e.gns.learnSum.getD b 0 = 0 ∧ e.gns.learnN.getD b 0 = 0 ∧
      (∀ k, k ≠ bandKey GN_JNCFG b → rg e k = rg s.dev k) ∧ e.gns.p0 = s.dev.gns.p0 ∧ e.gns.cnProfile = s.dev.gns.cnProfile) ∧
  (∀ s b lines, calm s.dev = true → bandOn s.dev b = false ∨ 1 < b → Gives (.spectrumUpdate b lines) s (Same · s.dev)) ∧
  (∀ s b n l, calm s.dev = true → bandOn s.dev b = true → b ≤ 1 → n < 4 → notchIx b n < s.dev.gns.notches.length →
    notchMode s.dev b n = 2 → (∀ m, m < 4 → m ≠ n → notchMode s.dev b m ≠ 2) → (notchRaw s.dev b n).engaged = false →
    notchTh s.dev b n ≤ l.db → lineNotched s.dev b l = false →
    Gives (.spectrumUpdate b [l]) s fun e => notchRaw e b n = { engaged := true, freq := l.freq } ∧
      (∀ m, m < 4 → notchRaw e (1 - b) m = notchRaw s.dev (1 - b) m) ∧ Same { e with gns := s.dev.gns } s.dev) ∧
  (∀ s b n l, calm s.dev = true → bandOn s.dev b = true → b ≤ 1 → n < 4 → notchIx b n < s.dev.gns.notches.length →
    notchMode s.dev b n = 2 → (∀ m, m < 4 → m ≠ n → notchMode s.dev b m ≠ 2) → (notchRaw s.dev b n).engaged = true →
    (l.freq - (notchRaw s.dev b n).freq).natAbs ≤ 3200000 → notchTh s.dev b n - 30 ≤ l.db →
    Gives (.spectrumUpdate b [l]) s fun e => notchRaw e b n = { notchRaw s.dev b n with freq := l.freq, belowFrom := none } ∧
      Same { e with gns := s.dev.gns } s.dev)

end
/-! ### The Ethernet ports (chapter 12) -/

section
open Sys2Proof Sys2Proof.Machine

/-- R269, R271, R290, R291: a port in TRAINING comes up with its SyncE reference, an SGMII port at 10 or 100 Mb/s does not; one that is UP and loses its lock retrains, counted and logged; a transient fault moves a running port to RETRY with nothing queued and a grace timer, a permanent one retires it; what is no fault of a running port changes nothing; the end of a backoff trains again. Where the event cannot occur, the state stays (the model's choice, log 21). -/
def Obligations.PortStates : Prop :=
  (∀ s p v, calm s.dev = true → p < s.dev.ports.length → p < 6 → (portOf s.dev p).st = .training → portEnabled s.dev p = true →
    kindOf s.dev (10 + p) ≠ 5 → portSpeed s.dev p ≠ 6 ∨ (v ≠ 10 ∧ v ≠ 100) →
    Gives (.linkTrained p v) s (Same · (updPort s.dev p (fun x => { x with st := .up, rclk := true })))) ∧
  (∀ s p v, calm s.dev = true → p < s.dev.ports.length → 10 + p < s.dev.refs.length → p < 6 → (portOf s.dev p).st = .training →
    portEnabled s.dev p = true → kindOf s.dev (10 + p) = 5 → (refOf s.dev (10 + p)).present = false →
    withinFtol s.dev (10 + p) = true → portSpeed s.dev p ≠ 6 →
    Gives (.linkTrained p v) s fun e => portOf e p = { portOf s.dev p with st := .up, rclk := true } ∧
      (refOf e (10 + p)).present = true ∧ (refOf e (10 + p)).presentFrom = s.dev.t ∧ (refOf e (10 + p)).qualified = false ∧
      (∀ r, r ≠ 10 + p → refOf e r = refOf s.dev r) ∧ e.gen = s.dev.gen ∧ e.tsc = s.dev.tsc) ∧
  (∀ s p v, calm s.dev = true → (portOf s.dev p).st = .training → portEnabled s.dev p = true → portSpeed s.dev p = 6 → v = 10 ∨ v = 100 →
    Gives (.linkTrained p v) s (Same · (updPort s.dev p (fun x => { x with fltCause := 9 })))) ∧
  (∀ s p v, calm s.dev = true → (portOf s.dev p).st ≠ .training → Gives (.linkTrained p v) s (Same · s.dev)) ∧
  (∀ s p, calm s.dev = true → p < s.dev.ports.length → p < 6 → (portOf s.dev p).st = .up → kindOf s.dev (10 + p) ≠ 5 →
    (∀ q ∈ (portOf s.dev p).queues, q = []) →
    Gives (.linkLoss p) s fun e => portOf e p = { portOf s.dev p with
        st := .training, busyUntil := none, queues := List.replicate 8 [], fcPend := [], rclk := false } ∧
      rgf e (cntKey p cntLinkLoss) 31 0 = min (2 ^ 32 - 1) (rgf s.dev (cntKey p cntLinkLoss) 31 0 + 1) ∧
      raisedBy e srcPortLink = raisedBy s.dev srcPortLink + 1 ∧ (∀ q, q ≠ p → portOf e q = portOf s.dev q) ∧
      e.gen = s.dev.gen ∧ e.tsc = s.dev.tsc) ∧
  (∀ s p, calm s.dev = true → (portOf s.dev p).st ≠ .up → (portOf s.dev p).st ≠ .training → Gives (.linkLoss p) s (Same · s.dev)) ∧
  (∀ s p c, calm s.dev = true → (portOf s.dev p).st = .disabled ∨ (portOf s.dev p).st = .retired ∨ portSource c = none →
    Gives (.portTransientFault p c) s (Same · s.dev)) ∧
  (∀ s p c code, calm s.dev = true → p ≤ 5 → p < s.dev.ports.length → c ≤ 3 → portSource c = some code →
    (portOf s.dev p).st = .training ∨ (portOf s.dev p).st = .up ∨ (portOf s.dev p).st = .retry →
    conseqOf s.dev code p = none → reactionPending s.dev code p = false →
    (fltChanOf s.dev code p).latched = false → (fltChanOf s.dev code p).grace = none →
    Gives (.portTransientFault p c) s fun e => (portOf e p).st = .retry ∧ (portOf e p).fltCause = c ∧
      (portOf e p).queues = List.replicate 8 [] ∧ (portOf e p).launchQ = [] ∧ (portOf e p).rclk = false ∧
      (fltChanOf e code p).latched = true ∧
      (fltChanOf e code p).grace.map (·.deadline) = some (s.dev.t + BitVec.ofNat 64 ((policyOf s.dev).graceMs * ms)) ∧
      raisedBy e code = raisedBy s.dev code + 1 ∧ (∀ q, q ≠ p → portOf e q = portOf s.dev q)) ∧
  (∀ s p, p ≤ 5 → p < s.dev.ports.length → (portOf s.dev p).st = .up → conseqOf s.dev srcPortStuck p = none →
    runningPerm s.dev = none → s.dev.flt.waiting = [] → (fltChanOf s.dev srcPortStuck p).grace = none →
    (policyEntry s.dev srcPortStuck).ladder.testBit 1 = true →
    Gives (.portTransientFault p 5) s fun e => (portOf e p).st = .retired ∧ (portOf e p).fltPerm = true ∧ (portOf e p).fltCause = 5 ∧
      (13, p) ∈ e.gen.heldInReset ∧ (fltChanOf e srcPortStuck p).perm = true) ∧
  (∀ s p c t d, indIdle s.dev → p < s.dev.ports.length → p < 6 → (portOf s.dev p).st = .retry →
    s.dev.flt.chans.find? (fun c => c.code / 256 == 13 && c.chan == p && c.backoff) = some c → c.retryTs.head? = some t →
    At s (t.toNat + min (2 ^ (c.retryTs.length - 1)) 1024 * ms) d → calm d = true →
    Gives (.portRetryBackoffEnd p) s fun e => (portOf e p).st = .training ∧ (portOf e p).queues = List.replicate 8 [] ∧
      (portOf e p).launchQ = [] ∧ (fltChanOf e c.code p).backoff = false ∧ (fltChanOf e c.code p).retryEnd = some d.t ∧
      (∀ q, q ≠ p → portOf e q = portOf s.dev q) ∧ e.gen = s.dev.gen) ∧
  (∀ s p, calm s.dev = true → s.dev.flt.chans = [] → Gives (.portRetryBackoffEnd p) s (Same · s.dev))

/-- R273, R275, R283, R285, R289, R357: a port that is not UP takes no frame; a good frame reaches the ring of its class, or an engine, or is counted as filtered; a bad FCS is counted; FEC codewords are counted; PAUSE holds the port until its time is over; a PRP entry is forgotten after FORGET. -/
def Obligations.Reception : Prop :=
  (∀ s p f, calm s.dev = true → (portOf s.dev p).st ≠ .up → Gives (.frameReceived p f) s (Same · s.dev)) ∧
  (∀ s p f, calm s.dev = true → p < 6 → inService s.dev = true → (portOf s.dev p).st = .up → rxErrors s.dev p f = 1 →
    ringLink s.dev p (if f.bytes.length < 18 then 0 else classOf s.dev p f.bytes) = none →
    Gives (.frameReceived p f) s fun e =>
      rgf e (cntKey p cntRxFcs) 31 0 = min (2 ^ 32 - 1) (rgf s.dev (cntKey p cntRxFcs) 31 0 + 1) ∧
      rgb e (macWin p + 8) 19 = true ∧
      (∀ k, k ≠ cntKey p cntRxFcs → k ≠ macWin p + 8 → rg e k = rg (fecCount s.dev p f) k) ∧
      Same { e with regs := [] } { s.dev with regs := [] }) ∧
  (∀ s p f, calm s.dev = true → p < 6 → inService s.dev = true → (portOf s.dev p).st = .up →
    Gives (.frameReceived p f) s fun e =>
      rgf e (cntKey p cntFecCorr) 31 0 = (if fecOn s.dev p then min (2 ^ 32 - 1) (rgf s.dev (cntKey p cntFecCorr) 31 0 + f.fecCorr)
        else rgf s.dev (cntKey p cntFecCorr) 31 0) ∧
      rgf e (cntKey p cntFecUncorr) 31 0 = (if fecOn s.dev p then min (2 ^ 32 - 1) (rgf s.dev (cntKey p cntFecUncorr) 31 0 + f.fecUncorr)
        else rgf s.dev (cntKey p cntFecUncorr) 31 0)) ∧
  (∀ s p f, calm s.dev = true → p < 6 → inService s.dev = true → (portOf s.dev p).st = .up → rxErrors s.dev p f = 0 →
    etherType f.bytes ≠ 0x8808 → f.bytes.length > 64 → isMulticast f.bytes = false → f.bytes.take 6 ≠ macAddr s.dev p →
    rgb s.dev (macReg p 0x20) 8 = false →
    Gives (.frameReceived p f) s fun e =>
      rgf e (cntKey p cntRxGood) 31 0 = min (2 ^ 32 - 1) (rgf s.dev (cntKey p cntRxGood) 31 0 + 1) ∧
      rgf e (cntKey p cntRxFiltered) 31 0 = min (2 ^ 32 - 1) (rgf s.dev (cntKey p cntRxFiltered) 31 0 + 1) ∧
      (∀ k, k ≠ cntKey p cntRxGood → k ≠ cntKey p cntRxFiltered → rg e k = rg (fecCount s.dev p f) k) ∧
      Same { e with regs := [] } { s.dev with regs := [] }) ∧
  (∀ s p f b q tq x rest, calm s.dev = true → p < 6 → inService s.dev = true → (portOf s.dev p).st = .up → rxErrors s.dev p f = 0 →
    b = f.bytes.take (f.bytes.length - 4) → etherType b ≠ 0x8808 → etherType b ≠ 0x8809 → b.take 6 = macAddr s.dev p →
    isMulticast b = false → prpPartner s.dev p = none → crierTakes s.dev p b = false → tollgateTakes s.dev p b = false →
    ringLink s.dev p (classOf s.dev p b) = some (q, tq) → rxEn s.dev q = true → (rxRing s.dev q).stop = false →
    q < s.dev.qmg.rxq.length → p < s.dev.qmg.portHeld.length → cellsOf b.length ≤ freeCells s.dev →
    s.dev.qmg.portHeld.getD p 0 + cellsOf b.length ≤ rgf s.dev (QMG_PBUF + 4 * p) 15 0 →
    (rxRing s.dev q).posted = x :: rest → b.length ≤ x.bufLen / 64 * 64 →
    Gives (.frameReceived p f) s fun e => (rxRing e q).posted = rest ∧
      (rxRing e q).filled.map (fun y => (y.data, y.addr, y.cells, y.port)) =
        (rxRing s.dev q).filled.map (fun y => (y.data, y.addr, y.cells, y.port)) ++
          [(b, x.addr, cellsOf b.length, some (p, classOf s.dev p b))] ∧
      (∀ r, r ≠ q → rxRing e r = rxRing s.dev r) ∧ e.qmg.held = s.dev.qmg.held + cellsOf b.length ∧
      e.qmg.portHeld.getD p 0 = s.dev.qmg.portHeld.getD p 0 + cellsOf b.length ∧
      rgf e (cntKey p cntRxGood) 31 0 = min (2 ^ 32 - 1) (rgf s.dev (cntKey p cntRxGood) 31 0 + 1) ∧
      (∀ k, k ≠ cntKey p cntRxGood → rg e k = rg (fecCount s.dev p f) k)) ∧
  (∀ s p f b, calm s.dev = true → p < 6 → inService s.dev = true → (portOf s.dev p).st = .up → rxErrors s.dev p f = 0 →
    b = f.bytes.take (f.bytes.length - 4) → etherType b ≠ 0x8808 → isMulticast b = true ∨ b.take 6 = macAddr s.dev p →
    prpPartner s.dev p = none → crierTakes s.dev p b = true ∨ tollgateTakes s.dev p b = true →
    Gives (.frameReceived p f) s fun e =>
      e.taken.map (fun x => (x.ptp, x.port, x.bytes, x.stamp, x.t)) = s.dev.taken.map (fun x => (x.ptp, x.port, x.bytes, x.stamp, x.t)) ++
        [(crierTakes s.dev p b, p, b, rxStamp s.dev p f.sub, s.dev.t)] ∧
      rgf e (cntKey p cntRxGood) 31 0 = min (2 ^ 32 - 1) (rgf s.dev (cntKey p cntRxGood) 31 0 + 1) ∧
      e.qmg.rxq = s.dev.qmg.rxq ∧ e.ptp = s.dev.ptp ∧ e.tol = s.dev.tol) ∧
  (∀ s p f n, calm s.dev = true → p < 6 → p < s.dev.ports.length → inService s.dev = true → (portOf s.dev p).st = .up →
    rxErrors s.dev p f = 0 → f.bytes.length > 64 → etherType (f.bytes.take (f.bytes.length - 4)) = 0x8808 →
    frameTci (f.bytes.take (f.bytes.length - 4)) = none → rgb s.dev (macReg p 0x30) 4 = true → fcMode s.dev p = 1 →
    beAt f.bytes 14 2 = 1 → beAt f.bytes 16 2 = n →
    Gives (.frameReceived p f) s fun e => (portOf e p).pauseEnd = afterNs s.dev (quantaNs s.dev p n) ∧
      rgf e (cntKey p cntRxPause) 31 0 = min (2 ^ 32 - 1) (rgf s.dev (cntKey p cntRxPause) 31 0 + 1) ∧ e.qmg.rxq = s.dev.qmg.rxq) ∧
  (∀ s p t d, indIdle s.dev → (portOf s.dev p).pauseEnd = some t → At s t.toNat d → calm d = true →
    Gives (.pauseTimerExpiry p none) s (Same · (updPort d p (fun x => { x with pauseEnd := none })))) ∧
  (∀ s p i t d, indIdle s.dev → (portOf s.dev p).pfcEnd.getD i none = some t → At s t.toNat d → calm d = true →
    Gives (.pauseTimerExpiry p (some i)) s
      (Same · (updPort d p (fun x => { x with pfcEnd := upd x.pfcEnd i (fun _ => none) })))) ∧
  (∀ s p a q x d, indIdle s.dev → (portOf s.dev (lanA s.dev p)).prp.find? (fun e => e.src == a && e.seq == q) = some x →
    At s (x.t.toNat + rgf s.dev (macReg (lanA s.dev p) 0x6C) 15 0 * ms) d → calm d = true →
    Gives (.prpForget p a q) s
      (Same · (updPort d (lanA d p) (fun x => { x with prp := x.prp.filter (fun e => !(e.src == a && e.seq == q)) }))))

/-- R276 to R281, R285: the highest eligible class sends; launch-time frames queue in order of their instants, start at their own, or are dropped, counted; the gate entry in effect is the one the scale stands in; a commit takes the admin bank or is refused, at once while the port is off, else at a cycle start; flow control sends XOFF, repeats it, and sends XON. -/
def Obligations.TransmissionAndGates : Prop :=
  (∀ s p, p ≤ 5 → (portOf s.dev p).st ≠ .up ∨ portBusy s.dev p = true ∨ pauseHeld s.dev p = true →
    Gives (.transmitOpportunity p) s fun e => (∀ q b, Emit.frame q b ∉ e.out) ∧ e.ptp.slots = s.dev.ptp.slots ∧
      (calm s.dev = true → Same { e with ports := [] } { s.dev with ports := [] })) ∧
  (∀ s p tc f rest, calm s.dev = true → p ≤ 5 → p < s.dev.ports.length → (portOf s.dev p).st = .up → inService s.dev = true →
    portBusy s.dev p = false → pauseHeld s.dev p = false → (portOf s.dev p).fcPend = [] →
    ([7, 6, 5, 4, 3, 2, 1, 0] : List Nat).find? (eligible s.dev p) = some tc → (portOf s.dev p).queues.getD tc [] = f :: rest →
    f.src = .plain → f.insert = none → f.track = none →
    Gives (.transmitOpportunity p) s fun e => Emit.frame p (withFcs f.bytes) ∈ e.out ∧
      (portOf e p).queues = upd (portOf s.dev p).queues tc (fun _ => rest) ∧
      rgf e (cntKey p cntTxGood) 31 0 = min (2 ^ 32 - 1) (rgf s.dev (cntKey p cntTxGood) 31 0 + 1) ∧
      (∀ k, k ≠ cntKey p cntTxGood → rg e k = rg s.dev k) ∧ (∀ q, q ≠ p → portOf e q = portOf s.dev q)) ∧
  (∀ s p f rest, calm s.dev = true → p ≤ 5 → p < s.dev.ports.length → (portOf s.dev p).toLaunch = f :: rest →
    portNow s.dev p ≤ f.launch.getD 0 + 65536 → f.launch.getD 0 ≤ portNow s.dev p + launchHorizon s.dev p * 1000 * 65536 →
    (portOf s.dev p).launchQ.length < 4096 →
    Gives (.launchQueueEntry p) s (Same · (updPort s.dev p (fun x => { x with toLaunch := rest, launchQ := insertLaunch f x.launchQ })))) ∧
  (∀ s p f rest, calm s.dev = true → p ≤ 5 → p < s.dev.ports.length → (portOf s.dev p).toLaunch = f :: rest → f.src = .plain →
    f.launch.getD 0 + 65536 < portNow s.dev p →
    Gives (.launchQueueEntry p) s fun e => (portOf e p).toLaunch = rest ∧ (portOf e p).launchQ = (portOf s.dev p).launchQ ∧
      rgf e (cntKey p cntLMissed) 31 0 = min (2 ^ 32 - 1) (rgf s.dev (cntKey p cntLMissed) 31 0 + 1) ∧
      (∀ q, q ≠ p → portOf e q = portOf s.dev q)) ∧
  (∀ f l, l.Pairwise (fun a b => a.launch.getD 0 ≤ b.launch.getD 0) →
    (insertLaunch f l).Pairwise (fun a b => a.launch.getD 0 ≤ b.launch.getD 0) ∧
      (insertLaunch f l).length = l.length + 1) ∧
  (∀ s p f rest d, indIdle s.dev → p ≤ 5 → p < s.dev.ports.length → (portOf s.dev p).launchQ = f :: rest →
    AtScale s (stampScale s.dev 7 p) ((startOf s.dev p f : Rat) / 65536) d → calm d = true → f.src = .plain →
    f.insert = none → f.track = none → (portOf d p).st = .up → inService d = true → pauseHeld d p = false →
    f.cls ∉ heldClasses d p → gateOk d p f.cls f.bytes.length = true → portBusy d p = false →
    (portNow d p : Int) ≤ startOf d p f + 65536 →
    Gives (.launchStart p) s fun e => Emit.frame p (withFcs f.bytes) ∈ e.out ∧ (portOf e p).launchQ = rest ∧
      rgf e (cntKey p cntTxGood) 31 0 = min (2 ^ 32 - 1) (rgf d (cntKey p cntTxGood) 31 0 + 1) ∧
      (∀ q, q ≠ p → portOf e q = portOf d q)) ∧
  (∀ s p f rest d, indIdle s.dev → p ≤ 5 → p < s.dev.ports.length → (portOf s.dev p).launchQ = f :: rest →
    AtScale s (stampScale s.dev 7 p) ((startOf s.dev p f : Rat) / 65536) d → calm d = true → f.src = .plain →
    (portOf d p).st ≠ .up ∨ portBusy d p = true ∨ f.cls ∈ heldClasses d p →
    Gives (.launchStart p) s fun e => (portOf e p).launchQ = rest ∧ (∀ b, Emit.frame p b ∉ e.out) ∧
      rgf e (cntKey p cntLMissed) 31 0 = min (2 ^ 32 - 1) (rgf d (cntKey p cntLMissed) 31 0 + 1)) ∧
  (∀ s p, calm s.dev = true → (portOf s.dev p).oper.gen = false → Gives (.gateEntryChange p) s (Same · s.dev)) ∧
  (∀ s p d, indIdle s.dev → (portOf s.dev p).oper.gen = true →
    AtScale s (stampScale s.dev 7 p) (scaleNs s.dev (stampScale s.dev 7 p) + (gateNow s.dev p).2.1) d → calm d = true →
    Gives (.gateEntryChange p) s (Same · d)) ∧
  (∀ d p g h m n, (portOf d p).oper.gen = true → (portOf d p).oper.len = 2 → (portOf d p).oper.entries = [(g, m), (h, n)] → 0 < m → 0 < n →
    cycleNs (portOf d p).oper = ((m + n : Nat) : Rat) →
    (cyclePos (portOf d p).oper (portScaleVal d p) < (m : Rat) → (gateNow d p).2.2 = g) ∧
      ((m : Rat) ≤ cyclePos (portOf d p).oper (portScaleVal d p) → (gateNow d p).2.2 = h)) ∧
  (∀ s p, calm s.dev = true → p ≤ 5 → s.dev.staged = [] → efb s.dev (macReg p 0x58) 0 = false → cycleNow s.dev p = true →
    (∀ q ∈ (portOf s.dev p).queues, q = []) →
    Gives (.gclCycleStart p) s (Same · (updPort s.dev p (fun x => { x with cycleT := some s.dev.t })))) ∧
  (∀ s p tc f rest w, calm s.dev = true → p ≤ 5 → p < s.dev.ports.length → s.dev.staged = [] → efb s.dev (macReg p 0x58) 0 = false →
    cycleNow s.dev p = true → tc < 8 → (portOf s.dev p).queues.getD tc [] = f :: rest → f.src = .plain →
    (∀ c, c ≠ tc → (portOf s.dev p).queues.getD c [] = []) → rgb s.dev (macReg p 0x28) 8 = true →
    longestWindow (portOf s.dev p).oper tc = some w → w * 1000 < (wirePs s.dev p f.bytes.length : Rat) →
    Gives (.gclCycleStart p) s fun e => (portOf e p).queues.getD tc [] = rest ∧ (∀ q b, Emit.frame q b ∉ e.out) ∧
      rgf e (cntKey p cntTxDisc) 31 0 = min (2 ^ 32 - 1) (rgf s.dev (cntKey p cntTxDisc) 31 0 + 1) ∧
      (∀ q, q ≠ p → portOf e q = portOf s.dev q)) ∧
  (∀ s p x b, calm s.dev = true → p ≤ 5 → p < s.dev.ports.length → cycleNow s.dev p = true → s.dev.staged = [x] →
    x.boundary = .gclCycle p → x.words = [(macReg p 0x58, 1)] → ripe s.dev x = true → (portOf s.dev p).captured = some b →
    (∀ q ∈ (portOf s.dev p).queues, q = []) →
    Gives (.gclCycleStart p) s fun e => (portOf e p).oper = b ∧ (portOf e p).captured = none ∧ e.staged = [] ∧
      ∀ q, q ≠ p → portOf e q = portOf s.dev q) ∧
  (∀ s r p, calm s.dev = true → p ≤ 5 → p < s.dev.ports.length → Served s.dev r (macReg p 0x58) → enOf s.dev (macWin p) = false →
    (portOf s.dev p).captured = none →
    Gives (.macGclCommitWrite r p 1) s fun e =>
      (bankBad (adminBank s.dev p) = false → (portOf e p).oper = adminBank s.dev p) ∧
      (bankBad (adminBank s.dev p) = true → (portOf e p).oper = (portOf s.dev p).oper ∧ rgb e (macReg p 0x5C) 31 = true) ∧
      (∀ q, q ≠ p → portOf e q = portOf s.dev q)) ∧
  (∀ s p c, calm s.dev = true → p ≤ 5 → p < s.dev.ports.length → c ≤ 7 → fcMode s.dev p = 2 → rgb s.dev (macReg p 0x30) 5 = true →
    (portOf s.dev p).xoff = 0 → c < (portOf s.dev p).fcDue.length →
    rgf s.dev (macReg p 0x34) 15 0 * 1024 < occupancy s.dev p (some c) →
    Gives (.flowControlThreshold p c) s fun e =>
      (portOf e p).fcPend = (portOf s.dev p).fcPend ++ [fcFrame s.dev p c (xquanta s.dev p)] ∧ (portOf e p).xoff = 2 ^ c ∧
      (portOf e p).fcDue.getD c none = some (s.dev.t + BitVec.ofNat 64 (quantaNs s.dev p (xquanta s.dev p) / 2)) ∧
      Same { e with ports := [] } { s.dev with ports := [] }) ∧
  (∀ s p c, calm s.dev = true → p ≤ 5 → p < s.dev.ports.length → c ≤ 7 → fcMode s.dev p = 2 → rgb s.dev (macReg p 0x30) 5 = true →
    (portOf s.dev p).xoff = 2 ^ c → occupancy s.dev p (some c) ≤ rgf s.dev (macReg p 0x34) 15 0 * 1024 →
    occupancy s.dev p (some c) ≤ rgf s.dev (macReg p 0x34) 31 16 * 1024 →
    Gives (.flowControlThreshold p c) s fun e =>
      (portOf e p).fcPend = (portOf s.dev p).fcPend ++ [fcFrame s.dev p c 0] ∧ (portOf e p).xoff = 0 ∧
      (portOf e p).fcDue.getD c none = none) ∧
  (∀ s p c t d, indIdle s.dev → p ≤ 5 → p < s.dev.ports.length → c ≤ 7 → (portOf s.dev p).fcDue.getD c none = some t →
    fcMode s.dev p = 2 → At s t.toNat d → calm d = true → rgb d (macReg p 0x30) 5 = true → (portOf d p).xoff = 2 ^ c →
    rgf d (macReg p 0x34) 31 16 * 1024 < occupancy d p (some c) →
    Gives (.fcRepeatTimer p c) s fun e => (portOf e p).xoff = 2 ^ c ∧
      (portOf e p).fcPend = (portOf d p).fcPend ++ [fcFrame d p c (xquanta d p)] ∧
      (portOf e p).fcDue.getD c none = some (d.t + BitVec.ofNat 64 (quantaNs d p (xquanta d p) / 2)))

end

/-! ### The Crier (chapter 13) -/

section
open Sys2Proof Sys2Proof.Machine

/-- R316, R317: the offset of a Sync is t2 − t1 − c less the path delay and the asymmetry, at once or with its Follow_Up; a delay exchange keeps half the round trip; one whose stamps lie on two sides of a step is discarded and counted; where no message of the slot's master waits, the state stays (the model's choice, log 21). -/
def Obligations.OffsetsAndDelays : Prop :=
  (∀ s m, calm s.dev = true → s.dev.taken = [] → Gives (.syncReceived m) s (Same · s.dev)) ∧
  (∀ s m f x, Heard s.dev (fun y => y.type == 0 && fromMaster s.dev m y) f x → domAuth s.dev (slotEntry s.dev m) = false →
    x.twoStep = false → m < s.dev.ptp.slots.length → arrivalSide s.dev m x = sideOf s.dev m →
    Gives (.syncReceived m) s fun e => (trackSlot e m).syncOk = true ∧ (trackSlot e m).syncT = s.dev.t ∧
      (trackSlot e m).last = some (arrival s.dev m x - x.time - x.corr, sideOf s.dev m) ∧
      (∀ p, pathDelay s.dev m = some p → (trackSlot e m).ofs =
        arrival s.dev m x - x.time - x.corr - p - psTo16 (efS s.dev (slotKey PT_TASYM m))) ∧
      (∀ k, k ≠ m → trackSlot e k = trackSlot s.dev k) ∧ e.taken = s.dev.taken.erase f ∧ e.tsc.o = s.dev.tsc.o) ∧
  (∀ s m f x, Heard s.dev (fun y => y.type == 0 && fromMaster s.dev m y) f x → domAuth s.dev (slotEntry s.dev m) = false →
    x.twoStep = true → m < s.dev.ptp.slots.length →
    Gives (.syncReceived m) s fun e =>
      (trackSlot e m).pend = some (x.seq, arrival s.dev m x, x.corr, arrivalSide s.dev m x, f.inst) ∧
      (trackSlot e m).last = (trackSlot s.dev m).last ∧ (trackSlot e m).ofs = (trackSlot s.dev m).ofs ∧
      e.taken = s.dev.taken.erase f) ∧
  (∀ s m f x, Heard s.dev (fun y => y.type == 0 && fromMaster s.dev m y) f x → domAuth s.dev (slotEntry s.dev m) = false →
    x.twoStep = false → m < s.dev.ptp.slots.length → arrivalSide s.dev m x ≠ sideOf s.dev m →
    Gives (.syncReceived m) s fun e => (trackSlot e m).last = (trackSlot s.dev m).last ∧ (trackSlot e m).ofs = (trackSlot s.dev m).ofs ∧
      rgf e (slotKey PT_TEVT m) 31 16 = min 65535 (rgf s.dev (slotKey PT_TEVT m) 31 16 + 1)) ∧
  (∀ s m, calm s.dev = true → s.dev.taken = [] → Gives (.followUpReceived m) s (Same · s.dev)) ∧
  (∀ s m f x t2 c i, Heard s.dev (fun y => y.type == 8 && fromMaster s.dev m y) f x → domAuth s.dev (slotEntry s.dev m) = false →
    m < s.dev.ptp.slots.length → (trackSlot s.dev m).pend = some (x.seq, t2, c, sideOf s.dev m, i) →
    Gives (.followUpReceived m) s fun e => (trackSlot e m).pend = none ∧ (trackSlot e m).syncOk = true ∧
      (trackSlot e m).last = some (t2 - x.time - (c + x.corr), sideOf s.dev m) ∧
      (∀ p, pathDelay s.dev m = some p → (trackSlot e m).ofs =
        t2 - x.time - (c + x.corr) - p - psTo16 (efS s.dev (slotKey PT_TASYM m))) ∧ e.taken = s.dev.taken.erase f) ∧
  (∀ s m f x t2 c side i, Heard s.dev (fun y => y.type == 8 && fromMaster s.dev m y) f x → domAuth s.dev (slotEntry s.dev m) = false →
    m < s.dev.ptp.slots.length → (trackSlot s.dev m).pend = some (x.seq, t2, c, side, i) → side ≠ sideOf s.dev m →
    Gives (.followUpReceived m) s fun e => (trackSlot e m).pend = none ∧ (trackSlot e m).last = (trackSlot s.dev m).last ∧
      (trackSlot e m).ofs = (trackSlot s.dev m).ofs ∧
      rgf e (slotKey PT_TEVT m) 31 16 = min 65535 (rgf s.dev (slotKey PT_TEVT m) 31 16 + 1)) ∧
  (∀ s m f x t3 v side (di : Int), Heard s.dev (fun y => y.type == 9 && fromMaster s.dev m y && (!domP2p s.dev (slotEntry s.dev m) && forPort s.dev m y)) f x →
    domAuth s.dev (slotEntry s.dev m) = false → m < s.dev.ptp.slots.length →
    (trackSlot s.dev m).req = some (x.seq, t3, side) → (trackSlot s.dev m).last = some (v, side) →
    2 * di = v + (x.time - t3 - x.corr) →
    Gives (.delayRespReceived m) s fun e => (trackSlot e m).req = none ∧
      (trackSlot e m).ds = ((di, decide (di - leastOf di ((trackSlot s.dev m).ds.take (dlyAvg s.dev m)) ≤ dlyTol s.dev m)) ::
          (trackSlot s.dev m).ds).take 256 ∧ e.taken = s.dev.taken.erase f) ∧
  (∀ s m f x t3 v side side', Heard s.dev (fun y => y.type == 9 && fromMaster s.dev m y && (!domP2p s.dev (slotEntry s.dev m) && forPort s.dev m y)) f x →
    domAuth s.dev (slotEntry s.dev m) = false → m < s.dev.ptp.slots.length →
    (trackSlot s.dev m).req = some (x.seq, t3, side) → (trackSlot s.dev m).last = some (v, side') → side' ≠ side →
    Gives (.delayRespReceived m) s fun e => (trackSlot e m).req = none ∧ (trackSlot e m).ds = (trackSlot s.dev m).ds ∧
      rgf e (slotKey PT_TEVT m) 31 16 = min 65535 (rgf s.dev (slotKey PT_TEVT m) 31 16 + 1)) ∧
  (∀ s p m f x q t1 side (di : Int), p ≤ 5 → p2pSlot s.dev p = some m → domAuth s.dev (slotEntry s.dev m) = false → p < s.dev.ptp.pds.length →
    p < s.dev.ptp.pdReq.length → s.dev.ptp.pdReq.getD p none = some (q, t1, side) → s.dev.taken = [f] → f.ptp = true → msgOf f = some x →
    x.type = 3 → x.twoStep = false → ofEntry s.dev (slotEntry s.dev m) x = true → x.seq = q → forPort s.dev m x = true →
    f.sides.getD (portIx s.dev p) 0 = side → 2 * di = (f.stamp : Int) - t1 - x.corr →
    Gives (.pdelayRespReceived p) s fun e => e.ptp.pdReq.getD p none = none ∧ e.taken = [] ∧
      e.ptp.pds.getD p [] = ((di, decide (di - leastOf di ((s.dev.ptp.pds.getD p []).take (dlyAvg s.dev m)) ≤ dlyTol s.dev m)) ::
        s.dev.ptp.pds.getD p []).take 256) ∧
  (∀ s p, calm s.dev = true → s.dev.ptp.pdReq.getD p none = none → Gives (.pdelayRespReceived p) s (Same · s.dev))

/-- R308, R315, R318: what an Announce, a grant and a timeout do to a slot, and the master that a slot with FIXED = 0 takes (log 55); a slot whose condition fails is not valid, and its reference is lost; a request takes the next sequence number; a grant is renewed when half of it has passed. Where the event cannot occur, the state stays (the model's choice, log 21). -/
def Obligations.SlotsFollowTheirMaster : Prop :=
  (∀ s m f x rk st, slotFixed s.dev m = true → Heard s.dev (fun y => y.type == 11 && fromMaster s.dev m y) f x →
    domAuth s.dev (slotEntry s.dev m) = false → m < s.dev.ptp.slots.length →
    Gives (.announceReceived m rk st) s fun e => (trackSlot e m).annOk = true ∧ (trackSlot e m).annT = s.dev.t ∧
      (trackSlot e m).clockClass = beAt x.raw 48 1 ∧ (trackSlot e m).clockAcc = beAt x.raw 49 1 ∧
      (trackSlot e m).steps = min 255 (beAt x.raw 61 2) ∧ (trackSlot e m).gm = slice x.raw 47 14 ∧
      (∀ k, k ≠ m → trackSlot e k = trackSlot s.dev k) ∧ e.taken = s.dev.taken.erase f ∧ e.tsc.o = s.dev.tsc.o) ∧
  (∀ s m f x rk st, slotFixed s.dev m = false → slotRuns s.dev m = true →
    Heard s.dev (fun y => y.type == 11 && (slotRuns s.dev m && ofEntry s.dev (slotEntry s.dev m) y)) f x →
    domAuth s.dev (slotEntry s.dev m) = false → m < s.dev.ptp.slots.length → slotEntry s.dev m < s.dev.ptp.entries.length →
    (domEntry s.dev (slotEntry s.dev m)).role = 3 → st ≤ 9 →
    Gives (.announceReceived m rk st) s fun e => (trackSlot e m).master = x.src ∧ (trackSlot e m).annOk = true ∧
      ((trackSlot s.dev m).master ≠ x.src → (trackSlot e m).syncOk = false ∧ (trackSlot e m).ds = [] ∧ (trackSlot e m).last = none) ∧
      (domEntry e (slotEntry s.dev m)).portState = st ∧ e.taken = s.dev.taken.erase f) ∧
  (∀ s m rk st, calm s.dev = true → s.dev.taken = [] → Gives (.announceReceived m rk st) s (Same · s.dev)) ∧
  (∀ s m d, indIdle s.dev → m < s.dev.ptp.slots.length → 16 + m < s.dev.refs.length → (trackSlot s.dev m).annOk = true →
    At s ((trackSlot s.dev m).annT.toNat + eff s.dev (domKey PT_DPRI (slotEntry s.dev m)) 31 24 * logTicks (trackSlot s.dev m).annLog) d →
    slotRuns d m = true →
    Gives (.trackingTimeout m 1) s fun e => (trackSlot e m).valid = false ∧ (trackSlot e m).annOk = false ∧
      ((trackSlot d m).valid = true → (refOf e (16 + m)).present = false ∧ (trackSlot e m).invCause = 1)) ∧
  (∀ s m d, indIdle s.dev → m < s.dev.ptp.slots.length → 16 + m < s.dev.refs.length → (trackSlot s.dev m).syncOk = true →
    At s ((trackSlot s.dev m).syncT.toNat + 3 * logTicks (trackSlot s.dev m).syncLog) d → slotRuns d m = true →
    Gives (.trackingTimeout m 2) s fun e => (trackSlot e m).valid = false ∧ (trackSlot e m).syncOk = false ∧ (trackSlot e m).pend = none ∧
      ((trackSlot d m).valid = true → (refOf e (16 + m)).present = false)) ∧
  (∀ s m f x tlv, Signalled s.dev (fun y => slotUni s.dev m && fromMaster s.dev m y) 5 f x [tlv] →
    domAuth s.dev (slotEntry s.dev m) = false → m < s.dev.ptp.slots.length → beAt tlv 2 4 ≠ 0 →
    Gives (.unicastGrantReceived m) s fun e =>
      slotGrant e m (beAt tlv 0 1 / 16) = some ⟨beAt tlv 0 1 / 16, sext 8 (beAt tlv 1 1), beAt tlv 2 4, s.dev.t, false⟩ ∧
      (∀ t, t ≠ beAt tlv 0 1 / 16 → slotGrant e m t = slotGrant s.dev m t) ∧ ∀ k, k ≠ m → trackSlot e k = trackSlot s.dev k) ∧
  (∀ s m f x tlv, Signalled s.dev (fun y => slotUni s.dev m && fromMaster s.dev m y) 5 f x [tlv] →
    domAuth s.dev (slotEntry s.dev m) = false → m < s.dev.ptp.slots.length → beAt tlv 2 4 = 0 →
    Gives (.unicastGrantReceived m) s fun e => slotGrant e m (beAt tlv 0 1 / 16) = none ∧
      (∀ t, t ≠ beAt tlv 0 1 / 16 → slotGrant e m t = slotGrant s.dev m t)) ∧
  (∀ s m d, indIdle s.dev → slotRuns s.dev m = true → m < s.dev.ptp.slots.length → domP2p s.dev (slotEntry s.dev m) = false →
    domAuth s.dev (slotEntry s.dev m) = false → At s (match (trackSlot s.dev m).reqT with
      | some t => t.toNat + logTicks (trackSlot s.dev m).reqLog
      | none => s.dev.t.toNat) d → slotRuns d m = true →
    Gives (.trackingDelayReq m) s fun e => (trackSlot e m).reqSeq = ((trackSlot d m).reqSeq + 1) % 65536 ∧
      (trackSlot e m).reqT = some d.t ∧ (trackSlot e m).req = (trackSlot d m).req ∧ e.tsc = d.tsc) ∧
  (∀ s m, calm s.dev = true → slotRuns s.dev m = false → Gives (.trackingDelayReq m) s (Same · s.dev)) ∧
  (∀ s m t, calm s.dev = true → slotGrant s.dev m t = none → Gives (.grantRenewalTimer m t) s (Same · s.dev)) ∧
  (∀ s m t g d, indIdle s.dev → m < s.dev.ptp.slots.length → slotGrant s.dev m t = some g → g.asked = false →
    At s (g.t.toNat + g.dur * 500000000) d →
    Gives (.grantRenewalTimer m t) s fun e => slotGrant e m t = some { g with asked := true } ∧
      (∀ u, u ≠ t → slotGrant e m u = slotGrant s.dev m u) ∧ ∀ k, k ≠ m → trackSlot e k = trackSlot d k)

/-- R298, R304, R308 to R311: requests that find no master, or the standby, are refused; a Delay_Req of a master is answered, queued at its port; a grant is made, renewed in place with its index and count, cancelled and acknowledged; a stream's instant is taken once; the calibration record is stored. Where no message waits, the state stays (the model's choice, log 21). -/
def Obligations.ServingAndGrants : Prop :=
  (∀ s p f x e, calm s.dev = true → ptpRuns s.dev = true → s.dev.taken = [f] → f.ptp = true → msgOf f = some x → x.port = p → x.type = 1 →
    Machine.entryOf s.dev x = some e → domAuth s.dev e = false → (domEntry s.dev e).portState ≠ 6 →
    Gives (.delayReqReceived p) s fun t => t.taken = [] ∧
      t.ptp.outc.getD (b2n (domUni s.dev e)) [] = unbump (bump (bump (bump (s.dev.ptp.outc.getD (b2n (domUni s.dev e)) []) 0) 4) 2) 4 ∧
      t.ptp.slots = s.dev.ptp.slots ∧ t.ports = s.dev.ports ∧ t.regs = s.dev.regs) ∧
  (∀ s p f x e, calm s.dev = true → ptpRuns s.dev = true → s.dev.taken = [f] → f.ptp = true → msgOf f = some x → x.port = p → x.type = 1 →
    Machine.entryOf s.dev x = some e → domAuth s.dev e = false →
    (domEntry s.dev e).portState = 6 → domUni s.dev e = false → (domEntry s.dev e).port = p → portUp s.dev p = true → muted s.dev = false →
    prpPartner s.dev p = none → p < s.dev.ports.length → rgf s.dev (macReg p 0x28) 2 0 < (portOf s.dev p).queues.length →
    Gives (.delayReqReceived p) s fun t => t.taken = [] ∧ t.ptp.outc = (ptpDue s.dev 0).ptp.outc ∧
      ((portOf t p).queues.getD (rgf s.dev (macReg p 0x28) 2 0) []).length =
        ((portOf s.dev p).queues.getD (rgf s.dev (macReg p 0x28) 2 0) []).length + 1 ∧
      (∀ c, c ≠ rgf s.dev (macReg p 0x28) 2 0 → (portOf t p).queues.getD c [] = (portOf s.dev p).queues.getD c []) ∧
      (((portOf t p).queues.getD (rgf s.dev (macReg p 0x28) 2 0) []).getLast?.map (·.src)) = some (.crier 0)) ∧
  (∀ s p, calm s.dev = true → s.dev.taken = [] → Gives (.delayReqReceived p) s (Same · s.dev)) ∧
  (∀ s p f x e, calm s.dev = true → ptpRuns s.dev = true → s.dev.taken = [f] → f.ptp = true → msgOf f = some x → x.port = p → x.type = 2 →
    Machine.entryOf s.dev x = some e → domAuth s.dev e = false → domP2p s.dev e = false →
    Gives (.pdelayReqReceived p) s fun t => t.taken = [] ∧
      t.ptp.outc.getD 2 [] = unbump (bump (bump (bump (s.dev.ptp.outc.getD 2 []) 0) 4) 2) 4 ∧ t.ports = s.dev.ports) ∧
  (∀ s p f x e, calm s.dev = true → ptpRuns s.dev = true → s.dev.taken = [f] → f.ptp = true → msgOf f = some x → x.port = p → x.type = 2 →
    Machine.entryOf s.dev x = some e → domAuth s.dev e = false → domP2p s.dev e = true → (domEntry s.dev e).port = p →
    portUp s.dev p = true → muted s.dev = false → prpPartner s.dev p = none → p < s.dev.ports.length →
    rgf s.dev (macReg p 0x28) 2 0 < (portOf s.dev p).queues.length →
    Gives (.pdelayReqReceived p) s fun t => t.taken = [] ∧ t.ptp.outc = (ptpDue s.dev 2).ptp.outc ∧
      (((portOf t p).queues.getD (rgf s.dev (macReg p 0x28) 2 0) []).getLast?.map (·.src)) = some (.crier 2) ∧
      t.ptp.slots = s.dev.ptp.slots) ∧
  (∀ s p f x e tlv, calm s.dev = true → ptpRuns s.dev = true →
    Signalled s.dev (fun y => y.port == p && (Machine.entryOf s.dev y).isSome) 4 f x [tlv] →
    Machine.entryOf s.dev x = some e → domAuth s.dev e = false → holdsFloor s.dev = false →
    Gives (.unicastRequestReceived p) s fun t =>
      t.ptp.outc.getD 3 [] = unbump (bump (bump (bump (s.dev.ptp.outc.getD 3 []) 0) 4) 2) 4 ∧ t.ptp.grants = s.dev.ptp.grants ∧
      t.ports = s.dev.ports) ∧
  (∀ s p f x e tlv g, ptpRuns s.dev = true →
    Signalled s.dev (fun y => y.port == p && (Machine.entryOf s.dev y).isSome) 4 f x [tlv] →
    Machine.entryOf s.dev x = some e → domAuth s.dev e = false → holdsFloor s.dev = true →
    grantOf s.dev e (beAt tlv 0 1 / 16) x.src = some g →
    grantBar s.dev e (beAt tlv 0 1 / 16) (grantLog (domEntry s.dev e).profile (beAt tlv 0 1 / 16) (sext 8 (beAt tlv 1 1))) (some g) = none →
    Gives (.unicastRequestReceived p) s fun t =>
      t.ptp.grants.map (fun h => (h.index, h.sent, h.entry, h.mtype, h.pid, h.logint, h.endBell)) =
        (s.dev.ptp.grants.filter (·.index != g.index)).map (fun h => (h.index, h.sent, h.entry, h.mtype, h.pid, h.logint, h.endBell)) ++
        [(g.index, g.sent, e, beAt tlv 0 1 / 16, x.src,
          grantLog (domEntry s.dev e).profile (beAt tlv 0 1 / 16) (sext 8 (beAt tlv 1 1)),
          endBell s.dev (max 10 (min (beAt tlv 2 4) (max 10 (min 1000 (rgf s.dev PT_GMAXDUR 9 0))))))]) ∧
  (∀ s p f x e tlv, ptpRuns s.dev = true →
    Signalled s.dev (fun y => y.port == p && (Machine.entryOf s.dev y).isSome) 4 f x [tlv] →
    Machine.entryOf s.dev x = some e → domAuth s.dev e = false → holdsFloor s.dev = true →
    grantOf s.dev e (beAt tlv 0 1 / 16) x.src = none → s.dev.ptp.grants.length < 65536 →
    grantBar s.dev e (beAt tlv 0 1 / 16) (grantLog (domEntry s.dev e).profile (beAt tlv 0 1 / 16) (sext 8 (beAt tlv 1 1))) none = none →
    Gives (.unicastRequestReceived p) s fun t => t.ptp.grants.dropLast = s.dev.ptp.grants ∧
      (t.ptp.grants.getLast?.map (fun h => (h.sent, h.entry, h.mtype, h.pid, h.endBell))) =
        some (0, e, beAt tlv 0 1 / 16, x.src, endBell s.dev (max 10 (min (beAt tlv 2 4) (max 10 (min 1000 (rgf s.dev PT_GMAXDUR 9 0)))))) ∧
      (∀ g ∈ s.dev.ptp.grants, some g.index ≠ t.ptp.grants.getLast?.map (·.index))) ∧
  (∀ s p f x e tlv g, ptpRuns s.dev = true →
    Signalled s.dev (fun y => y.port == p && (Machine.entryOf s.dev y).isSome) 6 f x [tlv] →
    Machine.entryOf s.dev x = some e → domAuth s.dev e = false → holdsFloor s.dev = true →
    grantOf s.dev e (beAt tlv 0 1 / 16) x.src = some g →
    Gives (.unicastCancelReceived p) s fun t => t.ptp.grants = s.dev.ptp.grants.filter (·.index != g.index) ∧ t.tsc = s.dev.tsc) ∧
  (∀ s p f x, calm s.dev = true → ptpRuns s.dev = true → s.dev.taken = [f] → f.ptp = true → msgOf f = some x → x.port = p → x.type = 13 →
    rgb s.dev PT_EVRING 31 = true → rxEn s.dev (rgf s.dev PT_EVRING 5 0) = false →
    Gives (.managementMessageReceived p) s fun e => rgf e PT_EVDROP 31 0 = min (2 ^ 32 - 1) (rgf s.dev PT_EVDROP 31 0 + 1) ∧
      (∀ k, k ≠ PT_EVDROP → rg e k = rg s.dev k) ∧ e.taken = [] ∧
      Same { e with regs := [], taken := [] } { s.dev with regs := [], taken := [] }) ∧
  (∀ s e t, calm s.dev = true → streamOf s.dev e none t = none → Gives (.scheduledMessageInstant e none t) s (Same · s.dev)) ∧
  (∀ s e x d, indIdle s.dev → streamOf s.dev e none 0 = some x → e < s.dev.ptp.entries.length →
    AtScale s (stampScale s.dev 7 x.port) ((instantAt x (nextK s.dev x) : Rat) / 65536) d → streamOf d e none 0 = some x →
    Gives (.scheduledMessageInstant e none 0) s fun t => (domEntry t e).lastSync = instantAt x (nextK d x) ∧
      (domEntry t e).lastAnn = (domEntry d e).lastAnn ∧ (∀ k, k ≠ e → domEntry t k = domEntry d k) ∧ t.ptp.grants = d.ptp.grants) ∧
  (∀ x k, instantAt x (k + 1) = instantAt x k + (periodOf x.log : Int)) ∧
  (∀ d x, 0 < periodOf x.log → x.last < instantAt x (nextK d x)) ∧
  (∀ s r v, calm s.dev = true → Served s.dev r PT_GRD_SEL →
    Gives (.ptGrdSelWrite r v) s fun e => (∀ j, j < 16 → heldWord (reqOf e r) (PT_GRD_DATA + 4 * j) =
        (leWords (match grantAt s.dev (bits v 15 0) with
          | some g => grantBytes s.dev g
          | none => zeros 64)).getD j 0) ∧
      e.ptp = s.dev.ptp ∧ e.regs = s.dev.regs) ∧
  (∀ s r v, calm s.dev = true → Served s.dev r PT_CALCMD → bit v 8 = true → bits v 2 0 ≤ 5 → s.dev.ptp.storing = none →
    energyFor s.dev calNeed = true →
    Gives (.ptCalcmdStore r v) s fun e => e.ptp = { s.dev.ptp with storing := some (bits v 2 0, calRecord s.dev (bits v 2 0)) } ∧
      e.nv = s.dev.nv) ∧
  (∀ s p b, calm s.dev = true → s.dev.ptp.storing = some (p, b) → p < s.dev.ptp.cals.length →
    Gives (.calibrationStoreComplete true) s fun e => e.ptp.storing = none ∧
      (e.ptp.cals.getD p {}).next = calOf b ∧ (∀ i, i < b.length → nvGet e (0xC000 + 16 * p + i) = b.getD i 0) ∧
      (∀ a, a < 0xC000 + 16 * p ∨ 0xC000 + 16 * p + b.length ≤ a → nvGet e a = nvGet s.dev a)) ∧
  (∀ s p b, calm s.dev = true → s.dev.ptp.storing = some (p, b) →
    Gives (.calibrationStoreComplete false) s fun e => e.ptp = { s.dev.ptp with storing := none } ∧ rgb e PT_CALCMD 17 = true)

end

/-! ### The Tollgate (chapter 14) -/

section
open Sys2Proof Sys2Proof.Machine

/-- R322, R332, R339, R340: a request taken is queued with its stamp, or dropped for overload when 16,384 wait; one that has waited too long, or whose port is down, gets no answer; an answer leaves the queue for its port, a NAK with its cause counted. Where no such request waits, the state stays (the model's choice, log 21). -/
def Obligations.TollgateRequests : Prop :=
  (∀ s p, calm s.dev = true → s.dev.taken = [] → Gives (.ntpRequestTaken p) s (Same · s.dev)) ∧
  (∀ s p f, calm s.dev = true → s.dev.taken = [f] → f.ptp = false → f.port = p → (udpOf f.bytes).isSome = true →
    s.dev.tol.queue.length < 16384 →
    Gives (.ntpRequestTaken p) s fun e => e.taken = [] ∧
      e.tol.queue.map (fun q => (q.port, q.rxStamp, q.rxT, q.payload)) =
        s.dev.tol.queue.map (fun q => (q.port, q.rxStamp, q.rxT, q.payload)) ++
          [(p, f.stamp, f.t, ((udpOf f.bytes).map (udpPayload f.bytes)).getD [])] ∧
      Same { e with tol := s.dev.tol, taken := [] } { s.dev with taken := [] }) ∧
  (∀ s p f, calm s.dev = true → s.dev.taken = [f] → f.ptp = false → f.port = p → (udpOf f.bytes).isSome = true →
    16384 ≤ s.dev.tol.queue.length →
    Gives (.ntpRequestTaken p) s fun e => e.tol.queue = s.dev.tol.queue ∧ e.taken = [] ∧ rgb e (baseTol + 8) 17 = true) ∧
  (∀ s r rest, calm s.dev = true → s.dev.tol.queue = r :: rest → r.nts = false → tolRuns s.dev = true →
    max 1 (rgf s.dev TOL_QMAX 9 0) * us < s.dev.t.toNat - r.rxT.toNat →
    Gives .ntpv4Answer s fun e => e.tol.queue = rest ∧ rgb e (baseTol + 8) 17 = true ∧ e.ports = s.dev.ports ∧
      e.tol.outc.getD 0 [] = unbump (bump (s.dev.tol.outc.getD 0 []) 4) 5) ∧
  (∀ s r rest, calm s.dev = true → s.dev.tol.queue = r :: rest → r.nts = false → tolRuns s.dev = true →
    s.dev.t.toNat - r.rxT.toNat ≤ max 1 (rgf s.dev TOL_QMAX 9 0) * us → portUp s.dev r.port = false →
    Gives .ntpv4Answer s fun e => e.tol.queue = rest ∧ e.ports = s.dev.ports ∧
      rgf e (TOL_REF + 24) 31 0 = min (2 ^ 32 - 1) (rgf s.dev (TOL_REF + 24) 31 0 + 1) ∧
      e.tol.outc.getD 0 [] = unbump (bump (s.dev.tol.outc.getD 0 []) 2) 5) ∧
  (∀ s r rest, calm s.dev = true → s.dev.tol.queue = r :: rest → r.nts = false → r.rstr = false → tolRuns s.dev = true →
    s.dev.t.toNat - r.rxT.toNat ≤ max 1 (rgf s.dev TOL_QMAX 9 0) * us → portUp s.dev r.port = true → muted s.dev = false →
    prpPartner s.dev r.port = none → r.port < s.dev.ports.length →
    rgf s.dev (macReg r.port 0x28) 2 0 < (portOf s.dev r.port).queues.length →
    Gives .ntpv4Answer s fun e => e.tol.queue = rest ∧ e.tol.e = s.dev.tol.e ∧ e.tsc = s.dev.tsc ∧ e.gen = s.dev.gen ∧
      (((portOf e r.port).queues.getD (rgf s.dev (macReg r.port 0x28) 2 0) []).getLast?.map (fun f => (f.src, f.insert.isSome))) =
        some (.tollgate 0, true) ∧
      ((portOf e r.port).queues.getD (rgf s.dev (macReg r.port 0x28) 2 0) []).length =
        ((portOf s.dev r.port).queues.getD (rgf s.dev (macReg r.port 0x28) 2 0) []).length + 1) ∧
  (∀ s r rest c, calm s.dev = true → s.dev.tol.queue = r :: rest → r.nts = true → tolRuns s.dev = true →
    s.dev.t.toNat - r.rxT.toNat ≤ max 1 (rgf s.dev TOL_QMAX 9 0) * us → portUp s.dev r.port = true → muted s.dev = false →
    prpPartner s.dev r.port = none → r.port < s.dev.ports.length →
    rgf s.dev (macReg r.port 0x28) 2 0 < (portOf s.dev r.port).queues.length → (ntsCheck s.dev r.payload).getLeft? = some c →
    Gives .ntsExchangeBegin s fun e => e.tol.queue = rest ∧ e.tol.e = s.dev.tol.e ∧ e.tol.cache = s.dev.tol.cache ∧
      e.tsc = s.dev.tsc ∧ e.gen = s.dev.gen ∧
      rgf e (TOL_REF + 4 * c) 31 0 = min (2 ^ 32 - 1) (rgf s.dev (TOL_REF + 4 * c) 31 0 + 1) ∧
      (((portOf e r.port).queues.getD (rgf s.dev (macReg r.port 0x28) 2 0) []).getLast?.map (·.src)) = some .plain) ∧
  (∀ s r rest, calm s.dev = true → s.dev.tol.queue = r :: rest → r.nts = true → Gives .ntpv4Answer s (Same · s.dev)) ∧
  (∀ s r rest, calm s.dev = true → s.dev.tol.queue = r :: rest → r.nts = false → Gives .ntsExchangeBegin s (Same · s.dev))

/-- R327 to R331, R336 to R338: epochs, their keys, the working key's change and the mint service. -/
def Obligations.EpochsAndMint : Prop :=
  (∀ s r, calm s.dev = true → Served s.dev r TOL_CMD → s.dev.gen.mode ≠ .standby → lateForBell s.dev = false →
    Gives (.tolCmdAdvance r 1) s (Same · { answered s [] with tol := { s.dev.tol with advance := true } })) ∧
  (∀ s r v, calm s.dev = true → Served s.dev r TOL_CMD → s.dev.gen.mode = .standby →
    Gives (.tolCmdAdvance r v) s (Same · (answered s []))) ∧
  (∀ s k, calm s.dev = true → tolRuns s.dev = true → tolRoot s.dev = some k → s.dev.tol.ready = true →
    Gives .epochKeyDerived s (Same · { s.dev with tol := { s.dev.tol with nextReady := true } })) ∧
  (∀ s k, calm s.dev = true → inService s.dev = true → enOf s.dev baseTol = true → tolRoot s.dev = some k →
    Gives .cacheFilled s (Same · { s.dev with tol := { s.dev.tol with cache := fillCache k s.dev.tol.e, ready := true } })) ∧
  (∀ s w, calm s.dev = true → s.dev.key.tolNext = some w → w.orph = false →
    Gives .flushEdge s (Same · { s.dev with
      key := { s.dev.key with work := s.dev.key.work.set 0 w, tolNext := none },
      tol := { s.dev.tol with cache := [], ready := false, nextReady := false } })) ∧
  (∀ s q x rest, calm s.dev = true → mintRing s.dev = some q → tolRuns s.dev = true → txEn s.dev q = true →
    (txRing s.dev q).stop = false → q < s.dev.qmg.txq.length → (txRing s.dev q).posted = x :: rest → tolRoot s.dev = none →
    Gives .mintRecord s fun e => (txRing e q).posted = rest ∧
      rgf e TOL_MINTCNT 31 16 = min 65535 (rgf s.dev TOL_MINTCNT 31 16 + 1) ∧
      rgf e TOL_MINTCNT 15 0 = rgf s.dev TOL_MINTCNT 15 0 ∧ e.tol.e = s.dev.tol.e) ∧
  (∀ s q x rest k, calm s.dev = true → mintRing s.dev = some q → tolRuns s.dev = true → txEn s.dev q = true →
    (txRing s.dev q).stop = false → q < s.dev.qmg.txq.length → (txRing s.dev q).posted = x :: rest → tolRoot s.dev = some k →
    s.dev.tol.ready = true → leAt (padTo 96 x.bytes) 9 2 = 15 → 1 ≤ leAt (padTo 96 x.bytes) 8 1 → leAt (padTo 96 x.bytes) 8 1 ≤ 8 →
    Gives .mintRecord s fun e => (txRing e q).posted = rest ∧
      rgf e TOL_MINTCNT 15 0 = min 65535 (rgf s.dev TOL_MINTCNT 15 0 + 1) ∧
      rgf e TOL_MINTCNT 31 16 = rgf s.dev TOL_MINTCNT 31 16 ∧ e.tol.e = s.dev.tol.e ∧
      e.freeIdx = s.dev.freeIdx + leAt (padTo 96 x.bytes) 8 1) ∧
  (∀ d k, tolRoot d = some k → d.tol.ready = true →
    (advanceEpoch d).tol.e = d.tol.e + 1 ∧ (advanceEpoch d).tol.age = 0 ∧ (advanceEpoch d).tol.nextReady = false ∧
      (advanceEpoch d).tol.cache = some (epochKey k (d.tol.e + 1)) :: d.tol.cache.take 3) ∧
  (∀ root e i, i < 4 → (fillCache root e).getD i none = some (epochKey root (e - BitVec.ofNat 32 i)))

end
/-! ### Rings, MSPI and the Hall (chapter 15) -/

section
open Sys2Proof Sys2Proof.Machine

/-- R352, R354, R355, R360, R361: a doorbell posts its descriptors, or is refused as an overrun; a completion moves the head; a pending ring is disarmed; EN set restarts a ring; a failed DMA read stops it. Where the event cannot occur, the state stays (the model's choice, log 21). -/
def Obligations.Rings : Prop :=
  (∀ s q v (posts : List Post), calm s.dev = true → q ≤ 63 → q < s.dev.qmg.rxq.length → pcieServed s.dev = true → ringOn s.dev true q = true →
    bit v 30 = false → (bits v 15 0 + 65536 - (rxRing s.dev q).tail % 65536) % 65536 = posts.length →
    posts.length ≤ ringSize s.dev true q - (rxRing s.dev q).inflight →
    Gives (.doorbellWrite 0 true q v posts) s fun e => (rxRing e q).tail = bits v 15 0 ∧
      (rxRing e q).posted = (rxRing s.dev q).posted ++ posts.map (descOf true) ∧ (rxRing e q).issued = (rxRing s.dev q).issued + posts.length ∧
      (rxRing e q).inflight = (rxRing s.dev q).inflight + posts.length ∧ (rxRing e q).armed = ((rxRing s.dev q).armed || bit v 31) ∧
      (rxRing e q).filled = (rxRing s.dev q).filled ∧ (∀ r, r ≠ q → rxRing e r = rxRing s.dev r) ∧ e.qmg.txq = s.dev.qmg.txq ∧
      e.regs = s.dev.regs) ∧
  (∀ s rx q v posts, calm s.dev = true → q ≤ 63 → pcieServed s.dev = true → ringOn s.dev rx q = true → bit v 30 = false →
    ringSize s.dev rx q - (ringAt s.dev rx q).inflight < (bits v 15 0 + 65536 - (ringAt s.dev rx q).tail % 65536) % 65536 →
    Gives (.doorbellWrite 0 rx q v posts) s fun e => ringAt e rx q = ringAt s.dev rx q ∧ rgb e (ringKey rx q + 0x1C) 2 = true ∧
      raisedBy e srcQmgDoorbell = raisedBy s.dev srcQmgDoorbell + 1) ∧
  (∀ s rx q v posts, calm s.dev = true → q ≤ 63 → pcieServed s.dev = true → ringOn s.dev rx q = false →
    Gives (.doorbellWrite 0 rx q v posts) s (Same · (answered s []))) ∧
  (∀ s q x rest, calm s.dev = true → q ≤ 63 → q < s.dev.qmg.rxq.length → ringOn s.dev true q = true →
    (rxRing s.dev q).filled = x :: rest →
    Gives (.descriptorCompletion true q) s fun e => (rxRing e q).filled = rest ∧
      (rxRing e q).head = ((rxRing s.dev q).head + 1) % 65536 ∧ (rxRing e q).completed = (rxRing s.dev q).completed + 1 ∧
      (rxRing e q).inflight = (rxRing s.dev q).inflight - 1 ∧
      (x.data.isEmpty = false → .hostWrite x.addr x.data ∈ e.out) ∧
      .hostWrite (rgPair s.dev (ringKey true q + 8) / 4096 * 4096 + (rxRing s.dev q).head % ringSize s.dev true q * 32) x.comp ∈ e.out ∧
      (∀ r, r ≠ q → rxRing e r = rxRing s.dev r) ∧ e.regs = s.dev.regs) ∧
  (∀ s rx q, calm s.dev = true → (ringAt s.dev rx q).filled = [] → Gives (.descriptorCompletion rx q) s (Same · s.dev)) ∧
  (∀ s q t d, indIdle s.dev → q ≤ 63 → q < s.dev.qmg.rxq.length → (rxRing s.dev q).armed = true →
    rgf s.dev (ringKey true q + 4) 15 0 ≠ 0 → (rxRing s.dev q).firstT = some t →
    At s (t.toNat + rgf s.dev (ringKey true q + 4) 15 0 * us) d → calm d = true →
    Gives (.interruptTimer true q) s fun e => rxRing e q = { rxRing d q with armed := false, pending := true } ∧
      (∀ r, r ≠ q → rxRing e r = rxRing d r) ∧ e.regs = d.regs) ∧
  (∀ s rx q, calm s.dev = true → (ringAt s.dev rx q).armed = false → Gives (.interruptTimer rx q) s (Same · s.dev)) ∧
  (∀ s r q, calm s.dev = true → q ≤ 63 → q < s.dev.qmg.rxq.length → Served s.dev r (cfgRx q) → ringOn s.dev true q = false →
    Gives (.ringEnable r true q) s fun e => rgb e (cfgRx q) 31 = true ∧ (rxRing e q).tail = 0 ∧ (rxRing e q).head = 0 ∧
      (rxRing e q).issued = 0 ∧ (rxRing e q).completed = 0 ∧ (rxRing e q).inflight = 0 ∧ (rxRing e q).posted = [] ∧
      (rxRing e q).filled = [] ∧ (rxRing e q).stop = false ∧ (∀ k, k ≠ q → rxRing e k = rxRing s.dev k) ∧
      (∀ k, k ≠ cfgRx q → rg e k = rg s.dev k)) ∧
  (∀ s rx q a x rest, calm s.dev = true → q ≤ 63 → q < s.dev.qmg.rxq.length → q < s.dev.qmg.txq.length →
    ringOn s.dev rx q = true → (ringAt s.dev rx q).stop = false → (ringAt s.dev rx q).posted = x :: rest →
    Gives (.dmaError rx q a) s fun e => (ringAt e rx q).stop = true ∧ (ringAt e rx q).posted = rest ∧
      raisedBy e srcQmgDma = raisedBy s.dev srcQmgDma + 1 ∧ rgb e (baseQmg + 8) 17 = true)

/-- R348, R349, R363 to R365: STATUS answers the first error and the mode and clears it; MSPI carries words to registers; a request at the Hall gets a tag and its grant, or waits; a completion returns the tag. Where the event cannot occur, the state stays (the model's choice, log 21). -/
def Obligations.MspiAndHall : Prop :=
  (∀ s, calm s.dev = true → mspiAlive s.dev = true →
    Gives (.mspiStatus 5) s fun e => e.mspiErr = none ∧
      .mspi [BitVec.ofNat 8 (s.dev.mspiErr.getD 0x5A), BitVec.ofNat 8 (modeCode s.dev.gen.mode)] ∈ e.out ∧
      Same e { s.dev with mspiErr := none }) ∧
  (∀ s a n early, calm s.dev = true → mspiAlive s.dev = false → Gives (.mspiRead a n early) s (Same · s.dev)) ∧
  (∀ s a, mspiAlive s.dev = true → s.dev.gen.mode = .bringup →
    Gives (.mspiRead a 1 false) s fun e => .mspi [0xB5, 0, 0, 0, 0] ∈ e.out ∧ e.gen = s.dev.gen ∧
      e.tsc = s.dev.tsc ∧ ∀ k, quietKey k → rg e k = rg s.dev k) ∧
  (∀ s a l, s.dev.gen.mode = .bringup → mspiAlive s.dev = true → s.dev.mspiErr = none → l ≠ [] →
    Gives (.mspiWrite a l false) s fun e => e.mspiErr = some 0xB5 ∧ ∀ k, quietKey k → rg e k = rg s.dev k) ∧
  (∀ s a w m, calm s.dev = true → Served s.dev .mspi a → mspiAlive s.dev = true →
    (a, m) ∈ [(GEN_BELL_CTRL, 0xFF03#32), (RST_QTIMEOUT, 0x1FFFF#32), (FLT_INJ_DETAIL, 0xFFFFFFFF#32)] →
    Gives (.mspiWrite a [w] false) s fun e => e.mspiErr = s.dev.mspiErr ∧ rg e a = ((rg s.dev a &&& ~~~ m) ||| (w &&& m)) ∧
      (∀ k, k ≠ a → rg e k = rg s.dev k) ∧ Same { e with regs := [] } { answered s [] with regs := [] }) ∧
  (∀ s a, calm s.dev = true → Served s.dev .mspi a → mspiAlive s.dev = true → a ∈ [GEN_BELL_CTRL, RST_QTIMEOUT, FLT_INJ_DETAIL] →
    Gives (.mspiRead a 1 false) s fun e => Emit.mspi (0x5A :: beBytes 4 (rg s.dev a).toNat) ∈ e.out ∧
      Same e (answered s [rg s.dev a])) ∧
  (∀ s m i t slot w b, calm s.dev = true → m ≤ 11 → i ≤ 63 → t ≤ 8 → 0 < b → b ≤ 16 → tagFree s.dev m = true →
    heldOrder s.dev ⟨m, i, t, slot, w, b, false, false⟩ = false → heldCycle s.dev ⟨m, i, t, slot, w, b, false, false⟩ = false →
    isLane t = false → s.dev.hal.tagged = [] →
    Gives (.hallRequest m i t slot w b) s fun e => e.hal.granted = s.dev.hal.granted ++ [⟨m, i, t, slot, w, b, false, false⟩] ∧
      e.hal.issued = bump s.dev.hal.issued m ∧ e.hal.outstanding = bump s.dev.hal.outstanding m ∧ e.hal.tagged = [] ∧
      e.hal.waiting = s.dev.hal.waiting ∧ Same { e with hal := s.dev.hal } s.dev) ∧
  (∀ s m i t slot w b, calm s.dev = true → m ≤ 11 → i ≤ 63 → t ≤ 8 → 0 < b → b ≤ 16 → tagFree s.dev m = false →
    Gives (.hallRequest m i t slot w b) s fun e => e.hal = { s.dev.hal with waiting := s.dev.hal.waiting ++
        [⟨m, i, t, slot, w, b, heldOrder s.dev ⟨m, i, t, slot, w, b, false, false⟩, heldCycle s.dev ⟨m, i, t, slot, w, b, false, false⟩⟩] } ∧
      Same { e with hal := s.dev.hal } s.dev) ∧
  (∀ s m i r, calm s.dev = true → s.dev.hal.granted.find? (fun x => x.master == m && x.id == i) = some r →
    s.dev.hal.waiting = [] → s.dev.hal.tagged = [] →
    Gives (.hallCompletion m i) s fun e => e.hal.granted = s.dev.hal.granted.erase r ∧ e.hal.returned = bump s.dev.hal.returned m ∧
      e.hal.outstanding = unbump s.dev.hal.outstanding m ∧ e.hal.waiting = [] ∧ Same { e with hal := s.dev.hal } s.dev) ∧
  (∀ s m i, calm s.dev = true → s.dev.hal.granted.find? (fun x => x.master == m && x.id == i) = none →
    Gives (.hallCompletion m i) s (Same · s.dev))

end

/-! ### Keys, hold-up and tamper (chapter 16) -/

section
open Sys2Proof Sys2Proof.Machine

/-- R374, R375, R378, R379, R388, R391: a command while another executes is refused with BUSY; COMMIT writes a node through the journal, and clears KEY_DATA whatever happens; the walk of INVALIDATE; LOAD, UNLOAD, SEAL and FWMAC with their refusals. -/
def Obligations.KeyCommands : Prop :=
  (∀ s r b, calm s.dev = true → Served s.dev r KEY_CMD → s.dev.key.busy = some b →
    Gives (.keyCommit r) s (Same · (setReg (answered s []) KEY_RES (w32 (8 + 1 * 16)))) ∧
    (∀ i, Gives (.keyInvalidate r i) s (Same · (setReg (answered s []) KEY_RES (w32 (8 + 2 * 16))))) ∧
    (∀ x i, Gives (.keyLoad r x i) s (Same · (setReg (answered s []) KEY_RES (w32 (8 + 3 * 16))))) ∧
    (∀ x, Gives (.keyUnload r x) s (Same · (setReg (answered s []) KEY_RES (w32 (8 + 4 * 16))))) ∧
    Gives (.keySeal r) s (Same · (setReg (answered s []) KEY_RES (w32 (8 + 5 * 16)))) ∧
    Gives (.keyFwmac r) s (Same · (setReg (answered s []) KEY_RES (w32 (8 + 6 * 16)))) ∧
    Gives (.keyZeroise r) s (Same · (setReg (answered s []) KEY_RES (w32 (8 + 7 * 16))))) ∧
  (∀ s r, calm s.dev = true → Served s.dev r KEY_CMD → s.dev.key.busy = none → s.dev.key.root = none →
    Gives (.keyCommit r) s fun e => rg e KEY_RES = w32 (7 + 16) ∧ (∀ i, i < 8 → rg e (KEY_DATA + 4 * i) = 0) ∧
      e.key = s.dev.key ∧ ∀ k, k ≠ KEY_RES → (∀ i, i < 8 → k ≠ KEY_DATA + 4 * i) → rg e k = rg s.dev k) ∧
  (∀ s r i, calm s.dev = true → Served s.dev r KEY_CMD → s.dev.key.busy = none → treeWriteCheck s.dev = none →
    commitCheck s.dev = none → i = bits (rg s.dev KEY_NODE) 9 0 → s.dev.key.slots.length = 2 →
    s.dev.key.select = some 0 ∨ s.dev.key.select = some 1 →
    Gives (.keyCommit r) s fun e => (nodeOf e i).st = .valid ∧ (nodeOf e i).parent = bits (rg s.dev KEY_NODE) 25 16 ∧
      (nodeOf e i).usage = bits (rg s.dev KEY_NODE) 29 28 ∧ (nodeOf e i).gen = ((nodeOf s.dev i).gen + 1) % 256 ∧
      (∀ j, j ≠ i → nodeOf e j = nodeOf s.dev j) ∧ e.key.seq = s.dev.key.seq + 1 ∧ e.key.select ≠ s.dev.key.select ∧
      e.key.slots.getD (s.dev.key.select.getD 0) none = s.dev.key.slots.getD (s.dev.key.select.getD 0) none ∧
      rg e KEY_RES = w32 16 ∧ (∀ j, j < 8 → rg e (KEY_DATA + 4 * j) = 0) ∧ e.key.root = s.dev.key.root) ∧
  (∀ s r i, calm s.dev = true → Served s.dev r KEY_CMD → s.dev.key.busy = none → treeWriteCheck s.dev = none → 0 < i → i < 1024 →
    (nodeOf s.dev i).st ≠ .invalid → s.dev.key.slots.length = 2 →
    Gives (.keyInvalidate r i) s fun e => (nodeOf e i).st = .invalid ∧ e.key.busy = some ⟨2, orphanList s.dev i, []⟩ ∧
      (∀ j, j ≠ i → nodeOf e j = nodeOf s.dev j) ∧ e.key.seq = s.dev.key.seq + 1 ∧ e.regs = s.dev.regs) ∧
  (∀ s b, calm s.dev = true → s.dev.key.busy = some b → b.cmd = 2 →
    Gives .invalidateWalkComplete s fun e => e.key.busy = none ∧ rg e KEY_RES = w32 32 ∧
      (∀ j, j ≠ 0 → j ∈ b.walk → (nodeOf s.dev j).st = .valid → (nodeOf e j).st = .orphan) ∧
      (∀ j, j ≠ 0 → j ∉ b.walk → nodeOf e j = nodeOf s.dev j)) ∧
  (∀ s r x i, calm s.dev = true → Served s.dev r KEY_CMD → s.dev.key.busy = none → 4 < x → x < 8 →
    Gives (.keyLoad r x i) s (Same · (setReg (answered s []) KEY_RES (w32 (9 + 3 * 16)))) ∧
    Gives (.keyUnload r x) s (Same · (setReg (answered s []) KEY_RES (w32 (9 + 4 * 16))))) ∧
  (∀ s r x i, calm s.dev = true → Served s.dev r KEY_CMD → s.dev.key.busy = none → x ≤ 4 → i < 1024 → s.dev.key.root.isSome = true →
    (nodeOf s.dev i).st ≠ .valid → Gives (.keyLoad r x i) s (Same · (setReg (answered s []) KEY_RES (w32 (5 + 3 * 16))))) ∧
  (∀ s r x i root, calm s.dev = true → Served s.dev r KEY_CMD → s.dev.key.busy = none → 0 < x → x ≤ 4 → i < 1024 →
    x < s.dev.key.work.length → s.dev.key.root = some root → (nodeOf s.dev i).st = .valid → (nodeOf s.dev i).dest.testBit x = true →
    engineAccepts x (nodeOf s.dev i).usage = true →
    Gives (.keyLoad r x i) s fun e =>
      ((Config.nodeOpen (wrapKey root i) (nodeOf s.dev i).wrapped (nodeOf s.dev i).tag).1 = true →
        (workOf e x).node = some i ∧ rg e KEY_RES = w32 48) ∧
      ((Config.nodeOpen (wrapKey root i) (nodeOf s.dev i).wrapped (nodeOf s.dev i).tag).1 = false →
        raisedBy e srcKeyCorrupt = raisedBy s.dev srcKeyCorrupt + 1 ∧ workOf e x = workOf s.dev x)) ∧
  (∀ s r x, calm s.dev = true → Served s.dev r KEY_CMD → s.dev.key.busy = none → 0 < x → x ≤ 4 → x < s.dev.key.work.length →
    Gives (.keyUnload r x) s fun e => workOf e x = {} ∧ (∀ j, j ≠ x → workOf e j = workOf s.dev j) ∧ rg e KEY_RES = w32 64) ∧
  (∀ s r, calm s.dev = true → Served s.dev r KEY_CMD → s.dev.key.busy = none → s.dev.key.idOk = true →
    Gives (.keySeal r) s fun e => e.key = { s.dev.key with busy := e.key.busy, outValid := false } ∧
      (∃ b : KeyBusy, e.key.busy = some b ∧ b.cmd = 5) ∧ e.regs = s.dev.regs) ∧
  (∀ s b, s.dev.key.busy = some b → b.cmd = 5 →
    Gives .sealComplete s fun e => e.key = { s.dev.key with busy := none, outValid := true } ∧ rg e KEY_RES = w32 80) ∧
  (∀ s r, calm s.dev = true → Served s.dev r KEY_CMD → s.dev.key.busy = none → (workOf s.dev 4).node = none →
    Gives (.keyFwmac r) s (Same · (setReg (answered s []) KEY_RES (w32 (5 + 6 * 16))))) ∧
  (∀ s r n, calm s.dev = true → Served s.dev r KEY_CMD → s.dev.key.busy = none → (workOf s.dev 4).node = some n →
    Gives (.keyFwmac r) s fun e => (∃ b : KeyBusy, e.key.busy = some b ∧ b.cmd = 6) ∧ e.key.outValid = false ∧ e.regs = s.dev.regs) ∧
  (∀ s b, s.dev.key.busy = some b → b.cmd = 6 →
    Gives .fwmacComplete s fun e => e.key = { s.dev.key with busy := none, outValid := true } ∧ rg e KEY_RES = w32 96)

/-- R381, R383, R385 to R387, R430, R484: a tamper source destroys the root, counts and is reported; KEY_TCFG stands once locked; a loss of VBAT loses the backup domain; a sample and a discharge test; what a JTAG instruction changes. -/
def Obligations.TamperAndHoldup : Prop :=
  (∀ s r, Served s.dev r KEY_CMD → s.dev.key.busy = none →
    Gives (.keyZeroise r) s fun e => e.key.root = none ∧ e.key.zcount = min 65535 (s.dev.key.zcount + 1) ∧
      bit e.key.tamper 8 = true ∧ e.key.nodes = s.dev.key.nodes) ∧
  (∀ s n, n ≤ 7 → 4 ≤ n ∨ bit s.dev.key.tcfg n = true →
    Gives (.tamperEvent n) s fun e => e.key.root = none ∧ e.key.zcount = min 65535 (s.dev.key.zcount + 1) ∧
      bit e.key.tamper n = true ∧ e.key.nodes = s.dev.key.nodes) ∧
  (∀ s n, calm s.dev = true → 7 < n ∨ (n < 4 ∧ bit s.dev.key.tcfg n = false) → Gives (.tamperEvent n) s (Same · s.dev)) ∧
  (∀ s r v, calm s.dev = true → Served s.dev r KEY_TCFG → bit s.dev.key.tcfg 31 = true →
    Gives (.keyTcfgWrite r v) s (Same · (answered s []))) ∧
  (∀ s r v, calm s.dev = true → Served s.dev r KEY_TCFG → bit s.dev.key.tcfg 31 = false →
    Gives (.keyTcfgWrite r v) s (Same · { answered s [] with key := { s.dev.key with tcfg := v &&& 0x8000FFFF#32 } })) ∧
  (∀ s, Gives .vbatLoss s fun e => e.key.root = none ∧ e.key.tcfg = 0 ∧ e.key.zcount = 0 ∧ e.key.nodes = [] ∧
      e.backup = { bkpTrim := (fuses s.dev).bkpTrim } ∧ e.tol.e = 0 ∧ rgb e CHT_BOOT 0 = false ∧ e.gen = s.dev.gen ∧
      e.tsc = s.dev.tsc) ∧
  (∀ s m, calm s.dev = true → s.dev.gen.mode ≠ .off → s.dev.start.phase ≠ .held → s.dev.start.phase ≠ .energyWait →
    (m * (fuses s.dev).hratio) % 16 = 0 →
    Gives (.holdupSample m) s fun e => e.key = { s.dev.key with
        vhsns := m, v := m * (fuses s.dev).hratio / 16, eValid := true, sampleT := s.dev.t,
        e := min (fuses s.dev).holdcap s.dev.key.cMeas * (m * (fuses s.dev).hratio) * (m * (fuses s.dev).hratio) / 512000000 } ∧
      Same { e with key := s.dev.key } s.dev) ∧
  (∀ s dv d, indIdle s.dev → s.dev.gen.mode ≠ .off → s.dev.start.phase ≠ .held → (fuses s.dev).holdcap ≠ 0 → 0 < dv → nvBusy s.dev = false →
    At s (if s.dev.key.testRun then s.dev.t.toNat else s.dev.key.htestT.toNat +
      (if rgf s.dev KEY_HTEST 15 0 = 0 then 60 else rgf s.dev KEY_HTEST 15 0) * 1000000000) d → calm d = true →
    Gives (.dischargeTest dv) s fun e => ((20000 : Int) - e.key.cMeas * dv).natAbs < dv ∧
      (e.key.degraded = true ↔ 200000 < 8 * (fuses s.dev).holdcap * dv) ∧ e.key.testRun = false ∧ e.key.htestT = d.t ∧
      raisedBy e srcHoldupDegraded = raisedBy s.dev srcHoldupDegraded + (if 200000 < 8 * (fuses s.dev).holdcap * dv then 1 else 0)) ∧
  (∀ s dv d, indIdle s.dev → s.dev.gen.mode ≠ .off → s.dev.start.phase ≠ .held → (fuses s.dev).holdcap = 0 → s.dev.key.testRun = true →
    nvBusy s.dev = false → At s s.dev.t.toNat d → calm d = true → Gives (.dischargeTest dv) s (Same · d)) ∧
  (∀ s r v, calm s.dev = true → Served s.dev r KEY_HTEST →
    Gives (.keyHtestRun r v) s fun e => rgf e KEY_HTEST 15 0 = bits v 15 0 ∧
      e.key.testRun = (s.dev.key.testRun || (bit v 31 && decide ((fuses s.dev).holdcap ≠ 0))) ∧
      (∀ k, k ≠ KEY_HTEST → rg e k = rg s.dev k)) ∧
  (∀ s r v, calm s.dev = true → Served s.dev r KEY_NRD_SEL →
    Gives (.keyNrdSelWrite r v) s fun e => heldWord (reqOf e r) KEY_NRD = nrdWord s.dev (bits v 9 0) ∧ e.key = s.dev.key ∧
      e.regs = s.dev.regs) ∧
  (∀ s i, calm s.dev = true → s.dev.gen.mode ≠ .off →
    Gives (.jtagInstructionUpdate i) s (Same · { s.dev with jtag := { s.dev.jtag with instr := i } }))

end


/-! ### Twin pairs (chapter 17) -/

section
open Sys2Proof Sys2Proof.Machine

/-- R393 to R399: the link's training, HELLO and negotiation; a message whose check fails is counted; TIMING, its slot and the twin lock; the heartbeat. Where the event cannot occur, the state stays (the model's choice, log 21). -/
def Obligations.TwinLink : Prop :=
  (∀ s d, indIdle s.dev → s.dev.twn.link = .training → At s (s.dev.twn.trainT.toNat + 10 * ms) d → calm d = true →
    Gives .twinLinkTrained s (Same · { d with twn := { d.twn with link := .negotiating, helloT := none } })) ∧
  (∀ s, calm s.dev = true → s.dev.twn.link ≠ .training → Gives .twinLinkTrained s (Same · s.dev)) ∧
  (∀ s d n, indIdle s.dev → (s.dev.twn.link = .negotiating ∧ n = 10) ∨ (s.dev.twn.link = .up ∧ n = 1000) →
    At s ((s.dev.twn.helloT.map (fun t => t.toNat + n * ms)).getD s.dev.t.toNat) d → calm d = true →
    Gives .helloSend s fun e => Emit.twin 1 (plainTwin d 1 (helloPayload d)) ∈ e.out ∧
      Same e { d with twn := { d.twn with txSeq := d.twn.txSeq + 1, helloT := some d.t } }) ∧
  (∀ s, calm s.dev = true → s.dev.twn.link ≠ .negotiating → s.dev.twn.link ≠ .up → Gives .helloSend s (Same · s.dev)) ∧
  (∀ s msg, calm s.dev = true → s.dev.twn.link = .negotiating → twinOpen s.dev 1 msg = (none, twinBad s.dev) →
    Gives (.helloReceived msg) s fun e => rgf e TWN_MSGERR 31 0 = min (2 ^ 32 - 1) (rgf s.dev TWN_MSGERR 31 0 + 1) ∧
      (∀ k, k ≠ TWN_MSGERR → rg e k = rg s.dev k) ∧ e.twn = s.dev.twn) ∧
  (∀ s msg m d1 v, s.dev.twn.link = .negotiating → twinOpen (fresh s) 1 msg = (some m, d1) → s.dev.gen.mode = .standby →
    beAt m.payload 7 1 ≠ twinSide s.dev → enOf s.dev baseTwn = true → heldInReset s.dev 19 0 = false →
    (ownVersions s.dev).find? (fun x => beAt m.payload 0 2 ≤ x && x ≤ beAt m.payload 2 2) = some v →
    Gives (.helloReceived msg) s fun e => e.twn.link = .up ∧ e.twn.agreed = v ∧ e.twn.lastHello = m.payload ∧
      e.twn.vFail = false ∧ e.twn.cfgDiff = (slice m.payload 24 8 != cfgDigest s.dev) ∧ e.gen = s.dev.gen ∧ e.tsc = s.dev.tsc) ∧
  (∀ d b v, (ownVersions d).find? (fun x => beAt b 0 2 ≤ x && x ≤ beAt b 2 2) = some v → beAt b 7 1 ≠ twinSide d →
    (negotiate d b).twn.link = .up ∧ (negotiate d b).twn.agreed = v ∧ beAt b 0 2 ≤ v ∧ v ≤ beAt b 2 2 ∧
      ∀ x ∈ ownVersions d, beAt b 0 2 ≤ x → x ≤ beAt b 2 2 → x ≤ v) ∧
  (∀ d b, (ownVersions d).find? (fun x => beAt b 0 2 ≤ x && x ≤ beAt b 2 2) = none →
    (negotiate d b).twn.link = .refused ∧ raisedBy (negotiate d b) srcTwinVersion = raisedBy d srcTwinVersion + 1) ∧
  (∀ s sub d, indIdle s.dev → enOf s.dev baseTwn = true → AtScale s 0 ((slotNext s.dev * 1000000 + 500000 * twinSide s.dev : Nat) : Rat) d →
    calm d = true → enOf d baseTwn = true → d.twn.link = .up → d.twn.agreed ≠ 0x0201 →
    Gives (.timingSend sub false) s fun e => Emit.pin 69 false ((d.t.toNat * 1000 : Nat) : Int) ∈ e.out ∧
      Emit.pin 69 true ((d.t.toNat * 1000 + 20000000 : Nat) : Int) ∈ e.out ∧ (e.out.any fun x => match x with
        | .twin t _ => t == 2
        | _ => false) = true ∧
      Same e { d with twn := { d.twn with slotMs := some (slotNext s.dev), txSeq := d.twn.txSeq + 1, lastTx := some ⟨d.twn.txSeq % 2 ^ 32, (stampO d sub : Nat)⟩ } }) ∧
  (∀ s sub d, indIdle s.dev → enOf s.dev baseTwn = true → AtScale s 0 ((slotNext s.dev * 1000000 + 500000 * twinSide s.dev : Nat) : Rat) d →
    calm d = true → enOf d baseTwn = true → d.twn.link ≠ .up →
    Gives (.timingSend sub true) s fun e => e.twn.slotMs = some (slotNext s.dev) ∧ e.twn.aliveT = some d.t ∧ e.twn.missed = 0 ∧
      e.twn.hbLost = false ∧ e.twn.seenMs = msNow d ∧ e.twn.txSeq = d.twn.txSeq ∧ Same { e with twn := d.twn } d) ∧
  (∀ s msg sub m d1, calm s.dev = true → s.dev.twn.link = .up → twinOpen (fresh s) 2 msg = (some m, d1) → s.dev.twn.lastTx = none →
    Gives (.timingReceived msg sub) s fun e => e.twn.missed = 0 ∧ e.twn.hbLost = false ∧ e.twn.timingT = some s.dev.t ∧
      e.twn.lastRx = some ⟨m.seq, (stampO s.dev sub : Nat)⟩ ∧ e.twn.theta = s.dev.twn.theta ∧ e.gen = s.dev.gen) ∧
  (∀ s msg sub m d1 rx tx th ps, s.dev.twn.link = .up → twinOpen (fresh s) 2 msg = (some m, d1) → s.dev.twn.locked = false →
    s.dev.twn.lastRx = some rx → s.dev.twn.lastTx = some tx → rx.seq = beAt m.payload 0 4 → tx.seq = beAt m.payload 20 4 →
    ((stampAt m.payload 24 - tx.stamp) - (rx.stamp - stampAt m.payload 4)) * 1000 + efS s.dev TWN_ASYM * 65536 = 2000 * th →
    ((stampAt m.payload 24 - tx.stamp) + (rx.stamp - stampAt m.payload 4)) * 1000 = 65536 * ps →
    Gives (.timingReceived msg sub) s fun e => e.twn.theta = th ∧ e.twn.rtt = ps ∧ e.twn.exT = s.dev.t ∧
      e.twn.lastRx = some ⟨m.seq, (stampO s.dev sub : Nat)⟩ ∧ e.twn.lastTx = some tx ∧ e.gen = s.dev.gen) ∧
  (∀ d th rt ps, d.twn.locked = false →
    (exchange d th rt ps).twn.theta = th ∧ (exchange d th rt ps).twn.rtt = ps ∧
      (exchange d th rt ps).twn.locked = (decide (15 ≤ d.twn.rtts.length) &&
        ((rt :: d.twn.rtts).take 16).all (nearMean 200 ((rt :: d.twn.rtts).take 16)))) ∧
  (∀ d th rt ps, d.twn.locked = true → 16 ≤ (d.twn.rtts.drop d.twn.departs).length →
    (exchange d th rt ps).twn.theta = th ∧ (exchange d th rt ps).twn.rtt = ps ∧
      (exchange d th rt ps).twn.locked = (nearMean 1000 ((d.twn.rtts.drop d.twn.departs).take 16) rt || decide (d.twn.departs < 3))) ∧
  (∀ s d, indIdle s.dev → s.dev.twn.locked = true → At s (s.dev.twn.exT.toNat + 8 * ms) d → calm d = true → d.twn.locked = true →
    30 < d.refs.length → (refOf d 30).present = true →
    Gives .twinLockLoss s fun e => e.twn.locked = false ∧ e.twn.rtts = [] ∧ e.twn.departs = 0 ∧ (refOf e 30).present = false ∧
      (refOf e 30).lcause = 3 ∧ e.twn.link = d.twn.link) ∧
  (∀ s, calm s.dev = true → s.dev.twn.locked = false → Gives .twinLockLoss s (Same · s.dev)) ∧
  (∀ s, calm s.dev = true → enOf s.dev baseTwn = false → s.dev.twn.locked = false →
    Gives .twinLinkLoss s (Same · { s.dev with twn := { s.dev.twn with
      link := .down, rtts := [], departs := 0, lastTx := none, lastRx := none, lastHello := [], rxSeq := 0 } })) ∧
  (∀ s, enOf s.dev baseTwn = true → heldInReset s.dev 19 0 = false → inService s.dev = true → s.dev.twn.locked = true →
    30 < s.dev.refs.length → (refOf s.dev 30).present = true →
    Gives .twinLinkLoss s fun e => e.twn.link = .training ∧ e.twn.trainT = s.dev.t ∧ e.twn.locked = false ∧ e.twn.lastTx = none ∧
      e.twn.lastRx = none ∧ (refOf e 30).present = false ∧ (refOf e 30).lcause = 3) ∧
  (∀ s d, indIdle s.dev → enOf s.dev baseTwn = true → AtScale s 0 (((seenBy s.dev + 2) * 1000000 : Nat) : Rat) d → calm d = true →
    d.twn.missed < 49 →
    Gives .heartbeatMiss s (Same · { d with twn := { d.twn with missed := d.twn.missed + 1, seenMs := seenBy d + 1 } })) ∧
  (∀ s, calm s.dev = true → enOf s.dev baseTwn = false →
    Gives .heartbeatMiss s (Same · s.dev) ∧ Gives .heartbeatLoss s (Same · s.dev) ∧
      ∀ sub alive, Gives (.timingSend sub alive) s (Same · s.dev))

/-- R402, R404 to R408, R410: who takes the Floor and who gives it up; a swap's commands; what a standby takes from a BELL message; snapshots are begun, filled, committed and acknowledged. -/
def Obligations.FloorAndSnapshots : Prop :=
  (∀ s d, indIdle s.dev → enOf s.dev baseTwn = true → AtScale s 0 (((seenBy s.dev + (50 - s.dev.twn.missed) + 1) * 1000000 : Nat) : Rat) d →
    twinConfigured d = true → d.gen.mode = .standby → d.twn.hbLost = false → d.twn.floorLow = false → heldInReset d 19 0 = false →
    Gives .heartbeatLoss s fun e => e.gen.mode = .active ∧ e.twn.takeover = 2 ∧ e.twn.hbLost = true ∧ 50 ≤ e.twn.missed ∧ e.twn.pull = true) ∧
  (∀ s d, indIdle s.dev → enOf s.dev baseTwn = true → AtScale s 0 (((seenBy s.dev + (50 - s.dev.twn.missed) + 1) * 1000000 : Nat) : Rat) d →
    twinConfigured d = true → d.gen.mode = .standby → d.twn.hbLost = false → d.twn.floorLow = true →
    Gives .heartbeatLoss s fun e => e.gen.mode = .standby ∧ e.twn.hbLost = true ∧ 50 ≤ e.twn.missed ∧
      raisedBy e srcTwinSilent = raisedBy d srcTwinSilent + 1) ∧
  (∀ s, twinConfigured s.dev = true → s.dev.gen.mode = .standby → s.dev.twn.pull = false → s.dev.twn.abdicateSeen = true →
    Gives .twfloorRelease s fun e => e.gen.mode = .active ∧ e.twn.takeover = 1) ∧
  (∀ s, twinConfigured s.dev = true → s.dev.gen.mode = .standby → s.dev.twn.pull = false → s.dev.twn.abdicateSeen = false →
    s.dev.twn.hbLost = false → s.dev.twn.floorLow = true →
    Gives .twfloorRelease s fun e => e.gen.mode = .standby ∧ raisedBy e srcTwinFloorglitch = raisedBy s.dev srcTwinFloorglitch + 1) ∧
  (∀ s msg m d1, s.dev.twn.link = .up → twinOpen (fresh s) 8 msg = (some m, d1) → twinConfigured s.dev = true →
    s.dev.gen.mode = .standby → s.dev.twn.pull = false → d1.twn.partnerFloor = false →
    Gives (.abdicateReceived msg) s fun e => e.gen.mode = .active ∧ e.twn.takeover = 1 ∧ e.twn.causeRx = beAt m.payload 0 1) ∧
  (∀ s r v, Served s.dev r TWN_CMD → bit v 0 = false → bit v 1 = true → holdsFloor s.dev = true → twinConfigured s.dev = true →
    partnerReady s.dev = true → s.dev.twn.agreed ≠ 0x0201 →
    Gives (.twnCmdAbdicate r v) s fun e => e.gen.mode = .standby ∧ e.twn.causeTx = 6 ∧ e.twn.pull = false ∧
      Emit.twin 8 (plainTwin { s.dev with twn := { s.dev.twn with pull := false } } 8 [6, 0, 0, 0]) ∈ e.out ∧
      rgf e TWN_EVT 23 16 = min 255 (rgf s.dev TWN_EVT 23 16 + 1)) ∧
  (∀ s r v, Served s.dev r TWN_CMD → bit v 0 = false → bit v 1 = true → holdsFloor s.dev = true → twinConfigured s.dev = true →
    partnerReady s.dev = false →
    Gives (.twnCmdAbdicate r v) s fun e => e.gen.mode = s.dev.gen.mode ∧ e.twn.takeover = s.dev.twn.takeover ∧
      raisedBy e srcTwinNopartner = raisedBy s.dev srcTwinNopartner + 1) ∧
  (∀ s r, Served s.dev r TWN_CMD → holdsFloor s.dev = true → twinConfigured s.dev = true → s.dev.twn.link = .up →
    s.dev.twn.agreed ≠ 0x0201 →
    Gives (.twnCmdSwap r 1) s fun e => Emit.twin 9 (plainTwin s.dev 9 (beBytes 8 (if rgPair s.dev TWN_SWAP_BELL_LO = 0
        then s.dev.bellCnt.toNat + 2 else rgPair s.dev TWN_SWAP_BELL_LO))) ∈ e.out ∧ e.gen.mode = s.dev.gen.mode ∧
      e.twn.swapAccepted = false ∧ e.twn.swapTarget = some (BitVec.ofNat 64 (if rgPair s.dev TWN_SWAP_BELL_LO = 0
        then s.dev.bellCnt.toNat + 2 else rgPair s.dev TWN_SWAP_BELL_LO))) ∧
  (∀ s msg m d1, s.dev.twn.link = .up → twinOpen (fresh s) 9 msg = (some m, d1) → s.dev.gen.mode = .standby →
    twinReady d1 = true → s.dev.twn.agreed ≠ 0x0201 →
    Gives (.handoverReceived msg) s fun e => e.twn.swapTarget = some (BitVec.ofNat 64 (beAt m.payload 0 8)) ∧
      e.twn.swapAccepted = true ∧
      Emit.twin 10 (plainTwin s.dev 10 (beBytes 8 (beAt m.payload 0 8) ++ [0])) ∈ e.out ∧ e.gen = s.dev.gen) ∧
  (∀ s msg m d1 t, s.dev.twn.link = .up → twinOpen (fresh s) 10 msg = (some m, d1) → s.dev.twn.swapTarget = some t →
    holdsFloor s.dev = true → t.toNat = beAt m.payload 0 8 → beAt m.payload 8 1 = 0 → s.dev.bellCnt.toNat + 1 < t.toNat →
    Gives (.handoverAnsReceived msg) s fun e => e.twn.swapAccepted = true ∧ e.twn.swapTarget = some t ∧ e.gen = s.dev.gen) ∧
  (∀ s msg m d1, s.dev.twn.link = .up → twinOpen (fresh s) 3 msg = (some m, d1) → s.dev.gen.mode = .standby →
    0x0200 ≤ s.dev.twn.agreed → sext 64 (beAt m.payload 8 8) = 0 → (beAt m.payload 0 1 % 2 == 1) = s.dev.tsc.cur →
    m.bell = s.dev.bellCnt.toNat → s.dev.twn.muteToBell = false →
    Gives (.bellMessageReceived msg) s fun e => e.twn.mute = false ∧ e.twn.cstateA = beAt m.payload 1 1 ∧
      e.twn.cstateB = beAt m.payload 2 1 ∧ e.twn.refId = slice m.payload 4 4 ∧ e.twn.coreA = beAt m.payload 16 8 ∧
      e.twn.announce = slice m.payload 48 512 ∧ e.tsc = s.dev.tsc ∧ e.gen = s.dev.gen) ∧
  (∀ s d, indIdle s.dev → muted s.dev = true → s.dev.twn.muteToBell = false → At s (s.dev.tsc.lastBellT.toNat + 5 * ms) d → calm d = true →
    muted d = true → d.twn.muteToBell = false → Gives .muteTimeout s (Same · { d with twn := { d.twn with muteLate := true } })) ∧
  (∀ s, calm s.dev = true → muted s.dev = false → Gives .muteTimeout s (Same · s.dev)) ∧
  (∀ s msg m d1, s.dev.twn.link = .up → twinOpen (fresh s) 4 msg = (some m, d1) → s.dev.gen.mode ≠ .active →
    Gives (.snapBeginReceived msg) s fun e => e.twn.snap = s.dev.twn.snap ∧
      e.twn.partSnap = some (BitVec.ofNat 64 (beAt m.payload 0 8), beAt m.payload 8 4, [])) ∧
  (∀ s msg m d1 x n l, s.dev.twn.link = .up → twinOpen (fresh s) 5 msg = (some m, d1) → s.dev.twn.partSnap = some (x, n, l) →
    Gives (.snapDataReceived msg) s fun e => e.twn.partSnap = some (x, n, l ++ [(beAt m.payload 0 4, m.payload.drop 8)]) ∧
      e.twn.snap = s.dev.twn.snap) ∧
  (∀ s msg m d1 x n l, s.dev.twn.link = .up → twinOpen (fresh s) 6 msg = (some m, d1) → s.dev.twn.partSnap = some (x, n, l) →
    Gives (.snapEndReceived msg) s fun e => e.twn.partSnap = none ∧
      (((assemble l.length l []).length = n ∧ beAt m.payload 0 4 = (crc32 (assemble l.length l [])).toNat) →
        e.twn.snap.map (fun y => (y.bell, y.image)) = some (x, assemble l.length l [])) ∧
      (((assemble l.length l []).length ≠ n ∨ beAt m.payload 0 4 ≠ (crc32 (assemble l.length l [])).toNat) →
        e.twn.snap = s.dev.twn.snap)) ∧
  (∀ s msg m d1, s.dev.twn.link = .up → twinOpen (fresh s) 7 msg = (some m, d1) →
    Gives (.snapAckReceived msg) s fun e => e.twn.ackBell = some (BitVec.ofNat 64 (beAt m.payload 0 8)) ∧
      e.twn.changes = s.dev.twn.changes.drop (((s.dev.twn.sent.find? (·.1 == beAt m.payload 0 8)).map (·.2)).getD 0) ∧
      (∀ x ∈ e.twn.sent, beAt m.payload 0 8 < x.1) ∧ e.gen = s.dev.gen)

end

/-! ### Audio (chapter 18) -/

section
open Sys2Proof Sys2Proof.Machine

/-- R412, R414, R416, R417, R420 to R423: an edge is taken, or discarded as a glitch; an edge of the followed clock starts a frame, which a silent output sends; a loss bridges the domain; a return switches it back; a ramp ends; a block's boundary starts and stops an output; a slip is counted and logged. Where the event cannot occur, the state stays (the model's choice, log 21). -/
def Obligations.Audio : Prop :=
  (∀ s c b, calm s.dev = true → clkOn s.dev c = false → Gives (.audioEdge c b) s (Same · s.dev)) ∧
  (∀ s c, calm s.dev = true → clkOn s.dev c = true → s.dev.aud.edge = none → (audClock s.dev c).last = none →
    Gives (.audioEdge c none) s (Same · { s.dev with aud := { s.dev.aud with
      clocks := upd s.dev.aud.clocks c (fun k => { k with last := some s.dev.t }) } })) ∧
  (∀ s c l, calm s.dev = true → clkOn s.dev c = true → c < s.dev.aud.clocks.length → s.dev.aud.edge = none →
    (audClock s.dev c).last = some l →
    (s.dev.t.toNat - l.toNat) * 2 * rateHz (clkRate s.dev c) < 1000000000 → (audClock s.dev c).glitches = [] →
    Gives (.audioEdge c none) s fun e => (audClock e c).last = some l ∧ (audClock e c).periods = (audClock s.dev c).periods ∧
      (audClock e c).present = (audClock s.dev c).present ∧ (audClock e c).glitches = [s.dev.t] ∧ rgb e (baseAud + 8) 22 = true ∧
      e.aud.st = s.dev.aud.st ∧ e.aud.frame = s.dev.aud.frame) ∧
  (∀ s c l, calm s.dev = true → clkOn s.dev c = true → c < s.dev.aud.clocks.length → s.dev.aud.edge = none →
    (audClock s.dev c).last = some l →
    1000000000 ≤ (s.dev.t.toNat - l.toNat) * 2 * rateHz (clkRate s.dev c) → (audClock s.dev c).present = false →
    (audClock s.dev c).good < 1000 →
    Gives (.audioEdge c none) s fun e => (audClock e c).last = some s.dev.t ∧ (audClock e c).present = false ∧
      (audClock e c).good = (if rateOk (clkRate s.dev c) 1 (s.dev.t.toNat - l.toNat) then (audClock s.dev c).good + 1 else 0) ∧
      Same { e with aud := s.dev.aud } s.dev) ∧
  (∀ s c l, clkOn s.dev c = true → c < s.dev.aud.clocks.length → s.dev.aud.edge = none → (audClock s.dev c).last = some l →
    1000000000 ≤ (s.dev.t.toNat - l.toNat) * 2 * rateHz (clkRate s.dev c) → (audClock s.dev c).present = true →
    (audClock s.dev c).periods.length < 63 → followedClk s.dev.aud.src = some c → s.dev.aud.st = .following → s.dev.aud.change = none →
    Gives (.audioEdge c none) s fun e => (audClock e c).last = some s.dev.t ∧
      (audClock e c).periods = (s.dev.t.toNat - l.toNat) :: (audClock s.dev c).periods ∧
      e.aud.edge = some (s.dev.t.toNat : Rat) ∧ e.aud.frame = (s.dev.aud.frame + 1) % 192 ∧ e.aud.st = .following) ∧
  (∀ s c l n, clkOn s.dev c = true → c < s.dev.aud.clocks.length → s.dev.aud.edge = none → (audClock s.dev c).last = some l →
    1000000000 ≤ (s.dev.t.toNat - l.toNat) * 2 * rateHz (clkRate s.dev c) → (audClock s.dev c).present = true →
    (audClock s.dev c).periods.length < 63 → followedClk s.dev.aud.src = some c → s.dev.aud.st = .following → s.dev.aud.change = none →
    s.dev.aud.frame % 192 ≠ 0 → n ≤ 3 → n < s.dev.aud.outs.length → (audOut s.dev n).run = true → (audOut s.dev n).low = false →
    (audOut s.dev n).silent = true → (audOut s.dev n).ramp = 0 → (audOut s.dev n).content.1 = 0 → (audOut s.dev n).rampDone = false →
    efb s.dev (aoutCfg n) 0 = true → efb s.dev (aoutCfg n) 1 = false → pinFunc s.dev (28 + n) = 5 →
    Gives (.audioEdge c none) s fun e => Emit.aes n s.dev.aud.frame
      (aesSub 0 (bitOf (audOut s.dev n).user (2 * s.dev.aud.frame / 8) (7 - 2 * s.dev.aud.frame % 8))
        (bitOf (audOut s.dev n).status (s.dev.aud.frame / 8) (s.dev.aud.frame % 8)))
      (aesSub 0x1000000 (bitOf (audOut s.dev n).user ((2 * s.dev.aud.frame + 1) / 8) (7 - (2 * s.dev.aud.frame + 1) % 8))
        (bitOf (audOut s.dev n).status (s.dev.aud.frame / 8) (s.dev.aud.frame % 8)))
      ((s.dev.t.toNat * 1000 : Nat) : Int) ∈ e.out) ∧
  (∀ s c d, indIdle s.dev → clkWatched s.dev c = true →
    At s (((audClock s.dev c).last.map (fun l => l.toNat + ceilDiv 2000000000 (rateHz (clkRate s.dev c)))).getD s.dev.t.toNat) d →
    d.aud.edge = none → c < d.aud.clocks.length → (audClock d c).present = true → followedClk d.aud.src = some c → d.aud.st = .following →
    Gives (.audioClockLoss c) s fun e => (audClock e c).present = false ∧ (audClock e c).periods = [] ∧ e.aud.st = .bridging ∧
      e.aud.returnDue = false ∧ raisedBy e srcAudLoss = raisedBy d srcAudLoss + 1 ∧ e.tsc.o = d.tsc.o ∧
      (audioStall d = none → e.aud.noBridge = true ∧ ∀ o ∈ e.aud.outs, o.run = true → o.low = true)) ∧
  (∀ s c, calm s.dev = true → clkWatched s.dev c = false → Gives (.audioClockLoss c) s (Same · s.dev)) ∧
  (∀ s c d, indIdle s.dev → clkWatched s.dev c = true →
    At s (((audClock s.dev c).last.map (fun l => l.toNat + ceilDiv 2000000000 (rateHz (clkRate s.dev c)))).getD s.dev.t.toNat) d →
    d.aud.edge = none → (audClock d c).present = false → calm d = true → Gives (.audioClockLoss c) s (Same · d)) ∧
  (∀ s, calm s.dev = true → audRuns s.dev = true → s.dev.aud.edge = none → s.dev.aud.frame = 0 →
    (∀ o ∈ s.dev.aud.outs, o.ramp = 0 ∧ o.upDue = false) → s.dev.aud.change = none →
    s.dev.aud.st = .bridging → s.dev.aud.returnDue = true →
    Gives .audioReturnSwitch s fun e => e.aud.returnDue = false ∧ e.aud.noBridge = false ∧
      e.aud.st = (if s.dev.aud.outs.any (·.run) then .returning else .following) ∧ e.aud.outs.length = s.dev.aud.outs.length ∧
      (∀ n, n < s.dev.aud.outs.length → audOut e n = if (audOut s.dev n).run then
        { audOut s.dev n with ramp := 1, why := 0, gain := 0, len := rampLen s.dev n, rampDone := false, low := false, silent := false }
        else audOut s.dev n) ∧ Same { e with aud := s.dev.aud } s.dev) ∧
  (∀ s, calm s.dev = true → audRuns s.dev = false ∨ s.dev.aud.change = none ∧ s.dev.aud.returnDue = false →
    Gives .audioReturnSwitch s (Same · s.dev)) ∧
  (∀ s n, calm s.dev = true → n ≤ 3 → n < s.dev.aud.outs.length → s.dev.aud.edge = none → (audOut s.dev n).ramp = 1 →
    (audOut s.dev n).rampDone = true →
    Gives (.rampEnd n) s fun e => audOut e n = { audOut s.dev n with ramp := 0, why := 0, rampDone := false } ∧
      (∀ k, k ≠ n → audOut e k = audOut s.dev k) ∧ Same { e with aud := s.dev.aud } s.dev) ∧
  (∀ s n, calm s.dev = true → n ≤ 3 → n < s.dev.aud.outs.length → s.dev.aud.edge = none → (audOut s.dev n).ramp = 2 →
    (audOut s.dev n).rampDone = true → (audOut s.dev n).why = 1 →
    Gives (.rampEnd n) s fun e => (audOut e n).run = false ∧ (audOut e n).low = true ∧ (audOut e n).ramp = 0 ∧
      (∀ k, k ≠ n → audOut e k = audOut s.dev k)) ∧
  (∀ s n, calm s.dev = true → 3 < n ∨ (audOut s.dev n).ramp = 0 → Gives (.rampEnd n) s (Same · s.dev)) ∧
  (∀ s n, calm s.dev = true → 3 < n ∨ audRuns s.dev = false → Gives (.audioBlockBoundary n) s (Same · s.dev)) ∧
  (∀ s n, calm s.dev = true → n ≤ 3 → n < s.dev.aud.outs.length → audRuns s.dev = true → s.dev.aud.st = .following → s.dev.staged = [] →
    s.dev.aud.edge = none → s.dev.aud.frame = 0 → (audOut s.dev n).begun = false → (audOut s.dev n).run = false →
    efb s.dev (aoutCfg n) 31 = true →
    Gives (.audioBlockBoundary n) s fun e =>
        audOut e n = { run := true, content := wanted s.dev n, ramp := 1, len := rampLen s.dev n, begun := true } ∧
      (∀ k, k ≠ n → audOut e k = audOut s.dev k) ∧ Same { e with aud := s.dev.aud } s.dev) ∧
  (∀ s n, calm s.dev = true → n ≤ 3 → n < s.dev.aud.outs.length → audRuns s.dev = true → s.dev.aud.st = .following → s.dev.staged = [] →
    s.dev.aud.edge = none → s.dev.aud.frame = 0 → (audOut s.dev n).begun = false → (audOut s.dev n).run = true →
    (audOut s.dev n).low = false → (audOut s.dev n).ramp = 0 → efb s.dev (aoutCfg n) 31 = false →
    Gives (.audioBlockBoundary n) s fun e => (audOut e n).ramp = 2 ∧ (audOut e n).why = 1 ∧ (audOut e n).gain = rampLen s.dev n ∧
      (audOut e n).run = true ∧ (audOut e n).begun = true ∧ (∀ k, k ≠ n → audOut e k = audOut s.dev k) ∧
      Same { e with aud := s.dev.aud } s.dev) ∧
  (∀ s n, calm s.dev = true → n < s.dev.aud.outs.length → (audOut s.dev n).run = true → (audOut s.dev n).content.1 = 2 →
    (audOut s.dev n).flows = true → (audOut s.dev n).buf.length ≤ 2 ∨ 30 ≤ (audOut s.dev n).buf.length → loopLocked s.dev n = true →
    Gives (.loopThroughSlip n) s fun e => raisedBy e srcAudSlip = raisedBy s.dev srcAudSlip + 1 ∧
      rgf e (AOUT_EVT + n * 0x40) 15 8 = min 255 (rgf s.dev (AOUT_EVT + n * 0x40) 15 8 + 1) ∧ rgb e (baseAud + 8) 21 = true ∧
      (audOut e n).buf = (if (audOut s.dev n).buf.length ≤ 2 then (audOut s.dev n).buf.take 1 ++ (audOut s.dev n).buf
        else (audOut s.dev n).buf.drop 1) ∧ (∀ k, k ≠ n → audOut e k = audOut s.dev k)) ∧
  (∀ s n, calm s.dev = true → (audOut s.dev n).run = false → Gives (.loopThroughSlip n) s (Same · s.dev))

end

/-! ### Faults (chapter 20) -/

section
open Sys2Proof Sys2Proof.Machine

/-- R456 to R459, R462: a report is logged, or coalesced, or LOST, and one of class D starts its grace timer; FLT_ACK cancels it; its expiry reacts; injection works in FACTORY only; the log is popped oldest first. Where the event cannot occur, the state stays (the model's choice, log 21). -/
def Obligations.FaultReports : Prop :=
  (∀ s c ch dt, srcClass c = some .c → s.dev.flt.log.length < 64 → (∀ e ∈ s.dev.flt.log, e.source ≠ c) → c ≠ srcLockstep →
    Undisturbed (faultReport (fresh s) c ch dt) →
    Gives (.faultReport c ch dt) s fun e => raisedBy e c = raisedBy s.dev c + 1 ∧ e.flt.nextSeq = s.dev.flt.nextSeq + 1 ∧
      e.flt.log.dropLast = s.dev.flt.log ∧
      e.flt.log.getLast?.map (fun x => (x.source, x.seq, x.count, x.cls, x.tFirst, x.tLast)) =
        some (c, s.dev.flt.nextSeq, 1, .c, s.dev.t, s.dev.t) ∧
      e.flt.log.getLast?.map (fun x => (bits x.detail 31 24, bits x.detail 23 0, x.lostBefore)) =
        some (ch % 256, dt % 2 ^ 24, s.dev.flt.lostBefore) ∧ e.flt.chans = s.dev.flt.chans ∧ e.gen = s.dev.gen ∧ rgb e (baseFlt + 8) 16 = true) ∧
  (∀ s c ch dt, srcClass c = some .c → 64 ≤ s.dev.flt.log.length → (∀ e ∈ s.dev.flt.log, e.source ≠ c) →
    Undisturbed (faultReport (fresh s) c ch dt) →
    Gives (.faultReport c ch dt) s fun e => e.flt.log = s.dev.flt.log ∧ e.flt.lostBefore = true ∧
      (fltSourceOf e c).lost = (fltSourceOf s.dev c).lost + 1 ∧ raisedBy e c = raisedBy s.dev c + 1 ∧ rgb e (baseFlt + 8) 17 = true) ∧
  (∀ s c ch dt, calm s.dev = true → srcClass c = none → Undisturbed (fresh s) → Gives (.faultReport c ch dt) s (Same · s.dev)) ∧
  (∀ s c ch dt, srcClass c = some .d → ch < 256 → s.dev.flt.reactions = [] → s.dev.flt.waiting = [] → s.dev.flt.chans = [] →
    Gives (.faultReport c ch dt) s fun e => (fltChanOf e c ch).latched = true ∧
      (fltChanOf e c ch).grace.map (fun g => (g.seq, g.deadline, g.detail)) =
        some (s.dev.flt.nextSeq, BitVec.ofNat 64 (s.dev.t.toNat + (policyOf s.dev).graceMs * ms), dt % 2 ^ 24) ∧ e.flt.reactions = [] ∧ e.gen = s.dev.gen) ∧
  (∀ s c ch g d, indIdle s.dev → (fltChanOf s.dev c ch).grace = some g → g.perm = false → c / 256 ≠ 13 → At s g.deadline.toNat d →
    calm d = true → (fltChanOf d c ch).grace = some g →
    Gives (.graceExpiry c ch) s fun e => (fltChanOf e c ch).grace = none ∧ (fltChanOf e c ch).backoff = true ∧
      (fltChanOf e c ch).retryTs.head? = some d.t ∧ e.gen = d.gen) ∧
  (∀ s c ch, calm s.dev = true → (fltChanOf s.dev c ch).grace = none → Gives (.graceExpiry c ch) s (Same · s.dev)) ∧
  (∀ s r v x g, calm s.dev = true → Served s.dev r FLT_ACK → s.dev.flt.chans = [x] → x.grace = some g → g.seq = v → s.dev.t.toNat < g.deadline.toNat →
    Gives (.fltAckWrite r v) s fun e => e.flt.chans = [{ x with grace := none }] ∧ (∀ y ∈ e.flt.log, y.seq = g.entrySeq → y.acked = true) ∧
      e.flt.reactions = s.dev.flt.reactions ∧ e.regs = s.dev.regs) ∧
  (∀ s r v, calm s.dev = true → Served s.dev r FLT_ACK → (∀ x ∈ s.dev.flt.chans, x.grace.all (fun g => (g.seq != v && g.entrySeq != v) || g.deadline.toNat ≤ s.dev.t.toNat) = true) →
    Gives (.fltAckWrite r v) s (Same · (statSet (answered s []) baseFlt 20))) ∧
  (∀ s c ch, calm s.dev = true → (fltChanOf s.dev c ch).backoff = false → Gives (.retryBackoffEnd c ch) s (Same · s.dev)) ∧
  (∀ s c ch t l d, indIdle s.dev → (fltChanOf s.dev c ch).backoff = true → (fltChanOf s.dev c ch).retryTs = t :: l → c = srcPtpCons →
    At s (t.toNat + min (2 ^ l.length) 1024 * ms) d → (fltChanOf d c ch).backoff = true → heldInReset d 15 ch = false → d.gen.rst = none →
    Gives (.retryBackoffEnd c ch) s fun e => (fltChanOf e c ch).backoff = false ∧
      e.gen.rst.map (fun x => (x.target, x.chan, x.cores, x.forced, x.startT)) = some (15, 0xFF, false, false, d.t)) ∧
  (∀ s, calm s.dev = true → runningPerm s.dev = none → Gives .reactionStepComplete s (Same · s.dev)) ∧
  (∀ s r d, indIdle s.dev → runningPerm s.dev = some r → r.step = 2 → At s s.dev.t.toNat d → runningPerm d = some r →
    d.flt.waiting = [] → r.ladder.testBit 2 = false → abdicateCause r.code = none → r.ladder.testBit 3 = false → calm d = true →
    Gives .reactionStepComplete s fun e => e.gen.mode = d.gen.mode ∧ e.tsc = d.tsc ∧ runningPerm e = (runningPerm
        { d with flt := { d.flt with reactions := d.flt.reactions.filter (fun x => !sameReaction x r) } }) ∧
      e.flt.reactions.head? = some { r with step := 4, ended := some d.t }) ∧
  (∀ s r d, indIdle s.dev → runningPerm s.dev = some r → r.step = 3 → r.ladder.testBit 3 = true →
    At s (r.stepT.toNat + 15 * ms) d → runningPerm d = some r → calm d = true → Gives .reactionStepComplete s (Restarted · d 5)) ∧
  (∀ s r v, calm s.dev = true → Served s.dev r FLT_INJ → s.dev.gen.mode ≠ .factory →
    Undisturbed (withWrite (fresh s) r FLT_INJ fun d => fltInj d v) →
    Gives (.fltInjWrite r v) s (Same · (answered s []))) ∧
  (∀ s r v, Served s.dev r FLT_INJ → s.dev.gen.mode = .factory → bit v 31 = true → bits v 29 28 = 0 →
    Undisturbed (withWrite (fresh s) r FLT_INJ fun d => fltInj d v) →
    Gives (.fltInjWrite r v) s fun e => raisedBy e (bits v 15 0) = raisedBy s.dev (bits v 15 0) + 1 ∧ e.gen = s.dev.gen) ∧
  (∀ s r x rest, calm s.dev = true → Served s.dev r FLT_ENT → s.dev.flt.log = x :: rest →
    Gives (.fltEnt0Read r) s fun e => e.flt = { s.dev.flt with log := rest } ∧ e.resp = ⟨.ok, (leWords (entryBytes x)).take 1⟩ ∧
      (∀ j, j < 8 → heldWord (reqOf e r) (FLT_ENT + 4 * j) = (leWords (entryBytes x)).getD j 0) ∧ e.regs = s.dev.regs) ∧
  (∀ s r v, calm s.dev = true → Served s.dev r FLT_SRC_SEL →
    Gives (.fltSrcSelWrite r v) s fun e => (∀ j, j < 9 → heldWord (reqOf e r) (FLT_SRC_DATA + 4 * j) =
        (srcData s.dev (bits v 15 0)).getD j 0) ∧ e.flt = s.dev.flt ∧ e.regs = s.dev.regs)

end

/-! ### The block as a whole -/

section
open Sys2Proof Sys2Proof.Machine

/-- A step runs the command at the front of the queue on the state with the queue's rest. The second clause, that no word spells a command, is the model's reading (log 1). -/
def Obligations.StepRunsTheFront : Prop :=
  (∀ (s : State) c rest, s.pending = c :: rest → step s = exec c { s with pending := rest }) ∧
  (∀ (s : State) nbits w, s.withFetchWord nbits w = s)

/-- Every step answers a next state, whatever is commanded and whatever the state; afterwards ports and twin link stand where their enables put them, and the pending block sources are those whose condition of Table 15.5 holds. On an empty queue the step is one TCLK (the model's choice, log 20). -/
def Obligations.EveryStepSettles : Prop :=
  ∀ s, ∃ t, step s = .next t ∧ settled t.dev = true

/-- The state after reset is settled, canonical and has no command waiting; the start is at its trim load, no scale is set and both ledgers stand at zero. The reset point and the values the spec does not state are the model's choice (logs 22 and 5). -/
def Obligations.AfterReset : Prop :=
  settled State.reset.dev = true ∧ State.reset.pending = [] ∧ State.reset.dev.canonical = true ∧
  State.reset.dev.gen.mode = .bringup ∧ State.reset.dev.start.phase = .trimLoad ∧ (∀ b, (scaleOf State.reset.dev b).setDone = false ∧ imbalance State.reset.dev b = 0)

end
end

