-- ==== Sys2Proof/Laws/Sparse.lean ====
section
/-! SUPPORT. The sparse stores: reading back what was written, leaving the other keys alone, and keeping the canonical form. -/
namespace Sys2Proof.Machine
open Sys2Proof

variable {β : Type}

theorem sparseGet_of_not_mem (dflt : Nat → β) (l : List (Nat × β)) (k : Nat) (h : ∀ e ∈ l, e.1 ≠ k) :
    sparseGet dflt l k = dflt k := by
  induction l with
  | nil => rfl
  | cons e r ih =>
    obtain ⟨a, x⟩ := e
    simp only [sparseGet]
    rw [if_neg (h (a, x) (by simp)), ih fun e he => h e (by simp [he])]

theorem sparseGet_filter_ne (dflt : Nat → β) (l : List (Nat × β)) (k j : Nat) (h : j ≠ k) :
    sparseGet dflt (l.filter (fun e => e.1 != k)) j = sparseGet dflt l j := by
  induction l with
  | nil => rfl
  | cons e r ih =>
    obtain ⟨a, x⟩ := e
    by_cases ha : a = k
    · subst ha; simp [sparseGet, ih, Ne.symm h]
    · simp [ha, sparseGet, ih]

theorem sparseGet_insert_ne (dflt : Nat → β) (l : List (Nat × β)) (k j : Nat) (v : β) (h : j ≠ k) :
    sparseGet dflt (sparseInsert l k v) j = sparseGet dflt l j := by
  induction l with
  | nil => simp [sparseInsert, sparseGet, Ne.symm h]
  | cons e r ih =>
    obtain ⟨a, x⟩ := e
    simp only [sparseInsert]
    split <;> simp [sparseGet, ih, Ne.symm h]

theorem sparseGet_insert_self (dflt : Nat → β) (l : List (Nat × β)) (k : Nat) (v : β) (h : ∀ e ∈ l, e.1 ≠ k) :
    sparseGet dflt (sparseInsert l k v) k = v := by
  induction l with
  | nil => simp [sparseInsert, sparseGet]
  | cons e r ih =>
    obtain ⟨a, x⟩ := e
    simp only [sparseInsert]
    split
    · simp only [sparseGet]
      rw [if_neg (h (a, x) (by simp)), ih fun e he => h e (by simp [he])]
    · simp [sparseGet]

/-- A read after a write to the same key gives the value written. -/
@[simp] theorem sparseGet_set_self [DecidableEq β] (dflt : Nat → β) (l : List (Nat × β)) (k : Nat) (v : β) :
    sparseGet dflt (sparseSet dflt l k v) k = v := by
  have hf : ∀ e ∈ l.filter (fun e => e.1 != k), e.1 ≠ k := by intro e he; simpa using (List.mem_filter.1 he).2
  simp only [sparseSet]
  split
  · next hv => rw [sparseGet_of_not_mem _ _ _ hf, hv]
  · exact sparseGet_insert_self _ _ _ _ hf

/-- A write leaves every other key alone. -/
theorem sparseGet_set_ne [DecidableEq β] (dflt : Nat → β) (l : List (Nat × β)) {k j : Nat} (v : β) (h : j ≠ k) :
    sparseGet dflt (sparseSet dflt l k v) j = sparseGet dflt l j := by
  simp only [sparseSet]
  split
  · exact sparseGet_filter_ne _ _ _ _ h
  · rw [sparseGet_insert_ne _ _ _ _ _ h, sparseGet_filter_ne _ _ _ _ h]

/-- The canonical form as two plain conditions. -/
theorem sparseWf_iff [DecidableEq β] (dflt : Nat → β) (l : List (Nat × β)) :
    sparseWf dflt l = true ↔ l.Pairwise (fun a b => a.1 < b.1) ∧ ∀ e ∈ l, e.2 ≠ dflt e.1 := by
  induction l with
  | nil => simp [sparseWf]
  | cons e r ih =>
    obtain ⟨a, x⟩ := e
    cases r with
    | nil => simp [sparseWf]
    | cons f t =>
      obtain ⟨b, y⟩ := f
      simp only [sparseWf, Bool.and_eq_true, decide_eq_true_eq, ih]
      constructor
      · rintro ⟨⟨hab, hx⟩, hp, hd⟩
        refine ⟨List.pairwise_cons.2 ⟨?_, hp⟩, ?_⟩
        · intro e he
          rcases List.mem_cons.1 he with rfl | he'
          · exact hab
          · exact Nat.lt_trans hab ((List.pairwise_cons.1 hp).1 e he')
        · intro e he
          rcases List.mem_cons.1 he with rfl | he'
          · exact hx
          · exact hd e he'
      · rintro ⟨hp, hd⟩
        have h1 := List.pairwise_cons.1 hp
        exact ⟨⟨h1.1 (b, y) (by simp), hd (a, x) (by simp)⟩, h1.2, fun e he => hd e (by simp [he])⟩

theorem mem_sparseInsert (l : List (Nat × β)) (k : Nat) (v : β) (e : Nat × β) :
    e ∈ sparseInsert l k v ↔ e = (k, v) ∨ e ∈ l := by
  induction l with
  | nil => simp [sparseInsert]
  | cons f r ih =>
    obtain ⟨a, x⟩ := f
    simp only [sparseInsert]
    split <;> simp [ih]
    tauto

theorem sparseInsert_pairwise (l : List (Nat × β)) (k : Nat) (v : β) (hp : l.Pairwise (fun a b => a.1 < b.1))
    (hk : ∀ e ∈ l, e.1 ≠ k) : (sparseInsert l k v).Pairwise (fun a b => a.1 < b.1) := by
  induction l with
  | nil => simp [sparseInsert]
  | cons f r ih =>
    obtain ⟨a, x⟩ := f
    have h1 := List.pairwise_cons.1 hp
    have hak : a ≠ k := hk (a, x) (by simp)
    simp only [sparseInsert]
    split
    · next hlt =>
      refine List.pairwise_cons.2 ⟨?_, ih h1.2 fun e he => hk e (by simp [he])⟩
      intro e he
      rcases (mem_sparseInsert _ _ _ _).1 he with rfl | he'
      · exact hlt
      · exact h1.1 e he'
    · next hge =>
      have hka : k < a := by omega
      refine List.pairwise_cons.2 ⟨?_, hp⟩
      intro e he
      rcases List.mem_cons.1 he with rfl | he'
      · exact hka
      · exact Nat.lt_trans hka (h1.1 e he')

/-- A write keeps the canonical form. -/
theorem sparseSet_wf [DecidableEq β] (dflt : Nat → β) (l : List (Nat × β)) (k : Nat) (v : β)
    (h : sparseWf dflt l = true) : sparseWf dflt (sparseSet dflt l k v) = true := by
  rw [sparseWf_iff] at h ⊢
  have hf : ∀ e ∈ l.filter (fun e => e.1 != k), e.1 ≠ k := by intro e he; simpa using (List.mem_filter.1 he).2
  have hp := h.1.filter (fun e => e.1 != k)
  have hd : ∀ e ∈ l.filter (fun e => e.1 != k), e.2 ≠ dflt e.1 := fun e he => h.2 e (List.mem_filter.1 he).1
  simp only [sparseSet]
  split
  · exact ⟨hp, hd⟩
  · next hv =>
    refine ⟨sparseInsert_pairwise _ _ _ hp hf, ?_⟩
    intro e he
    rcases (mem_sparseInsert _ _ _ _).1 he with rfl | he'
    · exact hv
    · exact hd e he'

/-- Dropping keys keeps the canonical form. -/
theorem sparseFilter_wf [DecidableEq β] (dflt : Nat → β) (l : List (Nat × β)) (p : Nat × β → Bool)
    (h : sparseWf dflt l = true) : sparseWf dflt (l.filter p) = true := by
  rw [sparseWf_iff] at h ⊢
  exact ⟨h.1.filter p, fun e he => h.2 e (List.mem_filter.1 he).1⟩

end Sys2Proof.Machine
end

