-- ==== Sys2Proof/Laws/State.lean ====
section
/-! SUPPORT. One lemma per field per update of the device: what a named update leaves alone. -/
namespace Sys2Proof.Machine
open Sys2Proof

variable (d : Dev)

@[simp] theorem setReg_eff (k : Nat) (w : Word) : (setReg d k w).eff = d.eff := rfl
@[simp] theorem setReg_staged (k : Nat) (w : Word) : (setReg d k w).staged = d.staged := rfl
@[simp] theorem setReg_pcie0 (k : Nat) (w : Word) : (setReg d k w).pcie0 = d.pcie0 := rfl
@[simp] theorem setReg_pcie1 (k : Nat) (w : Word) : (setReg d k w).pcie1 = d.pcie1 := rfl
@[simp] theorem setReg_cores (k : Nat) (w : Word) : (setReg d k w).cores = d.cores := rfl
@[simp] theorem setReg_mspi (k : Nat) (w : Word) : (setReg d k w).mspi = d.mspi := rfl
@[simp] theorem setReg_indWait (k : Nat) (w : Word) : (setReg d k w).indWait = d.indWait := rfl
@[simp] theorem setReg_stamps (k : Nat) (w : Word) : (setReg d k w).stamps = d.stamps := rfl
@[simp] theorem setReg_taken (k : Nat) (w : Word) : (setReg d k w).taken = d.taken := rfl
@[simp] theorem setReg_pinHold (k : Nat) (w : Word) : (setReg d k w).pinHold = d.pinHold := rfl
@[simp] theorem setReg_mspiErr (k : Nat) (w : Word) : (setReg d k w).mspiErr = d.mspiErr := rfl
@[simp] theorem setReg_resp (k : Nat) (w : Word) : (setReg d k w).resp = d.resp := rfl
@[simp] theorem setReg_out (k : Nat) (w : Word) : (setReg d k w).out = d.out := rfl
@[simp] theorem setReg_t (k : Nat) (w : Word) : (setReg d k w).t = d.t := rfl
@[simp] theorem setReg_bellCnt (k : Nat) (w : Word) : (setReg d k w).bellCnt = d.bellCnt := rfl
@[simp] theorem setReg_gen (k : Nat) (w : Word) : (setReg d k w).gen = d.gen := rfl
@[simp] theorem setReg_power (k : Nat) (w : Word) : (setReg d k w).power = d.power := rfl
@[simp] theorem setReg_start (k : Nat) (w : Word) : (setReg d k w).start = d.start := rfl
@[simp] theorem setReg_backup (k : Nat) (w : Word) : (setReg d k w).backup = d.backup := rfl
@[simp] theorem setReg_flt (k : Nat) (w : Word) : (setReg d k w).flt = d.flt := rfl
@[simp] theorem setReg_tal (k : Nat) (w : Word) : (setReg d k w).tal = d.tal := rfl
@[simp] theorem setReg_cht (k : Nat) (w : Word) : (setReg d k w).cht = d.cht := rfl
@[simp] theorem setReg_tsc (k : Nat) (w : Word) : (setReg d k w).tsc = d.tsc := rfl
@[simp] theorem setReg_sclA (k : Nat) (w : Word) : (setReg d k w).sclA = d.sclA := rfl
@[simp] theorem setReg_sclB (k : Nat) (w : Word) : (setReg d k w).sclB = d.sclB := rfl
@[simp] theorem setReg_refs (k : Nat) (w : Word) : (setReg d k w).refs = d.refs := rfl
@[simp] theorem setReg_sels (k : Nat) (w : Word) : (setReg d k w).sels = d.sels := rfl
@[simp] theorem setReg_stalls (k : Nat) (w : Word) : (setReg d k w).stalls = d.stalls := rfl
@[simp] theorem setReg_apls (k : Nat) (w : Word) : (setReg d k w).apls = d.apls := rfl
@[simp] theorem setReg_outs (k : Nat) (w : Word) : (setReg d k w).outs = d.outs := rfl
@[simp] theorem setReg_pulses (k : Nat) (w : Word) : (setReg d k w).pulses = d.pulses := rfl
@[simp] theorem setReg_grids (k : Nat) (w : Word) : (setReg d k w).grids = d.grids := rfl
@[simp] theorem setReg_trigs (k : Nat) (w : Word) : (setReg d k w).trigs = d.trigs := rfl
@[simp] theorem setReg_tdc (k : Nat) (w : Word) : (setReg d k w).tdc = d.tdc := rfl
@[simp] theorem setReg_gns (k : Nat) (w : Word) : (setReg d k w).gns = d.gns := rfl
@[simp] theorem setReg_ports (k : Nat) (w : Word) : (setReg d k w).ports = d.ports := rfl
@[simp] theorem setReg_tol (k : Nat) (w : Word) : (setReg d k w).tol = d.tol := rfl
@[simp] theorem setReg_ptp (k : Nat) (w : Word) : (setReg d k w).ptp = d.ptp := rfl
@[simp] theorem setReg_qmg (k : Nat) (w : Word) : (setReg d k w).qmg = d.qmg := rfl
@[simp] theorem setReg_key (k : Nat) (w : Word) : (setReg d k w).key = d.key := rfl
@[simp] theorem setReg_aud (k : Nat) (w : Word) : (setReg d k w).aud = d.aud := rfl
@[simp] theorem setReg_twn (k : Nat) (w : Word) : (setReg d k w).twn = d.twn := rfl
@[simp] theorem setReg_hal (k : Nat) (w : Word) : (setReg d k w).hal = d.hal := rfl
@[simp] theorem setReg_jtag (k : Nat) (w : Word) : (setReg d k w).jtag = d.jtag := rfl
@[simp] theorem setReg_gnsStore (k : Nat) (w : Word) : (setReg d k w).gnsStore = d.gnsStore := rfl
@[simp] theorem setReg_nv (k : Nat) (w : Word) : (setReg d k w).nv = d.nv := rfl
@[simp] theorem setReg_freeIdx (k : Nat) (w : Word) : (setReg d k w).freeIdx = d.freeIdx := rfl

@[simp] theorem setEff_regs (k : Nat) (w : Word) : (setEff d k w).regs = d.regs := rfl
@[simp] theorem setEff_staged (k : Nat) (w : Word) : (setEff d k w).staged = d.staged := rfl
@[simp] theorem setEff_pcie0 (k : Nat) (w : Word) : (setEff d k w).pcie0 = d.pcie0 := rfl
@[simp] theorem setEff_pcie1 (k : Nat) (w : Word) : (setEff d k w).pcie1 = d.pcie1 := rfl
@[simp] theorem setEff_cores (k : Nat) (w : Word) : (setEff d k w).cores = d.cores := rfl
@[simp] theorem setEff_mspi (k : Nat) (w : Word) : (setEff d k w).mspi = d.mspi := rfl
@[simp] theorem setEff_indWait (k : Nat) (w : Word) : (setEff d k w).indWait = d.indWait := rfl
@[simp] theorem setEff_stamps (k : Nat) (w : Word) : (setEff d k w).stamps = d.stamps := rfl
@[simp] theorem setEff_taken (k : Nat) (w : Word) : (setEff d k w).taken = d.taken := rfl
@[simp] theorem setEff_pinHold (k : Nat) (w : Word) : (setEff d k w).pinHold = d.pinHold := rfl
@[simp] theorem setEff_mspiErr (k : Nat) (w : Word) : (setEff d k w).mspiErr = d.mspiErr := rfl
@[simp] theorem setEff_resp (k : Nat) (w : Word) : (setEff d k w).resp = d.resp := rfl
@[simp] theorem setEff_out (k : Nat) (w : Word) : (setEff d k w).out = d.out := rfl
@[simp] theorem setEff_t (k : Nat) (w : Word) : (setEff d k w).t = d.t := rfl
@[simp] theorem setEff_bellCnt (k : Nat) (w : Word) : (setEff d k w).bellCnt = d.bellCnt := rfl
@[simp] theorem setEff_gen (k : Nat) (w : Word) : (setEff d k w).gen = d.gen := rfl
@[simp] theorem setEff_power (k : Nat) (w : Word) : (setEff d k w).power = d.power := rfl
@[simp] theorem setEff_start (k : Nat) (w : Word) : (setEff d k w).start = d.start := rfl
@[simp] theorem setEff_backup (k : Nat) (w : Word) : (setEff d k w).backup = d.backup := rfl
@[simp] theorem setEff_flt (k : Nat) (w : Word) : (setEff d k w).flt = d.flt := rfl
@[simp] theorem setEff_tal (k : Nat) (w : Word) : (setEff d k w).tal = d.tal := rfl
@[simp] theorem setEff_cht (k : Nat) (w : Word) : (setEff d k w).cht = d.cht := rfl
@[simp] theorem setEff_tsc (k : Nat) (w : Word) : (setEff d k w).tsc = d.tsc := rfl
@[simp] theorem setEff_sclA (k : Nat) (w : Word) : (setEff d k w).sclA = d.sclA := rfl
@[simp] theorem setEff_sclB (k : Nat) (w : Word) : (setEff d k w).sclB = d.sclB := rfl
@[simp] theorem setEff_refs (k : Nat) (w : Word) : (setEff d k w).refs = d.refs := rfl
@[simp] theorem setEff_sels (k : Nat) (w : Word) : (setEff d k w).sels = d.sels := rfl
@[simp] theorem setEff_stalls (k : Nat) (w : Word) : (setEff d k w).stalls = d.stalls := rfl
@[simp] theorem setEff_apls (k : Nat) (w : Word) : (setEff d k w).apls = d.apls := rfl
@[simp] theorem setEff_outs (k : Nat) (w : Word) : (setEff d k w).outs = d.outs := rfl
@[simp] theorem setEff_pulses (k : Nat) (w : Word) : (setEff d k w).pulses = d.pulses := rfl
@[simp] theorem setEff_grids (k : Nat) (w : Word) : (setEff d k w).grids = d.grids := rfl
@[simp] theorem setEff_trigs (k : Nat) (w : Word) : (setEff d k w).trigs = d.trigs := rfl
@[simp] theorem setEff_tdc (k : Nat) (w : Word) : (setEff d k w).tdc = d.tdc := rfl
@[simp] theorem setEff_gns (k : Nat) (w : Word) : (setEff d k w).gns = d.gns := rfl
@[simp] theorem setEff_ports (k : Nat) (w : Word) : (setEff d k w).ports = d.ports := rfl
@[simp] theorem setEff_tol (k : Nat) (w : Word) : (setEff d k w).tol = d.tol := rfl
@[simp] theorem setEff_ptp (k : Nat) (w : Word) : (setEff d k w).ptp = d.ptp := rfl
@[simp] theorem setEff_qmg (k : Nat) (w : Word) : (setEff d k w).qmg = d.qmg := rfl
@[simp] theorem setEff_key (k : Nat) (w : Word) : (setEff d k w).key = d.key := rfl
@[simp] theorem setEff_aud (k : Nat) (w : Word) : (setEff d k w).aud = d.aud := rfl
@[simp] theorem setEff_twn (k : Nat) (w : Word) : (setEff d k w).twn = d.twn := rfl
@[simp] theorem setEff_hal (k : Nat) (w : Word) : (setEff d k w).hal = d.hal := rfl
@[simp] theorem setEff_jtag (k : Nat) (w : Word) : (setEff d k w).jtag = d.jtag := rfl
@[simp] theorem setEff_gnsStore (k : Nat) (w : Word) : (setEff d k w).gnsStore = d.gnsStore := rfl
@[simp] theorem setEff_nv (k : Nat) (w : Word) : (setEff d k w).nv = d.nv := rfl
@[simp] theorem setEff_freeIdx (k : Nat) (w : Word) : (setEff d k w).freeIdx = d.freeIdx := rfl

@[simp] theorem setBoth_staged (k : Nat) (w : Word) : (setBoth d k w).staged = d.staged := rfl
@[simp] theorem setBoth_pcie0 (k : Nat) (w : Word) : (setBoth d k w).pcie0 = d.pcie0 := rfl
@[simp] theorem setBoth_pcie1 (k : Nat) (w : Word) : (setBoth d k w).pcie1 = d.pcie1 := rfl
@[simp] theorem setBoth_cores (k : Nat) (w : Word) : (setBoth d k w).cores = d.cores := rfl
@[simp] theorem setBoth_mspi (k : Nat) (w : Word) : (setBoth d k w).mspi = d.mspi := rfl
@[simp] theorem setBoth_indWait (k : Nat) (w : Word) : (setBoth d k w).indWait = d.indWait := rfl
@[simp] theorem setBoth_stamps (k : Nat) (w : Word) : (setBoth d k w).stamps = d.stamps := rfl
@[simp] theorem setBoth_taken (k : Nat) (w : Word) : (setBoth d k w).taken = d.taken := rfl
@[simp] theorem setBoth_pinHold (k : Nat) (w : Word) : (setBoth d k w).pinHold = d.pinHold := rfl
@[simp] theorem setBoth_mspiErr (k : Nat) (w : Word) : (setBoth d k w).mspiErr = d.mspiErr := rfl
@[simp] theorem setBoth_resp (k : Nat) (w : Word) : (setBoth d k w).resp = d.resp := rfl
@[simp] theorem setBoth_out (k : Nat) (w : Word) : (setBoth d k w).out = d.out := rfl
@[simp] theorem setBoth_t (k : Nat) (w : Word) : (setBoth d k w).t = d.t := rfl
@[simp] theorem setBoth_bellCnt (k : Nat) (w : Word) : (setBoth d k w).bellCnt = d.bellCnt := rfl
@[simp] theorem setBoth_gen (k : Nat) (w : Word) : (setBoth d k w).gen = d.gen := rfl
@[simp] theorem setBoth_power (k : Nat) (w : Word) : (setBoth d k w).power = d.power := rfl
@[simp] theorem setBoth_start (k : Nat) (w : Word) : (setBoth d k w).start = d.start := rfl
@[simp] theorem setBoth_backup (k : Nat) (w : Word) : (setBoth d k w).backup = d.backup := rfl
@[simp] theorem setBoth_flt (k : Nat) (w : Word) : (setBoth d k w).flt = d.flt := rfl
@[simp] theorem setBoth_tal (k : Nat) (w : Word) : (setBoth d k w).tal = d.tal := rfl
@[simp] theorem setBoth_cht (k : Nat) (w : Word) : (setBoth d k w).cht = d.cht := rfl
@[simp] theorem setBoth_tsc (k : Nat) (w : Word) : (setBoth d k w).tsc = d.tsc := rfl
@[simp] theorem setBoth_sclA (k : Nat) (w : Word) : (setBoth d k w).sclA = d.sclA := rfl
@[simp] theorem setBoth_sclB (k : Nat) (w : Word) : (setBoth d k w).sclB = d.sclB := rfl
@[simp] theorem setBoth_refs (k : Nat) (w : Word) : (setBoth d k w).refs = d.refs := rfl
@[simp] theorem setBoth_sels (k : Nat) (w : Word) : (setBoth d k w).sels = d.sels := rfl
@[simp] theorem setBoth_stalls (k : Nat) (w : Word) : (setBoth d k w).stalls = d.stalls := rfl
@[simp] theorem setBoth_apls (k : Nat) (w : Word) : (setBoth d k w).apls = d.apls := rfl
@[simp] theorem setBoth_outs (k : Nat) (w : Word) : (setBoth d k w).outs = d.outs := rfl
@[simp] theorem setBoth_pulses (k : Nat) (w : Word) : (setBoth d k w).pulses = d.pulses := rfl
@[simp] theorem setBoth_grids (k : Nat) (w : Word) : (setBoth d k w).grids = d.grids := rfl
@[simp] theorem setBoth_trigs (k : Nat) (w : Word) : (setBoth d k w).trigs = d.trigs := rfl
@[simp] theorem setBoth_tdc (k : Nat) (w : Word) : (setBoth d k w).tdc = d.tdc := rfl
@[simp] theorem setBoth_gns (k : Nat) (w : Word) : (setBoth d k w).gns = d.gns := rfl
@[simp] theorem setBoth_ports (k : Nat) (w : Word) : (setBoth d k w).ports = d.ports := rfl
@[simp] theorem setBoth_tol (k : Nat) (w : Word) : (setBoth d k w).tol = d.tol := rfl
@[simp] theorem setBoth_ptp (k : Nat) (w : Word) : (setBoth d k w).ptp = d.ptp := rfl
@[simp] theorem setBoth_qmg (k : Nat) (w : Word) : (setBoth d k w).qmg = d.qmg := rfl
@[simp] theorem setBoth_key (k : Nat) (w : Word) : (setBoth d k w).key = d.key := rfl
@[simp] theorem setBoth_aud (k : Nat) (w : Word) : (setBoth d k w).aud = d.aud := rfl
@[simp] theorem setBoth_twn (k : Nat) (w : Word) : (setBoth d k w).twn = d.twn := rfl
@[simp] theorem setBoth_hal (k : Nat) (w : Word) : (setBoth d k w).hal = d.hal := rfl
@[simp] theorem setBoth_jtag (k : Nat) (w : Word) : (setBoth d k w).jtag = d.jtag := rfl
@[simp] theorem setBoth_gnsStore (k : Nat) (w : Word) : (setBoth d k w).gnsStore = d.gnsStore := rfl
@[simp] theorem setBoth_nv (k : Nat) (w : Word) : (setBoth d k w).nv = d.nv := rfl
@[simp] theorem setBoth_freeIdx (k : Nat) (w : Word) : (setBoth d k w).freeIdx = d.freeIdx := rfl

@[simp] theorem setEn_eff (k : Nat) (v : Bool) : (setEn d k v).eff = d.eff := rfl
@[simp] theorem setEn_staged (k : Nat) (v : Bool) : (setEn d k v).staged = d.staged := rfl
@[simp] theorem setEn_pcie0 (k : Nat) (v : Bool) : (setEn d k v).pcie0 = d.pcie0 := rfl
@[simp] theorem setEn_pcie1 (k : Nat) (v : Bool) : (setEn d k v).pcie1 = d.pcie1 := rfl
@[simp] theorem setEn_cores (k : Nat) (v : Bool) : (setEn d k v).cores = d.cores := rfl
@[simp] theorem setEn_mspi (k : Nat) (v : Bool) : (setEn d k v).mspi = d.mspi := rfl
@[simp] theorem setEn_indWait (k : Nat) (v : Bool) : (setEn d k v).indWait = d.indWait := rfl
@[simp] theorem setEn_stamps (k : Nat) (v : Bool) : (setEn d k v).stamps = d.stamps := rfl
@[simp] theorem setEn_taken (k : Nat) (v : Bool) : (setEn d k v).taken = d.taken := rfl
@[simp] theorem setEn_pinHold (k : Nat) (v : Bool) : (setEn d k v).pinHold = d.pinHold := rfl
@[simp] theorem setEn_mspiErr (k : Nat) (v : Bool) : (setEn d k v).mspiErr = d.mspiErr := rfl
@[simp] theorem setEn_resp (k : Nat) (v : Bool) : (setEn d k v).resp = d.resp := rfl
@[simp] theorem setEn_out (k : Nat) (v : Bool) : (setEn d k v).out = d.out := rfl
@[simp] theorem setEn_t (k : Nat) (v : Bool) : (setEn d k v).t = d.t := rfl
@[simp] theorem setEn_bellCnt (k : Nat) (v : Bool) : (setEn d k v).bellCnt = d.bellCnt := rfl
@[simp] theorem setEn_gen (k : Nat) (v : Bool) : (setEn d k v).gen = d.gen := rfl
@[simp] theorem setEn_power (k : Nat) (v : Bool) : (setEn d k v).power = d.power := rfl
@[simp] theorem setEn_start (k : Nat) (v : Bool) : (setEn d k v).start = d.start := rfl
@[simp] theorem setEn_backup (k : Nat) (v : Bool) : (setEn d k v).backup = d.backup := rfl
@[simp] theorem setEn_flt (k : Nat) (v : Bool) : (setEn d k v).flt = d.flt := rfl
@[simp] theorem setEn_tal (k : Nat) (v : Bool) : (setEn d k v).tal = d.tal := rfl
@[simp] theorem setEn_cht (k : Nat) (v : Bool) : (setEn d k v).cht = d.cht := rfl
@[simp] theorem setEn_tsc (k : Nat) (v : Bool) : (setEn d k v).tsc = d.tsc := rfl
@[simp] theorem setEn_sclA (k : Nat) (v : Bool) : (setEn d k v).sclA = d.sclA := rfl
@[simp] theorem setEn_sclB (k : Nat) (v : Bool) : (setEn d k v).sclB = d.sclB := rfl
@[simp] theorem setEn_refs (k : Nat) (v : Bool) : (setEn d k v).refs = d.refs := rfl
@[simp] theorem setEn_sels (k : Nat) (v : Bool) : (setEn d k v).sels = d.sels := rfl
@[simp] theorem setEn_stalls (k : Nat) (v : Bool) : (setEn d k v).stalls = d.stalls := rfl
@[simp] theorem setEn_apls (k : Nat) (v : Bool) : (setEn d k v).apls = d.apls := rfl
@[simp] theorem setEn_outs (k : Nat) (v : Bool) : (setEn d k v).outs = d.outs := rfl
@[simp] theorem setEn_pulses (k : Nat) (v : Bool) : (setEn d k v).pulses = d.pulses := rfl
@[simp] theorem setEn_grids (k : Nat) (v : Bool) : (setEn d k v).grids = d.grids := rfl
@[simp] theorem setEn_trigs (k : Nat) (v : Bool) : (setEn d k v).trigs = d.trigs := rfl
@[simp] theorem setEn_tdc (k : Nat) (v : Bool) : (setEn d k v).tdc = d.tdc := rfl
@[simp] theorem setEn_gns (k : Nat) (v : Bool) : (setEn d k v).gns = d.gns := rfl
@[simp] theorem setEn_ports (k : Nat) (v : Bool) : (setEn d k v).ports = d.ports := rfl
@[simp] theorem setEn_tol (k : Nat) (v : Bool) : (setEn d k v).tol = d.tol := rfl
@[simp] theorem setEn_ptp (k : Nat) (v : Bool) : (setEn d k v).ptp = d.ptp := rfl
@[simp] theorem setEn_qmg (k : Nat) (v : Bool) : (setEn d k v).qmg = d.qmg := rfl
@[simp] theorem setEn_key (k : Nat) (v : Bool) : (setEn d k v).key = d.key := rfl
@[simp] theorem setEn_aud (k : Nat) (v : Bool) : (setEn d k v).aud = d.aud := rfl
@[simp] theorem setEn_twn (k : Nat) (v : Bool) : (setEn d k v).twn = d.twn := rfl
@[simp] theorem setEn_hal (k : Nat) (v : Bool) : (setEn d k v).hal = d.hal := rfl
@[simp] theorem setEn_jtag (k : Nat) (v : Bool) : (setEn d k v).jtag = d.jtag := rfl
@[simp] theorem setEn_gnsStore (k : Nat) (v : Bool) : (setEn d k v).gnsStore = d.gnsStore := rfl
@[simp] theorem setEn_nv (k : Nat) (v : Bool) : (setEn d k v).nv = d.nv := rfl
@[simp] theorem setEn_freeIdx (k : Nat) (v : Bool) : (setEn d k v).freeIdx = d.freeIdx := rfl

@[simp] theorem statSet_eff (k b : Nat) : (statSet d k b).eff = d.eff := rfl
@[simp] theorem statSet_staged (k b : Nat) : (statSet d k b).staged = d.staged := rfl
@[simp] theorem statSet_pcie0 (k b : Nat) : (statSet d k b).pcie0 = d.pcie0 := rfl
@[simp] theorem statSet_pcie1 (k b : Nat) : (statSet d k b).pcie1 = d.pcie1 := rfl
@[simp] theorem statSet_cores (k b : Nat) : (statSet d k b).cores = d.cores := rfl
@[simp] theorem statSet_mspi (k b : Nat) : (statSet d k b).mspi = d.mspi := rfl
@[simp] theorem statSet_indWait (k b : Nat) : (statSet d k b).indWait = d.indWait := rfl
@[simp] theorem statSet_stamps (k b : Nat) : (statSet d k b).stamps = d.stamps := rfl
@[simp] theorem statSet_taken (k b : Nat) : (statSet d k b).taken = d.taken := rfl
@[simp] theorem statSet_pinHold (k b : Nat) : (statSet d k b).pinHold = d.pinHold := rfl
@[simp] theorem statSet_mspiErr (k b : Nat) : (statSet d k b).mspiErr = d.mspiErr := rfl
@[simp] theorem statSet_resp (k b : Nat) : (statSet d k b).resp = d.resp := rfl
@[simp] theorem statSet_out (k b : Nat) : (statSet d k b).out = d.out := rfl
@[simp] theorem statSet_t (k b : Nat) : (statSet d k b).t = d.t := rfl
@[simp] theorem statSet_bellCnt (k b : Nat) : (statSet d k b).bellCnt = d.bellCnt := rfl
@[simp] theorem statSet_gen (k b : Nat) : (statSet d k b).gen = d.gen := rfl
@[simp] theorem statSet_power (k b : Nat) : (statSet d k b).power = d.power := rfl
@[simp] theorem statSet_start (k b : Nat) : (statSet d k b).start = d.start := rfl
@[simp] theorem statSet_backup (k b : Nat) : (statSet d k b).backup = d.backup := rfl
@[simp] theorem statSet_flt (k b : Nat) : (statSet d k b).flt = d.flt := rfl
@[simp] theorem statSet_tal (k b : Nat) : (statSet d k b).tal = d.tal := rfl
@[simp] theorem statSet_cht (k b : Nat) : (statSet d k b).cht = d.cht := rfl
@[simp] theorem statSet_tsc (k b : Nat) : (statSet d k b).tsc = d.tsc := rfl
@[simp] theorem statSet_sclA (k b : Nat) : (statSet d k b).sclA = d.sclA := rfl
@[simp] theorem statSet_sclB (k b : Nat) : (statSet d k b).sclB = d.sclB := rfl
@[simp] theorem statSet_refs (k b : Nat) : (statSet d k b).refs = d.refs := rfl
@[simp] theorem statSet_sels (k b : Nat) : (statSet d k b).sels = d.sels := rfl
@[simp] theorem statSet_stalls (k b : Nat) : (statSet d k b).stalls = d.stalls := rfl
@[simp] theorem statSet_apls (k b : Nat) : (statSet d k b).apls = d.apls := rfl
@[simp] theorem statSet_outs (k b : Nat) : (statSet d k b).outs = d.outs := rfl
@[simp] theorem statSet_pulses (k b : Nat) : (statSet d k b).pulses = d.pulses := rfl
@[simp] theorem statSet_grids (k b : Nat) : (statSet d k b).grids = d.grids := rfl
@[simp] theorem statSet_trigs (k b : Nat) : (statSet d k b).trigs = d.trigs := rfl
@[simp] theorem statSet_tdc (k b : Nat) : (statSet d k b).tdc = d.tdc := rfl
@[simp] theorem statSet_gns (k b : Nat) : (statSet d k b).gns = d.gns := rfl
@[simp] theorem statSet_ports (k b : Nat) : (statSet d k b).ports = d.ports := rfl
@[simp] theorem statSet_tol (k b : Nat) : (statSet d k b).tol = d.tol := rfl
@[simp] theorem statSet_ptp (k b : Nat) : (statSet d k b).ptp = d.ptp := rfl
@[simp] theorem statSet_qmg (k b : Nat) : (statSet d k b).qmg = d.qmg := rfl
@[simp] theorem statSet_key (k b : Nat) : (statSet d k b).key = d.key := rfl
@[simp] theorem statSet_aud (k b : Nat) : (statSet d k b).aud = d.aud := rfl
@[simp] theorem statSet_twn (k b : Nat) : (statSet d k b).twn = d.twn := rfl
@[simp] theorem statSet_hal (k b : Nat) : (statSet d k b).hal = d.hal := rfl
@[simp] theorem statSet_jtag (k b : Nat) : (statSet d k b).jtag = d.jtag := rfl
@[simp] theorem statSet_gnsStore (k b : Nat) : (statSet d k b).gnsStore = d.gnsStore := rfl
@[simp] theorem statSet_nv (k b : Nat) : (statSet d k b).nv = d.nv := rfl
@[simp] theorem statSet_freeIdx (k b : Nat) : (statSet d k b).freeIdx = d.freeIdx := rfl

@[simp] theorem countUp_eff (k a b n : Nat) : (countUp d k a b n).eff = d.eff := rfl
@[simp] theorem countUp_staged (k a b n : Nat) : (countUp d k a b n).staged = d.staged := rfl
@[simp] theorem countUp_pcie0 (k a b n : Nat) : (countUp d k a b n).pcie0 = d.pcie0 := rfl
@[simp] theorem countUp_pcie1 (k a b n : Nat) : (countUp d k a b n).pcie1 = d.pcie1 := rfl
@[simp] theorem countUp_cores (k a b n : Nat) : (countUp d k a b n).cores = d.cores := rfl
@[simp] theorem countUp_mspi (k a b n : Nat) : (countUp d k a b n).mspi = d.mspi := rfl
@[simp] theorem countUp_indWait (k a b n : Nat) : (countUp d k a b n).indWait = d.indWait := rfl
@[simp] theorem countUp_stamps (k a b n : Nat) : (countUp d k a b n).stamps = d.stamps := rfl
@[simp] theorem countUp_taken (k a b n : Nat) : (countUp d k a b n).taken = d.taken := rfl
@[simp] theorem countUp_pinHold (k a b n : Nat) : (countUp d k a b n).pinHold = d.pinHold := rfl
@[simp] theorem countUp_mspiErr (k a b n : Nat) : (countUp d k a b n).mspiErr = d.mspiErr := rfl
@[simp] theorem countUp_resp (k a b n : Nat) : (countUp d k a b n).resp = d.resp := rfl
@[simp] theorem countUp_out (k a b n : Nat) : (countUp d k a b n).out = d.out := rfl
@[simp] theorem countUp_t (k a b n : Nat) : (countUp d k a b n).t = d.t := rfl
@[simp] theorem countUp_bellCnt (k a b n : Nat) : (countUp d k a b n).bellCnt = d.bellCnt := rfl
@[simp] theorem countUp_gen (k a b n : Nat) : (countUp d k a b n).gen = d.gen := rfl
@[simp] theorem countUp_power (k a b n : Nat) : (countUp d k a b n).power = d.power := rfl
@[simp] theorem countUp_start (k a b n : Nat) : (countUp d k a b n).start = d.start := rfl
@[simp] theorem countUp_backup (k a b n : Nat) : (countUp d k a b n).backup = d.backup := rfl
@[simp] theorem countUp_flt (k a b n : Nat) : (countUp d k a b n).flt = d.flt := rfl
@[simp] theorem countUp_tal (k a b n : Nat) : (countUp d k a b n).tal = d.tal := rfl
@[simp] theorem countUp_cht (k a b n : Nat) : (countUp d k a b n).cht = d.cht := rfl
@[simp] theorem countUp_tsc (k a b n : Nat) : (countUp d k a b n).tsc = d.tsc := rfl
@[simp] theorem countUp_sclA (k a b n : Nat) : (countUp d k a b n).sclA = d.sclA := rfl
@[simp] theorem countUp_sclB (k a b n : Nat) : (countUp d k a b n).sclB = d.sclB := rfl
@[simp] theorem countUp_refs (k a b n : Nat) : (countUp d k a b n).refs = d.refs := rfl
@[simp] theorem countUp_sels (k a b n : Nat) : (countUp d k a b n).sels = d.sels := rfl
@[simp] theorem countUp_stalls (k a b n : Nat) : (countUp d k a b n).stalls = d.stalls := rfl
@[simp] theorem countUp_apls (k a b n : Nat) : (countUp d k a b n).apls = d.apls := rfl
@[simp] theorem countUp_outs (k a b n : Nat) : (countUp d k a b n).outs = d.outs := rfl
@[simp] theorem countUp_pulses (k a b n : Nat) : (countUp d k a b n).pulses = d.pulses := rfl
@[simp] theorem countUp_grids (k a b n : Nat) : (countUp d k a b n).grids = d.grids := rfl
@[simp] theorem countUp_trigs (k a b n : Nat) : (countUp d k a b n).trigs = d.trigs := rfl
@[simp] theorem countUp_tdc (k a b n : Nat) : (countUp d k a b n).tdc = d.tdc := rfl
@[simp] theorem countUp_gns (k a b n : Nat) : (countUp d k a b n).gns = d.gns := rfl
@[simp] theorem countUp_ports (k a b n : Nat) : (countUp d k a b n).ports = d.ports := rfl
@[simp] theorem countUp_tol (k a b n : Nat) : (countUp d k a b n).tol = d.tol := rfl
@[simp] theorem countUp_ptp (k a b n : Nat) : (countUp d k a b n).ptp = d.ptp := rfl
@[simp] theorem countUp_qmg (k a b n : Nat) : (countUp d k a b n).qmg = d.qmg := rfl
@[simp] theorem countUp_key (k a b n : Nat) : (countUp d k a b n).key = d.key := rfl
@[simp] theorem countUp_aud (k a b n : Nat) : (countUp d k a b n).aud = d.aud := rfl
@[simp] theorem countUp_twn (k a b n : Nat) : (countUp d k a b n).twn = d.twn := rfl
@[simp] theorem countUp_hal (k a b n : Nat) : (countUp d k a b n).hal = d.hal := rfl
@[simp] theorem countUp_jtag (k a b n : Nat) : (countUp d k a b n).jtag = d.jtag := rfl
@[simp] theorem countUp_gnsStore (k a b n : Nat) : (countUp d k a b n).gnsStore = d.gnsStore := rfl
@[simp] theorem countUp_nv (k a b n : Nat) : (countUp d k a b n).nv = d.nv := rfl
@[simp] theorem countUp_freeIdx (k a b n : Nat) : (countUp d k a b n).freeIdx = d.freeIdx := rfl

@[simp] theorem putField_eff (k a b n : Nat) : (putField d k a b n).eff = d.eff := rfl
@[simp] theorem putField_staged (k a b n : Nat) : (putField d k a b n).staged = d.staged := rfl
@[simp] theorem putField_pcie0 (k a b n : Nat) : (putField d k a b n).pcie0 = d.pcie0 := rfl
@[simp] theorem putField_pcie1 (k a b n : Nat) : (putField d k a b n).pcie1 = d.pcie1 := rfl
@[simp] theorem putField_cores (k a b n : Nat) : (putField d k a b n).cores = d.cores := rfl
@[simp] theorem putField_mspi (k a b n : Nat) : (putField d k a b n).mspi = d.mspi := rfl
@[simp] theorem putField_indWait (k a b n : Nat) : (putField d k a b n).indWait = d.indWait := rfl
@[simp] theorem putField_stamps (k a b n : Nat) : (putField d k a b n).stamps = d.stamps := rfl
@[simp] theorem putField_taken (k a b n : Nat) : (putField d k a b n).taken = d.taken := rfl
@[simp] theorem putField_pinHold (k a b n : Nat) : (putField d k a b n).pinHold = d.pinHold := rfl
@[simp] theorem putField_mspiErr (k a b n : Nat) : (putField d k a b n).mspiErr = d.mspiErr := rfl
@[simp] theorem putField_resp (k a b n : Nat) : (putField d k a b n).resp = d.resp := rfl
@[simp] theorem putField_out (k a b n : Nat) : (putField d k a b n).out = d.out := rfl
@[simp] theorem putField_t (k a b n : Nat) : (putField d k a b n).t = d.t := rfl
@[simp] theorem putField_bellCnt (k a b n : Nat) : (putField d k a b n).bellCnt = d.bellCnt := rfl
@[simp] theorem putField_gen (k a b n : Nat) : (putField d k a b n).gen = d.gen := rfl
@[simp] theorem putField_power (k a b n : Nat) : (putField d k a b n).power = d.power := rfl
@[simp] theorem putField_start (k a b n : Nat) : (putField d k a b n).start = d.start := rfl
@[simp] theorem putField_backup (k a b n : Nat) : (putField d k a b n).backup = d.backup := rfl
@[simp] theorem putField_flt (k a b n : Nat) : (putField d k a b n).flt = d.flt := rfl
@[simp] theorem putField_tal (k a b n : Nat) : (putField d k a b n).tal = d.tal := rfl
@[simp] theorem putField_cht (k a b n : Nat) : (putField d k a b n).cht = d.cht := rfl
@[simp] theorem putField_tsc (k a b n : Nat) : (putField d k a b n).tsc = d.tsc := rfl
@[simp] theorem putField_sclA (k a b n : Nat) : (putField d k a b n).sclA = d.sclA := rfl
@[simp] theorem putField_sclB (k a b n : Nat) : (putField d k a b n).sclB = d.sclB := rfl
@[simp] theorem putField_refs (k a b n : Nat) : (putField d k a b n).refs = d.refs := rfl
@[simp] theorem putField_sels (k a b n : Nat) : (putField d k a b n).sels = d.sels := rfl
@[simp] theorem putField_stalls (k a b n : Nat) : (putField d k a b n).stalls = d.stalls := rfl
@[simp] theorem putField_apls (k a b n : Nat) : (putField d k a b n).apls = d.apls := rfl
@[simp] theorem putField_outs (k a b n : Nat) : (putField d k a b n).outs = d.outs := rfl
@[simp] theorem putField_pulses (k a b n : Nat) : (putField d k a b n).pulses = d.pulses := rfl
@[simp] theorem putField_grids (k a b n : Nat) : (putField d k a b n).grids = d.grids := rfl
@[simp] theorem putField_trigs (k a b n : Nat) : (putField d k a b n).trigs = d.trigs := rfl
@[simp] theorem putField_tdc (k a b n : Nat) : (putField d k a b n).tdc = d.tdc := rfl
@[simp] theorem putField_gns (k a b n : Nat) : (putField d k a b n).gns = d.gns := rfl
@[simp] theorem putField_ports (k a b n : Nat) : (putField d k a b n).ports = d.ports := rfl
@[simp] theorem putField_tol (k a b n : Nat) : (putField d k a b n).tol = d.tol := rfl
@[simp] theorem putField_ptp (k a b n : Nat) : (putField d k a b n).ptp = d.ptp := rfl
@[simp] theorem putField_qmg (k a b n : Nat) : (putField d k a b n).qmg = d.qmg := rfl
@[simp] theorem putField_key (k a b n : Nat) : (putField d k a b n).key = d.key := rfl
@[simp] theorem putField_aud (k a b n : Nat) : (putField d k a b n).aud = d.aud := rfl
@[simp] theorem putField_twn (k a b n : Nat) : (putField d k a b n).twn = d.twn := rfl
@[simp] theorem putField_hal (k a b n : Nat) : (putField d k a b n).hal = d.hal := rfl
@[simp] theorem putField_jtag (k a b n : Nat) : (putField d k a b n).jtag = d.jtag := rfl
@[simp] theorem putField_gnsStore (k a b n : Nat) : (putField d k a b n).gnsStore = d.gnsStore := rfl
@[simp] theorem putField_nv (k a b n : Nat) : (putField d k a b n).nv = d.nv := rfl
@[simp] theorem putField_freeIdx (k a b n : Nat) : (putField d k a b n).freeIdx = d.freeIdx := rfl

@[simp] theorem emit_regs (e : Emit) : (emit d e).regs = d.regs := rfl
@[simp] theorem emit_eff (e : Emit) : (emit d e).eff = d.eff := rfl
@[simp] theorem emit_staged (e : Emit) : (emit d e).staged = d.staged := rfl
@[simp] theorem emit_pcie0 (e : Emit) : (emit d e).pcie0 = d.pcie0 := rfl
@[simp] theorem emit_pcie1 (e : Emit) : (emit d e).pcie1 = d.pcie1 := rfl
@[simp] theorem emit_cores (e : Emit) : (emit d e).cores = d.cores := rfl
@[simp] theorem emit_mspi (e : Emit) : (emit d e).mspi = d.mspi := rfl
@[simp] theorem emit_indWait (e : Emit) : (emit d e).indWait = d.indWait := rfl
@[simp] theorem emit_stamps (e : Emit) : (emit d e).stamps = d.stamps := rfl
@[simp] theorem emit_taken (e : Emit) : (emit d e).taken = d.taken := rfl
@[simp] theorem emit_pinHold (e : Emit) : (emit d e).pinHold = d.pinHold := rfl
@[simp] theorem emit_mspiErr (e : Emit) : (emit d e).mspiErr = d.mspiErr := rfl
@[simp] theorem emit_resp (e : Emit) : (emit d e).resp = d.resp := rfl
@[simp] theorem emit_t (e : Emit) : (emit d e).t = d.t := rfl
@[simp] theorem emit_bellCnt (e : Emit) : (emit d e).bellCnt = d.bellCnt := rfl
@[simp] theorem emit_gen (e : Emit) : (emit d e).gen = d.gen := rfl
@[simp] theorem emit_power (e : Emit) : (emit d e).power = d.power := rfl
@[simp] theorem emit_start (e : Emit) : (emit d e).start = d.start := rfl
@[simp] theorem emit_backup (e : Emit) : (emit d e).backup = d.backup := rfl
@[simp] theorem emit_flt (e : Emit) : (emit d e).flt = d.flt := rfl
@[simp] theorem emit_tal (e : Emit) : (emit d e).tal = d.tal := rfl
@[simp] theorem emit_cht (e : Emit) : (emit d e).cht = d.cht := rfl
@[simp] theorem emit_tsc (e : Emit) : (emit d e).tsc = d.tsc := rfl
@[simp] theorem emit_sclA (e : Emit) : (emit d e).sclA = d.sclA := rfl
@[simp] theorem emit_sclB (e : Emit) : (emit d e).sclB = d.sclB := rfl
@[simp] theorem emit_refs (e : Emit) : (emit d e).refs = d.refs := rfl
@[simp] theorem emit_sels (e : Emit) : (emit d e).sels = d.sels := rfl
@[simp] theorem emit_stalls (e : Emit) : (emit d e).stalls = d.stalls := rfl
@[simp] theorem emit_apls (e : Emit) : (emit d e).apls = d.apls := rfl
@[simp] theorem emit_outs (e : Emit) : (emit d e).outs = d.outs := rfl
@[simp] theorem emit_pulses (e : Emit) : (emit d e).pulses = d.pulses := rfl
@[simp] theorem emit_grids (e : Emit) : (emit d e).grids = d.grids := rfl
@[simp] theorem emit_trigs (e : Emit) : (emit d e).trigs = d.trigs := rfl
@[simp] theorem emit_tdc (e : Emit) : (emit d e).tdc = d.tdc := rfl
@[simp] theorem emit_gns (e : Emit) : (emit d e).gns = d.gns := rfl
@[simp] theorem emit_ports (e : Emit) : (emit d e).ports = d.ports := rfl
@[simp] theorem emit_tol (e : Emit) : (emit d e).tol = d.tol := rfl
@[simp] theorem emit_ptp (e : Emit) : (emit d e).ptp = d.ptp := rfl
@[simp] theorem emit_qmg (e : Emit) : (emit d e).qmg = d.qmg := rfl
@[simp] theorem emit_key (e : Emit) : (emit d e).key = d.key := rfl
@[simp] theorem emit_aud (e : Emit) : (emit d e).aud = d.aud := rfl
@[simp] theorem emit_twn (e : Emit) : (emit d e).twn = d.twn := rfl
@[simp] theorem emit_hal (e : Emit) : (emit d e).hal = d.hal := rfl
@[simp] theorem emit_jtag (e : Emit) : (emit d e).jtag = d.jtag := rfl
@[simp] theorem emit_gnsStore (e : Emit) : (emit d e).gnsStore = d.gnsStore := rfl
@[simp] theorem emit_nv (e : Emit) : (emit d e).nv = d.nv := rfl
@[simp] theorem emit_freeIdx (e : Emit) : (emit d e).freeIdx = d.freeIdx := rfl

@[simp] theorem answer_regs (l : List Word) : (answer d l).regs = d.regs := rfl
@[simp] theorem answer_eff (l : List Word) : (answer d l).eff = d.eff := rfl
@[simp] theorem answer_staged (l : List Word) : (answer d l).staged = d.staged := rfl
@[simp] theorem answer_pcie0 (l : List Word) : (answer d l).pcie0 = d.pcie0 := rfl
@[simp] theorem answer_pcie1 (l : List Word) : (answer d l).pcie1 = d.pcie1 := rfl
@[simp] theorem answer_cores (l : List Word) : (answer d l).cores = d.cores := rfl
@[simp] theorem answer_mspi (l : List Word) : (answer d l).mspi = d.mspi := rfl
@[simp] theorem answer_indWait (l : List Word) : (answer d l).indWait = d.indWait := rfl
@[simp] theorem answer_stamps (l : List Word) : (answer d l).stamps = d.stamps := rfl
@[simp] theorem answer_taken (l : List Word) : (answer d l).taken = d.taken := rfl
@[simp] theorem answer_pinHold (l : List Word) : (answer d l).pinHold = d.pinHold := rfl
@[simp] theorem answer_mspiErr (l : List Word) : (answer d l).mspiErr = d.mspiErr := rfl
@[simp] theorem answer_out (l : List Word) : (answer d l).out = d.out := rfl
@[simp] theorem answer_t (l : List Word) : (answer d l).t = d.t := rfl
@[simp] theorem answer_bellCnt (l : List Word) : (answer d l).bellCnt = d.bellCnt := rfl
@[simp] theorem answer_gen (l : List Word) : (answer d l).gen = d.gen := rfl
@[simp] theorem answer_power (l : List Word) : (answer d l).power = d.power := rfl
@[simp] theorem answer_start (l : List Word) : (answer d l).start = d.start := rfl
@[simp] theorem answer_backup (l : List Word) : (answer d l).backup = d.backup := rfl
@[simp] theorem answer_flt (l : List Word) : (answer d l).flt = d.flt := rfl
@[simp] theorem answer_tal (l : List Word) : (answer d l).tal = d.tal := rfl
@[simp] theorem answer_cht (l : List Word) : (answer d l).cht = d.cht := rfl
@[simp] theorem answer_tsc (l : List Word) : (answer d l).tsc = d.tsc := rfl
@[simp] theorem answer_sclA (l : List Word) : (answer d l).sclA = d.sclA := rfl
@[simp] theorem answer_sclB (l : List Word) : (answer d l).sclB = d.sclB := rfl
@[simp] theorem answer_refs (l : List Word) : (answer d l).refs = d.refs := rfl
@[simp] theorem answer_sels (l : List Word) : (answer d l).sels = d.sels := rfl
@[simp] theorem answer_stalls (l : List Word) : (answer d l).stalls = d.stalls := rfl
@[simp] theorem answer_apls (l : List Word) : (answer d l).apls = d.apls := rfl
@[simp] theorem answer_outs (l : List Word) : (answer d l).outs = d.outs := rfl
@[simp] theorem answer_pulses (l : List Word) : (answer d l).pulses = d.pulses := rfl
@[simp] theorem answer_grids (l : List Word) : (answer d l).grids = d.grids := rfl
@[simp] theorem answer_trigs (l : List Word) : (answer d l).trigs = d.trigs := rfl
@[simp] theorem answer_tdc (l : List Word) : (answer d l).tdc = d.tdc := rfl
@[simp] theorem answer_gns (l : List Word) : (answer d l).gns = d.gns := rfl
@[simp] theorem answer_ports (l : List Word) : (answer d l).ports = d.ports := rfl
@[simp] theorem answer_tol (l : List Word) : (answer d l).tol = d.tol := rfl
@[simp] theorem answer_ptp (l : List Word) : (answer d l).ptp = d.ptp := rfl
@[simp] theorem answer_qmg (l : List Word) : (answer d l).qmg = d.qmg := rfl
@[simp] theorem answer_key (l : List Word) : (answer d l).key = d.key := rfl
@[simp] theorem answer_aud (l : List Word) : (answer d l).aud = d.aud := rfl
@[simp] theorem answer_twn (l : List Word) : (answer d l).twn = d.twn := rfl
@[simp] theorem answer_hal (l : List Word) : (answer d l).hal = d.hal := rfl
@[simp] theorem answer_jtag (l : List Word) : (answer d l).jtag = d.jtag := rfl
@[simp] theorem answer_gnsStore (l : List Word) : (answer d l).gnsStore = d.gnsStore := rfl
@[simp] theorem answer_nv (l : List Word) : (answer d l).nv = d.nv := rfl
@[simp] theorem answer_freeIdx (l : List Word) : (answer d l).freeIdx = d.freeIdx := rfl

@[simp] theorem tallyPut_regs (c n : Nat) : (tallyPut d c n).regs = d.regs := rfl
@[simp] theorem tallyPut_eff (c n : Nat) : (tallyPut d c n).eff = d.eff := rfl
@[simp] theorem tallyPut_staged (c n : Nat) : (tallyPut d c n).staged = d.staged := rfl
@[simp] theorem tallyPut_pcie0 (c n : Nat) : (tallyPut d c n).pcie0 = d.pcie0 := rfl
@[simp] theorem tallyPut_pcie1 (c n : Nat) : (tallyPut d c n).pcie1 = d.pcie1 := rfl
@[simp] theorem tallyPut_cores (c n : Nat) : (tallyPut d c n).cores = d.cores := rfl
@[simp] theorem tallyPut_mspi (c n : Nat) : (tallyPut d c n).mspi = d.mspi := rfl
@[simp] theorem tallyPut_indWait (c n : Nat) : (tallyPut d c n).indWait = d.indWait := rfl
@[simp] theorem tallyPut_stamps (c n : Nat) : (tallyPut d c n).stamps = d.stamps := rfl
@[simp] theorem tallyPut_taken (c n : Nat) : (tallyPut d c n).taken = d.taken := rfl
@[simp] theorem tallyPut_pinHold (c n : Nat) : (tallyPut d c n).pinHold = d.pinHold := rfl
@[simp] theorem tallyPut_mspiErr (c n : Nat) : (tallyPut d c n).mspiErr = d.mspiErr := rfl
@[simp] theorem tallyPut_resp (c n : Nat) : (tallyPut d c n).resp = d.resp := rfl
@[simp] theorem tallyPut_out (c n : Nat) : (tallyPut d c n).out = d.out := rfl
@[simp] theorem tallyPut_t (c n : Nat) : (tallyPut d c n).t = d.t := rfl
@[simp] theorem tallyPut_bellCnt (c n : Nat) : (tallyPut d c n).bellCnt = d.bellCnt := rfl
@[simp] theorem tallyPut_gen (c n : Nat) : (tallyPut d c n).gen = d.gen := rfl
@[simp] theorem tallyPut_power (c n : Nat) : (tallyPut d c n).power = d.power := rfl
@[simp] theorem tallyPut_start (c n : Nat) : (tallyPut d c n).start = d.start := rfl
@[simp] theorem tallyPut_backup (c n : Nat) : (tallyPut d c n).backup = d.backup := rfl
@[simp] theorem tallyPut_flt (c n : Nat) : (tallyPut d c n).flt = d.flt := rfl
@[simp] theorem tallyPut_cht (c n : Nat) : (tallyPut d c n).cht = d.cht := rfl
@[simp] theorem tallyPut_tsc (c n : Nat) : (tallyPut d c n).tsc = d.tsc := rfl
@[simp] theorem tallyPut_sclA (c n : Nat) : (tallyPut d c n).sclA = d.sclA := rfl
@[simp] theorem tallyPut_sclB (c n : Nat) : (tallyPut d c n).sclB = d.sclB := rfl
@[simp] theorem tallyPut_refs (c n : Nat) : (tallyPut d c n).refs = d.refs := rfl
@[simp] theorem tallyPut_sels (c n : Nat) : (tallyPut d c n).sels = d.sels := rfl
@[simp] theorem tallyPut_stalls (c n : Nat) : (tallyPut d c n).stalls = d.stalls := rfl
@[simp] theorem tallyPut_apls (c n : Nat) : (tallyPut d c n).apls = d.apls := rfl
@[simp] theorem tallyPut_outs (c n : Nat) : (tallyPut d c n).outs = d.outs := rfl
@[simp] theorem tallyPut_pulses (c n : Nat) : (tallyPut d c n).pulses = d.pulses := rfl
@[simp] theorem tallyPut_grids (c n : Nat) : (tallyPut d c n).grids = d.grids := rfl
@[simp] theorem tallyPut_trigs (c n : Nat) : (tallyPut d c n).trigs = d.trigs := rfl
@[simp] theorem tallyPut_tdc (c n : Nat) : (tallyPut d c n).tdc = d.tdc := rfl
@[simp] theorem tallyPut_gns (c n : Nat) : (tallyPut d c n).gns = d.gns := rfl
@[simp] theorem tallyPut_ports (c n : Nat) : (tallyPut d c n).ports = d.ports := rfl
@[simp] theorem tallyPut_tol (c n : Nat) : (tallyPut d c n).tol = d.tol := rfl
@[simp] theorem tallyPut_ptp (c n : Nat) : (tallyPut d c n).ptp = d.ptp := rfl
@[simp] theorem tallyPut_qmg (c n : Nat) : (tallyPut d c n).qmg = d.qmg := rfl
@[simp] theorem tallyPut_key (c n : Nat) : (tallyPut d c n).key = d.key := rfl
@[simp] theorem tallyPut_aud (c n : Nat) : (tallyPut d c n).aud = d.aud := rfl
@[simp] theorem tallyPut_twn (c n : Nat) : (tallyPut d c n).twn = d.twn := rfl
@[simp] theorem tallyPut_hal (c n : Nat) : (tallyPut d c n).hal = d.hal := rfl
@[simp] theorem tallyPut_jtag (c n : Nat) : (tallyPut d c n).jtag = d.jtag := rfl
@[simp] theorem tallyPut_gnsStore (c n : Nat) : (tallyPut d c n).gnsStore = d.gnsStore := rfl
@[simp] theorem tallyPut_nv (c n : Nat) : (tallyPut d c n).nv = d.nv := rfl
@[simp] theorem tallyPut_freeIdx (c n : Nat) : (tallyPut d c n).freeIdx = d.freeIdx := rfl

@[simp] theorem updRef_regs (r : Nat) (f : RefMon → RefMon) : (updRef d r f).regs = d.regs := rfl
@[simp] theorem updRef_eff (r : Nat) (f : RefMon → RefMon) : (updRef d r f).eff = d.eff := rfl
@[simp] theorem updRef_staged (r : Nat) (f : RefMon → RefMon) : (updRef d r f).staged = d.staged := rfl
@[simp] theorem updRef_pcie0 (r : Nat) (f : RefMon → RefMon) : (updRef d r f).pcie0 = d.pcie0 := rfl
@[simp] theorem updRef_pcie1 (r : Nat) (f : RefMon → RefMon) : (updRef d r f).pcie1 = d.pcie1 := rfl
@[simp] theorem updRef_cores (r : Nat) (f : RefMon → RefMon) : (updRef d r f).cores = d.cores := rfl
@[simp] theorem updRef_mspi (r : Nat) (f : RefMon → RefMon) : (updRef d r f).mspi = d.mspi := rfl
@[simp] theorem updRef_indWait (r : Nat) (f : RefMon → RefMon) : (updRef d r f).indWait = d.indWait := rfl
@[simp] theorem updRef_stamps (r : Nat) (f : RefMon → RefMon) : (updRef d r f).stamps = d.stamps := rfl
@[simp] theorem updRef_taken (r : Nat) (f : RefMon → RefMon) : (updRef d r f).taken = d.taken := rfl
@[simp] theorem updRef_pinHold (r : Nat) (f : RefMon → RefMon) : (updRef d r f).pinHold = d.pinHold := rfl
@[simp] theorem updRef_mspiErr (r : Nat) (f : RefMon → RefMon) : (updRef d r f).mspiErr = d.mspiErr := rfl
@[simp] theorem updRef_resp (r : Nat) (f : RefMon → RefMon) : (updRef d r f).resp = d.resp := rfl
@[simp] theorem updRef_out (r : Nat) (f : RefMon → RefMon) : (updRef d r f).out = d.out := rfl
@[simp] theorem updRef_t (r : Nat) (f : RefMon → RefMon) : (updRef d r f).t = d.t := rfl
@[simp] theorem updRef_bellCnt (r : Nat) (f : RefMon → RefMon) : (updRef d r f).bellCnt = d.bellCnt := rfl
@[simp] theorem updRef_gen (r : Nat) (f : RefMon → RefMon) : (updRef d r f).gen = d.gen := rfl
@[simp] theorem updRef_power (r : Nat) (f : RefMon → RefMon) : (updRef d r f).power = d.power := rfl
@[simp] theorem updRef_start (r : Nat) (f : RefMon → RefMon) : (updRef d r f).start = d.start := rfl
@[simp] theorem updRef_backup (r : Nat) (f : RefMon → RefMon) : (updRef d r f).backup = d.backup := rfl
@[simp] theorem updRef_flt (r : Nat) (f : RefMon → RefMon) : (updRef d r f).flt = d.flt := rfl
@[simp] theorem updRef_tal (r : Nat) (f : RefMon → RefMon) : (updRef d r f).tal = d.tal := rfl
@[simp] theorem updRef_cht (r : Nat) (f : RefMon → RefMon) : (updRef d r f).cht = d.cht := rfl
@[simp] theorem updRef_tsc (r : Nat) (f : RefMon → RefMon) : (updRef d r f).tsc = d.tsc := rfl
@[simp] theorem updRef_sclA (r : Nat) (f : RefMon → RefMon) : (updRef d r f).sclA = d.sclA := rfl
@[simp] theorem updRef_sclB (r : Nat) (f : RefMon → RefMon) : (updRef d r f).sclB = d.sclB := rfl
@[simp] theorem updRef_sels (r : Nat) (f : RefMon → RefMon) : (updRef d r f).sels = d.sels := rfl
@[simp] theorem updRef_stalls (r : Nat) (f : RefMon → RefMon) : (updRef d r f).stalls = d.stalls := rfl
@[simp] theorem updRef_apls (r : Nat) (f : RefMon → RefMon) : (updRef d r f).apls = d.apls := rfl
@[simp] theorem updRef_outs (r : Nat) (f : RefMon → RefMon) : (updRef d r f).outs = d.outs := rfl
@[simp] theorem updRef_pulses (r : Nat) (f : RefMon → RefMon) : (updRef d r f).pulses = d.pulses := rfl
@[simp] theorem updRef_grids (r : Nat) (f : RefMon → RefMon) : (updRef d r f).grids = d.grids := rfl
@[simp] theorem updRef_trigs (r : Nat) (f : RefMon → RefMon) : (updRef d r f).trigs = d.trigs := rfl
@[simp] theorem updRef_tdc (r : Nat) (f : RefMon → RefMon) : (updRef d r f).tdc = d.tdc := rfl
@[simp] theorem updRef_gns (r : Nat) (f : RefMon → RefMon) : (updRef d r f).gns = d.gns := rfl
@[simp] theorem updRef_ports (r : Nat) (f : RefMon → RefMon) : (updRef d r f).ports = d.ports := rfl
@[simp] theorem updRef_tol (r : Nat) (f : RefMon → RefMon) : (updRef d r f).tol = d.tol := rfl
@[simp] theorem updRef_ptp (r : Nat) (f : RefMon → RefMon) : (updRef d r f).ptp = d.ptp := rfl
@[simp] theorem updRef_qmg (r : Nat) (f : RefMon → RefMon) : (updRef d r f).qmg = d.qmg := rfl
@[simp] theorem updRef_key (r : Nat) (f : RefMon → RefMon) : (updRef d r f).key = d.key := rfl
@[simp] theorem updRef_aud (r : Nat) (f : RefMon → RefMon) : (updRef d r f).aud = d.aud := rfl
@[simp] theorem updRef_twn (r : Nat) (f : RefMon → RefMon) : (updRef d r f).twn = d.twn := rfl
@[simp] theorem updRef_hal (r : Nat) (f : RefMon → RefMon) : (updRef d r f).hal = d.hal := rfl
@[simp] theorem updRef_jtag (r : Nat) (f : RefMon → RefMon) : (updRef d r f).jtag = d.jtag := rfl
@[simp] theorem updRef_gnsStore (r : Nat) (f : RefMon → RefMon) : (updRef d r f).gnsStore = d.gnsStore := rfl
@[simp] theorem updRef_nv (r : Nat) (f : RefMon → RefMon) : (updRef d r f).nv = d.nv := rfl
@[simp] theorem updRef_freeIdx (r : Nat) (f : RefMon → RefMon) : (updRef d r f).freeIdx = d.freeIdx := rfl

@[simp] theorem updSel_regs (r : Nat) (f : Sel → Sel) : (updSel d r f).regs = d.regs := rfl
@[simp] theorem updSel_eff (r : Nat) (f : Sel → Sel) : (updSel d r f).eff = d.eff := rfl
@[simp] theorem updSel_staged (r : Nat) (f : Sel → Sel) : (updSel d r f).staged = d.staged := rfl
@[simp] theorem updSel_pcie0 (r : Nat) (f : Sel → Sel) : (updSel d r f).pcie0 = d.pcie0 := rfl
@[simp] theorem updSel_pcie1 (r : Nat) (f : Sel → Sel) : (updSel d r f).pcie1 = d.pcie1 := rfl
@[simp] theorem updSel_cores (r : Nat) (f : Sel → Sel) : (updSel d r f).cores = d.cores := rfl
@[simp] theorem updSel_mspi (r : Nat) (f : Sel → Sel) : (updSel d r f).mspi = d.mspi := rfl
@[simp] theorem updSel_indWait (r : Nat) (f : Sel → Sel) : (updSel d r f).indWait = d.indWait := rfl
@[simp] theorem updSel_stamps (r : Nat) (f : Sel → Sel) : (updSel d r f).stamps = d.stamps := rfl
@[simp] theorem updSel_taken (r : Nat) (f : Sel → Sel) : (updSel d r f).taken = d.taken := rfl
@[simp] theorem updSel_pinHold (r : Nat) (f : Sel → Sel) : (updSel d r f).pinHold = d.pinHold := rfl
@[simp] theorem updSel_mspiErr (r : Nat) (f : Sel → Sel) : (updSel d r f).mspiErr = d.mspiErr := rfl
@[simp] theorem updSel_resp (r : Nat) (f : Sel → Sel) : (updSel d r f).resp = d.resp := rfl
@[simp] theorem updSel_out (r : Nat) (f : Sel → Sel) : (updSel d r f).out = d.out := rfl
@[simp] theorem updSel_t (r : Nat) (f : Sel → Sel) : (updSel d r f).t = d.t := rfl
@[simp] theorem updSel_bellCnt (r : Nat) (f : Sel → Sel) : (updSel d r f).bellCnt = d.bellCnt := rfl
@[simp] theorem updSel_gen (r : Nat) (f : Sel → Sel) : (updSel d r f).gen = d.gen := rfl
@[simp] theorem updSel_power (r : Nat) (f : Sel → Sel) : (updSel d r f).power = d.power := rfl
@[simp] theorem updSel_start (r : Nat) (f : Sel → Sel) : (updSel d r f).start = d.start := rfl
@[simp] theorem updSel_backup (r : Nat) (f : Sel → Sel) : (updSel d r f).backup = d.backup := rfl
@[simp] theorem updSel_flt (r : Nat) (f : Sel → Sel) : (updSel d r f).flt = d.flt := rfl
@[simp] theorem updSel_tal (r : Nat) (f : Sel → Sel) : (updSel d r f).tal = d.tal := rfl
@[simp] theorem updSel_cht (r : Nat) (f : Sel → Sel) : (updSel d r f).cht = d.cht := rfl
@[simp] theorem updSel_tsc (r : Nat) (f : Sel → Sel) : (updSel d r f).tsc = d.tsc := rfl
@[simp] theorem updSel_sclA (r : Nat) (f : Sel → Sel) : (updSel d r f).sclA = d.sclA := rfl
@[simp] theorem updSel_sclB (r : Nat) (f : Sel → Sel) : (updSel d r f).sclB = d.sclB := rfl
@[simp] theorem updSel_refs (r : Nat) (f : Sel → Sel) : (updSel d r f).refs = d.refs := rfl
@[simp] theorem updSel_stalls (r : Nat) (f : Sel → Sel) : (updSel d r f).stalls = d.stalls := rfl
@[simp] theorem updSel_apls (r : Nat) (f : Sel → Sel) : (updSel d r f).apls = d.apls := rfl
@[simp] theorem updSel_outs (r : Nat) (f : Sel → Sel) : (updSel d r f).outs = d.outs := rfl
@[simp] theorem updSel_pulses (r : Nat) (f : Sel → Sel) : (updSel d r f).pulses = d.pulses := rfl
@[simp] theorem updSel_grids (r : Nat) (f : Sel → Sel) : (updSel d r f).grids = d.grids := rfl
@[simp] theorem updSel_trigs (r : Nat) (f : Sel → Sel) : (updSel d r f).trigs = d.trigs := rfl
@[simp] theorem updSel_tdc (r : Nat) (f : Sel → Sel) : (updSel d r f).tdc = d.tdc := rfl
@[simp] theorem updSel_gns (r : Nat) (f : Sel → Sel) : (updSel d r f).gns = d.gns := rfl
@[simp] theorem updSel_ports (r : Nat) (f : Sel → Sel) : (updSel d r f).ports = d.ports := rfl
@[simp] theorem updSel_tol (r : Nat) (f : Sel → Sel) : (updSel d r f).tol = d.tol := rfl
@[simp] theorem updSel_ptp (r : Nat) (f : Sel → Sel) : (updSel d r f).ptp = d.ptp := rfl
@[simp] theorem updSel_qmg (r : Nat) (f : Sel → Sel) : (updSel d r f).qmg = d.qmg := rfl
@[simp] theorem updSel_key (r : Nat) (f : Sel → Sel) : (updSel d r f).key = d.key := rfl
@[simp] theorem updSel_aud (r : Nat) (f : Sel → Sel) : (updSel d r f).aud = d.aud := rfl
@[simp] theorem updSel_twn (r : Nat) (f : Sel → Sel) : (updSel d r f).twn = d.twn := rfl
@[simp] theorem updSel_hal (r : Nat) (f : Sel → Sel) : (updSel d r f).hal = d.hal := rfl
@[simp] theorem updSel_jtag (r : Nat) (f : Sel → Sel) : (updSel d r f).jtag = d.jtag := rfl
@[simp] theorem updSel_gnsStore (r : Nat) (f : Sel → Sel) : (updSel d r f).gnsStore = d.gnsStore := rfl
@[simp] theorem updSel_nv (r : Nat) (f : Sel → Sel) : (updSel d r f).nv = d.nv := rfl
@[simp] theorem updSel_freeIdx (r : Nat) (f : Sel → Sel) : (updSel d r f).freeIdx = d.freeIdx := rfl

@[simp] theorem updStall_regs (r : Nat) (f : Stall → Stall) : (updStall d r f).regs = d.regs := rfl
@[simp] theorem updStall_eff (r : Nat) (f : Stall → Stall) : (updStall d r f).eff = d.eff := rfl
@[simp] theorem updStall_staged (r : Nat) (f : Stall → Stall) : (updStall d r f).staged = d.staged := rfl
@[simp] theorem updStall_pcie0 (r : Nat) (f : Stall → Stall) : (updStall d r f).pcie0 = d.pcie0 := rfl
@[simp] theorem updStall_pcie1 (r : Nat) (f : Stall → Stall) : (updStall d r f).pcie1 = d.pcie1 := rfl
@[simp] theorem updStall_cores (r : Nat) (f : Stall → Stall) : (updStall d r f).cores = d.cores := rfl
@[simp] theorem updStall_mspi (r : Nat) (f : Stall → Stall) : (updStall d r f).mspi = d.mspi := rfl
@[simp] theorem updStall_indWait (r : Nat) (f : Stall → Stall) : (updStall d r f).indWait = d.indWait := rfl
@[simp] theorem updStall_stamps (r : Nat) (f : Stall → Stall) : (updStall d r f).stamps = d.stamps := rfl
@[simp] theorem updStall_taken (r : Nat) (f : Stall → Stall) : (updStall d r f).taken = d.taken := rfl
@[simp] theorem updStall_pinHold (r : Nat) (f : Stall → Stall) : (updStall d r f).pinHold = d.pinHold := rfl
@[simp] theorem updStall_mspiErr (r : Nat) (f : Stall → Stall) : (updStall d r f).mspiErr = d.mspiErr := rfl
@[simp] theorem updStall_resp (r : Nat) (f : Stall → Stall) : (updStall d r f).resp = d.resp := rfl
@[simp] theorem updStall_out (r : Nat) (f : Stall → Stall) : (updStall d r f).out = d.out := rfl
@[simp] theorem updStall_t (r : Nat) (f : Stall → Stall) : (updStall d r f).t = d.t := rfl
@[simp] theorem updStall_bellCnt (r : Nat) (f : Stall → Stall) : (updStall d r f).bellCnt = d.bellCnt := rfl
@[simp] theorem updStall_gen (r : Nat) (f : Stall → Stall) : (updStall d r f).gen = d.gen := rfl
@[simp] theorem updStall_power (r : Nat) (f : Stall → Stall) : (updStall d r f).power = d.power := rfl
@[simp] theorem updStall_start (r : Nat) (f : Stall → Stall) : (updStall d r f).start = d.start := rfl
@[simp] theorem updStall_backup (r : Nat) (f : Stall → Stall) : (updStall d r f).backup = d.backup := rfl
@[simp] theorem updStall_flt (r : Nat) (f : Stall → Stall) : (updStall d r f).flt = d.flt := rfl
@[simp] theorem updStall_tal (r : Nat) (f : Stall → Stall) : (updStall d r f).tal = d.tal := rfl
@[simp] theorem updStall_cht (r : Nat) (f : Stall → Stall) : (updStall d r f).cht = d.cht := rfl
@[simp] theorem updStall_tsc (r : Nat) (f : Stall → Stall) : (updStall d r f).tsc = d.tsc := rfl
@[simp] theorem updStall_sclA (r : Nat) (f : Stall → Stall) : (updStall d r f).sclA = d.sclA := rfl
@[simp] theorem updStall_sclB (r : Nat) (f : Stall → Stall) : (updStall d r f).sclB = d.sclB := rfl
@[simp] theorem updStall_refs (r : Nat) (f : Stall → Stall) : (updStall d r f).refs = d.refs := rfl
@[simp] theorem updStall_sels (r : Nat) (f : Stall → Stall) : (updStall d r f).sels = d.sels := rfl
@[simp] theorem updStall_apls (r : Nat) (f : Stall → Stall) : (updStall d r f).apls = d.apls := rfl
@[simp] theorem updStall_outs (r : Nat) (f : Stall → Stall) : (updStall d r f).outs = d.outs := rfl
@[simp] theorem updStall_pulses (r : Nat) (f : Stall → Stall) : (updStall d r f).pulses = d.pulses := rfl
@[simp] theorem updStall_grids (r : Nat) (f : Stall → Stall) : (updStall d r f).grids = d.grids := rfl
@[simp] theorem updStall_trigs (r : Nat) (f : Stall → Stall) : (updStall d r f).trigs = d.trigs := rfl
@[simp] theorem updStall_tdc (r : Nat) (f : Stall → Stall) : (updStall d r f).tdc = d.tdc := rfl
@[simp] theorem updStall_gns (r : Nat) (f : Stall → Stall) : (updStall d r f).gns = d.gns := rfl
@[simp] theorem updStall_ports (r : Nat) (f : Stall → Stall) : (updStall d r f).ports = d.ports := rfl
@[simp] theorem updStall_tol (r : Nat) (f : Stall → Stall) : (updStall d r f).tol = d.tol := rfl
@[simp] theorem updStall_ptp (r : Nat) (f : Stall → Stall) : (updStall d r f).ptp = d.ptp := rfl
@[simp] theorem updStall_qmg (r : Nat) (f : Stall → Stall) : (updStall d r f).qmg = d.qmg := rfl
@[simp] theorem updStall_key (r : Nat) (f : Stall → Stall) : (updStall d r f).key = d.key := rfl
@[simp] theorem updStall_aud (r : Nat) (f : Stall → Stall) : (updStall d r f).aud = d.aud := rfl
@[simp] theorem updStall_twn (r : Nat) (f : Stall → Stall) : (updStall d r f).twn = d.twn := rfl
@[simp] theorem updStall_hal (r : Nat) (f : Stall → Stall) : (updStall d r f).hal = d.hal := rfl
@[simp] theorem updStall_jtag (r : Nat) (f : Stall → Stall) : (updStall d r f).jtag = d.jtag := rfl
@[simp] theorem updStall_gnsStore (r : Nat) (f : Stall → Stall) : (updStall d r f).gnsStore = d.gnsStore := rfl
@[simp] theorem updStall_nv (r : Nat) (f : Stall → Stall) : (updStall d r f).nv = d.nv := rfl
@[simp] theorem updStall_freeIdx (r : Nat) (f : Stall → Stall) : (updStall d r f).freeIdx = d.freeIdx := rfl

@[simp] theorem updApll_regs (r : Nat) (f : Apll → Apll) : (updApll d r f).regs = d.regs := rfl
@[simp] theorem updApll_eff (r : Nat) (f : Apll → Apll) : (updApll d r f).eff = d.eff := rfl
@[simp] theorem updApll_staged (r : Nat) (f : Apll → Apll) : (updApll d r f).staged = d.staged := rfl
@[simp] theorem updApll_pcie0 (r : Nat) (f : Apll → Apll) : (updApll d r f).pcie0 = d.pcie0 := rfl
@[simp] theorem updApll_pcie1 (r : Nat) (f : Apll → Apll) : (updApll d r f).pcie1 = d.pcie1 := rfl
@[simp] theorem updApll_cores (r : Nat) (f : Apll → Apll) : (updApll d r f).cores = d.cores := rfl
@[simp] theorem updApll_mspi (r : Nat) (f : Apll → Apll) : (updApll d r f).mspi = d.mspi := rfl
@[simp] theorem updApll_indWait (r : Nat) (f : Apll → Apll) : (updApll d r f).indWait = d.indWait := rfl
@[simp] theorem updApll_stamps (r : Nat) (f : Apll → Apll) : (updApll d r f).stamps = d.stamps := rfl
@[simp] theorem updApll_taken (r : Nat) (f : Apll → Apll) : (updApll d r f).taken = d.taken := rfl
@[simp] theorem updApll_pinHold (r : Nat) (f : Apll → Apll) : (updApll d r f).pinHold = d.pinHold := rfl
@[simp] theorem updApll_mspiErr (r : Nat) (f : Apll → Apll) : (updApll d r f).mspiErr = d.mspiErr := rfl
@[simp] theorem updApll_resp (r : Nat) (f : Apll → Apll) : (updApll d r f).resp = d.resp := rfl
@[simp] theorem updApll_out (r : Nat) (f : Apll → Apll) : (updApll d r f).out = d.out := rfl
@[simp] theorem updApll_t (r : Nat) (f : Apll → Apll) : (updApll d r f).t = d.t := rfl
@[simp] theorem updApll_bellCnt (r : Nat) (f : Apll → Apll) : (updApll d r f).bellCnt = d.bellCnt := rfl
@[simp] theorem updApll_gen (r : Nat) (f : Apll → Apll) : (updApll d r f).gen = d.gen := rfl
@[simp] theorem updApll_power (r : Nat) (f : Apll → Apll) : (updApll d r f).power = d.power := rfl
@[simp] theorem updApll_start (r : Nat) (f : Apll → Apll) : (updApll d r f).start = d.start := rfl
@[simp] theorem updApll_backup (r : Nat) (f : Apll → Apll) : (updApll d r f).backup = d.backup := rfl
@[simp] theorem updApll_flt (r : Nat) (f : Apll → Apll) : (updApll d r f).flt = d.flt := rfl
@[simp] theorem updApll_tal (r : Nat) (f : Apll → Apll) : (updApll d r f).tal = d.tal := rfl
@[simp] theorem updApll_cht (r : Nat) (f : Apll → Apll) : (updApll d r f).cht = d.cht := rfl
@[simp] theorem updApll_tsc (r : Nat) (f : Apll → Apll) : (updApll d r f).tsc = d.tsc := rfl
@[simp] theorem updApll_sclA (r : Nat) (f : Apll → Apll) : (updApll d r f).sclA = d.sclA := rfl
@[simp] theorem updApll_sclB (r : Nat) (f : Apll → Apll) : (updApll d r f).sclB = d.sclB := rfl
@[simp] theorem updApll_refs (r : Nat) (f : Apll → Apll) : (updApll d r f).refs = d.refs := rfl
@[simp] theorem updApll_sels (r : Nat) (f : Apll → Apll) : (updApll d r f).sels = d.sels := rfl
@[simp] theorem updApll_stalls (r : Nat) (f : Apll → Apll) : (updApll d r f).stalls = d.stalls := rfl
@[simp] theorem updApll_outs (r : Nat) (f : Apll → Apll) : (updApll d r f).outs = d.outs := rfl
@[simp] theorem updApll_pulses (r : Nat) (f : Apll → Apll) : (updApll d r f).pulses = d.pulses := rfl
@[simp] theorem updApll_grids (r : Nat) (f : Apll → Apll) : (updApll d r f).grids = d.grids := rfl
@[simp] theorem updApll_trigs (r : Nat) (f : Apll → Apll) : (updApll d r f).trigs = d.trigs := rfl
@[simp] theorem updApll_tdc (r : Nat) (f : Apll → Apll) : (updApll d r f).tdc = d.tdc := rfl
@[simp] theorem updApll_gns (r : Nat) (f : Apll → Apll) : (updApll d r f).gns = d.gns := rfl
@[simp] theorem updApll_ports (r : Nat) (f : Apll → Apll) : (updApll d r f).ports = d.ports := rfl
@[simp] theorem updApll_tol (r : Nat) (f : Apll → Apll) : (updApll d r f).tol = d.tol := rfl
@[simp] theorem updApll_ptp (r : Nat) (f : Apll → Apll) : (updApll d r f).ptp = d.ptp := rfl
@[simp] theorem updApll_qmg (r : Nat) (f : Apll → Apll) : (updApll d r f).qmg = d.qmg := rfl
@[simp] theorem updApll_key (r : Nat) (f : Apll → Apll) : (updApll d r f).key = d.key := rfl
@[simp] theorem updApll_aud (r : Nat) (f : Apll → Apll) : (updApll d r f).aud = d.aud := rfl
@[simp] theorem updApll_twn (r : Nat) (f : Apll → Apll) : (updApll d r f).twn = d.twn := rfl
@[simp] theorem updApll_hal (r : Nat) (f : Apll → Apll) : (updApll d r f).hal = d.hal := rfl
@[simp] theorem updApll_jtag (r : Nat) (f : Apll → Apll) : (updApll d r f).jtag = d.jtag := rfl
@[simp] theorem updApll_gnsStore (r : Nat) (f : Apll → Apll) : (updApll d r f).gnsStore = d.gnsStore := rfl
@[simp] theorem updApll_nv (r : Nat) (f : Apll → Apll) : (updApll d r f).nv = d.nv := rfl
@[simp] theorem updApll_freeIdx (r : Nat) (f : Apll → Apll) : (updApll d r f).freeIdx = d.freeIdx := rfl

@[simp] theorem updOut_regs (r : Nat) (f : Output → Output) : (updOut d r f).regs = d.regs := rfl
@[simp] theorem updOut_eff (r : Nat) (f : Output → Output) : (updOut d r f).eff = d.eff := rfl
@[simp] theorem updOut_staged (r : Nat) (f : Output → Output) : (updOut d r f).staged = d.staged := rfl
@[simp] theorem updOut_pcie0 (r : Nat) (f : Output → Output) : (updOut d r f).pcie0 = d.pcie0 := rfl
@[simp] theorem updOut_pcie1 (r : Nat) (f : Output → Output) : (updOut d r f).pcie1 = d.pcie1 := rfl
@[simp] theorem updOut_cores (r : Nat) (f : Output → Output) : (updOut d r f).cores = d.cores := rfl
@[simp] theorem updOut_mspi (r : Nat) (f : Output → Output) : (updOut d r f).mspi = d.mspi := rfl
@[simp] theorem updOut_indWait (r : Nat) (f : Output → Output) : (updOut d r f).indWait = d.indWait := rfl
@[simp] theorem updOut_stamps (r : Nat) (f : Output → Output) : (updOut d r f).stamps = d.stamps := rfl
@[simp] theorem updOut_taken (r : Nat) (f : Output → Output) : (updOut d r f).taken = d.taken := rfl
@[simp] theorem updOut_pinHold (r : Nat) (f : Output → Output) : (updOut d r f).pinHold = d.pinHold := rfl
@[simp] theorem updOut_mspiErr (r : Nat) (f : Output → Output) : (updOut d r f).mspiErr = d.mspiErr := rfl
@[simp] theorem updOut_resp (r : Nat) (f : Output → Output) : (updOut d r f).resp = d.resp := rfl
@[simp] theorem updOut_out (r : Nat) (f : Output → Output) : (updOut d r f).out = d.out := rfl
@[simp] theorem updOut_t (r : Nat) (f : Output → Output) : (updOut d r f).t = d.t := rfl
@[simp] theorem updOut_bellCnt (r : Nat) (f : Output → Output) : (updOut d r f).bellCnt = d.bellCnt := rfl
@[simp] theorem updOut_gen (r : Nat) (f : Output → Output) : (updOut d r f).gen = d.gen := rfl
@[simp] theorem updOut_power (r : Nat) (f : Output → Output) : (updOut d r f).power = d.power := rfl
@[simp] theorem updOut_start (r : Nat) (f : Output → Output) : (updOut d r f).start = d.start := rfl
@[simp] theorem updOut_backup (r : Nat) (f : Output → Output) : (updOut d r f).backup = d.backup := rfl
@[simp] theorem updOut_flt (r : Nat) (f : Output → Output) : (updOut d r f).flt = d.flt := rfl
@[simp] theorem updOut_tal (r : Nat) (f : Output → Output) : (updOut d r f).tal = d.tal := rfl
@[simp] theorem updOut_cht (r : Nat) (f : Output → Output) : (updOut d r f).cht = d.cht := rfl
@[simp] theorem updOut_tsc (r : Nat) (f : Output → Output) : (updOut d r f).tsc = d.tsc := rfl
@[simp] theorem updOut_sclA (r : Nat) (f : Output → Output) : (updOut d r f).sclA = d.sclA := rfl
@[simp] theorem updOut_sclB (r : Nat) (f : Output → Output) : (updOut d r f).sclB = d.sclB := rfl
@[simp] theorem updOut_refs (r : Nat) (f : Output → Output) : (updOut d r f).refs = d.refs := rfl
@[simp] theorem updOut_sels (r : Nat) (f : Output → Output) : (updOut d r f).sels = d.sels := rfl
@[simp] theorem updOut_stalls (r : Nat) (f : Output → Output) : (updOut d r f).stalls = d.stalls := rfl
@[simp] theorem updOut_apls (r : Nat) (f : Output → Output) : (updOut d r f).apls = d.apls := rfl
@[simp] theorem updOut_pulses (r : Nat) (f : Output → Output) : (updOut d r f).pulses = d.pulses := rfl
@[simp] theorem updOut_grids (r : Nat) (f : Output → Output) : (updOut d r f).grids = d.grids := rfl
@[simp] theorem updOut_trigs (r : Nat) (f : Output → Output) : (updOut d r f).trigs = d.trigs := rfl
@[simp] theorem updOut_tdc (r : Nat) (f : Output → Output) : (updOut d r f).tdc = d.tdc := rfl
@[simp] theorem updOut_gns (r : Nat) (f : Output → Output) : (updOut d r f).gns = d.gns := rfl
@[simp] theorem updOut_ports (r : Nat) (f : Output → Output) : (updOut d r f).ports = d.ports := rfl
@[simp] theorem updOut_tol (r : Nat) (f : Output → Output) : (updOut d r f).tol = d.tol := rfl
@[simp] theorem updOut_ptp (r : Nat) (f : Output → Output) : (updOut d r f).ptp = d.ptp := rfl
@[simp] theorem updOut_qmg (r : Nat) (f : Output → Output) : (updOut d r f).qmg = d.qmg := rfl
@[simp] theorem updOut_key (r : Nat) (f : Output → Output) : (updOut d r f).key = d.key := rfl
@[simp] theorem updOut_aud (r : Nat) (f : Output → Output) : (updOut d r f).aud = d.aud := rfl
@[simp] theorem updOut_twn (r : Nat) (f : Output → Output) : (updOut d r f).twn = d.twn := rfl
@[simp] theorem updOut_hal (r : Nat) (f : Output → Output) : (updOut d r f).hal = d.hal := rfl
@[simp] theorem updOut_jtag (r : Nat) (f : Output → Output) : (updOut d r f).jtag = d.jtag := rfl
@[simp] theorem updOut_gnsStore (r : Nat) (f : Output → Output) : (updOut d r f).gnsStore = d.gnsStore := rfl
@[simp] theorem updOut_nv (r : Nat) (f : Output → Output) : (updOut d r f).nv = d.nv := rfl
@[simp] theorem updOut_freeIdx (r : Nat) (f : Output → Output) : (updOut d r f).freeIdx = d.freeIdx := rfl

@[simp] theorem updPort_regs (r : Nat) (f : Port → Port) : (updPort d r f).regs = d.regs := rfl
@[simp] theorem updPort_eff (r : Nat) (f : Port → Port) : (updPort d r f).eff = d.eff := rfl
@[simp] theorem updPort_staged (r : Nat) (f : Port → Port) : (updPort d r f).staged = d.staged := rfl
@[simp] theorem updPort_pcie0 (r : Nat) (f : Port → Port) : (updPort d r f).pcie0 = d.pcie0 := rfl
@[simp] theorem updPort_pcie1 (r : Nat) (f : Port → Port) : (updPort d r f).pcie1 = d.pcie1 := rfl
@[simp] theorem updPort_cores (r : Nat) (f : Port → Port) : (updPort d r f).cores = d.cores := rfl
@[simp] theorem updPort_mspi (r : Nat) (f : Port → Port) : (updPort d r f).mspi = d.mspi := rfl
@[simp] theorem updPort_indWait (r : Nat) (f : Port → Port) : (updPort d r f).indWait = d.indWait := rfl
@[simp] theorem updPort_stamps (r : Nat) (f : Port → Port) : (updPort d r f).stamps = d.stamps := rfl
@[simp] theorem updPort_taken (r : Nat) (f : Port → Port) : (updPort d r f).taken = d.taken := rfl
@[simp] theorem updPort_pinHold (r : Nat) (f : Port → Port) : (updPort d r f).pinHold = d.pinHold := rfl
@[simp] theorem updPort_mspiErr (r : Nat) (f : Port → Port) : (updPort d r f).mspiErr = d.mspiErr := rfl
@[simp] theorem updPort_resp (r : Nat) (f : Port → Port) : (updPort d r f).resp = d.resp := rfl
@[simp] theorem updPort_out (r : Nat) (f : Port → Port) : (updPort d r f).out = d.out := rfl
@[simp] theorem updPort_t (r : Nat) (f : Port → Port) : (updPort d r f).t = d.t := rfl
@[simp] theorem updPort_bellCnt (r : Nat) (f : Port → Port) : (updPort d r f).bellCnt = d.bellCnt := rfl
@[simp] theorem updPort_gen (r : Nat) (f : Port → Port) : (updPort d r f).gen = d.gen := rfl
@[simp] theorem updPort_power (r : Nat) (f : Port → Port) : (updPort d r f).power = d.power := rfl
@[simp] theorem updPort_start (r : Nat) (f : Port → Port) : (updPort d r f).start = d.start := rfl
@[simp] theorem updPort_backup (r : Nat) (f : Port → Port) : (updPort d r f).backup = d.backup := rfl
@[simp] theorem updPort_flt (r : Nat) (f : Port → Port) : (updPort d r f).flt = d.flt := rfl
@[simp] theorem updPort_tal (r : Nat) (f : Port → Port) : (updPort d r f).tal = d.tal := rfl
@[simp] theorem updPort_cht (r : Nat) (f : Port → Port) : (updPort d r f).cht = d.cht := rfl
@[simp] theorem updPort_tsc (r : Nat) (f : Port → Port) : (updPort d r f).tsc = d.tsc := rfl
@[simp] theorem updPort_sclA (r : Nat) (f : Port → Port) : (updPort d r f).sclA = d.sclA := rfl
@[simp] theorem updPort_sclB (r : Nat) (f : Port → Port) : (updPort d r f).sclB = d.sclB := rfl
@[simp] theorem updPort_refs (r : Nat) (f : Port → Port) : (updPort d r f).refs = d.refs := rfl
@[simp] theorem updPort_sels (r : Nat) (f : Port → Port) : (updPort d r f).sels = d.sels := rfl
@[simp] theorem updPort_stalls (r : Nat) (f : Port → Port) : (updPort d r f).stalls = d.stalls := rfl
@[simp] theorem updPort_apls (r : Nat) (f : Port → Port) : (updPort d r f).apls = d.apls := rfl
@[simp] theorem updPort_outs (r : Nat) (f : Port → Port) : (updPort d r f).outs = d.outs := rfl
@[simp] theorem updPort_pulses (r : Nat) (f : Port → Port) : (updPort d r f).pulses = d.pulses := rfl
@[simp] theorem updPort_grids (r : Nat) (f : Port → Port) : (updPort d r f).grids = d.grids := rfl
@[simp] theorem updPort_trigs (r : Nat) (f : Port → Port) : (updPort d r f).trigs = d.trigs := rfl
@[simp] theorem updPort_tdc (r : Nat) (f : Port → Port) : (updPort d r f).tdc = d.tdc := rfl
@[simp] theorem updPort_gns (r : Nat) (f : Port → Port) : (updPort d r f).gns = d.gns := rfl
@[simp] theorem updPort_tol (r : Nat) (f : Port → Port) : (updPort d r f).tol = d.tol := rfl
@[simp] theorem updPort_ptp (r : Nat) (f : Port → Port) : (updPort d r f).ptp = d.ptp := rfl
@[simp] theorem updPort_qmg (r : Nat) (f : Port → Port) : (updPort d r f).qmg = d.qmg := rfl
@[simp] theorem updPort_key (r : Nat) (f : Port → Port) : (updPort d r f).key = d.key := rfl
@[simp] theorem updPort_aud (r : Nat) (f : Port → Port) : (updPort d r f).aud = d.aud := rfl
@[simp] theorem updPort_twn (r : Nat) (f : Port → Port) : (updPort d r f).twn = d.twn := rfl
@[simp] theorem updPort_hal (r : Nat) (f : Port → Port) : (updPort d r f).hal = d.hal := rfl
@[simp] theorem updPort_jtag (r : Nat) (f : Port → Port) : (updPort d r f).jtag = d.jtag := rfl
@[simp] theorem updPort_gnsStore (r : Nat) (f : Port → Port) : (updPort d r f).gnsStore = d.gnsStore := rfl
@[simp] theorem updPort_nv (r : Nat) (f : Port → Port) : (updPort d r f).nv = d.nv := rfl
@[simp] theorem updPort_freeIdx (r : Nat) (f : Port → Port) : (updPort d r f).freeIdx = d.freeIdx := rfl

@[simp] theorem updRx_regs (r : Nat) (f : Ring → Ring) : (updRx d r f).regs = d.regs := rfl
@[simp] theorem updRx_eff (r : Nat) (f : Ring → Ring) : (updRx d r f).eff = d.eff := rfl
@[simp] theorem updRx_staged (r : Nat) (f : Ring → Ring) : (updRx d r f).staged = d.staged := rfl
@[simp] theorem updRx_pcie0 (r : Nat) (f : Ring → Ring) : (updRx d r f).pcie0 = d.pcie0 := rfl
@[simp] theorem updRx_pcie1 (r : Nat) (f : Ring → Ring) : (updRx d r f).pcie1 = d.pcie1 := rfl
@[simp] theorem updRx_cores (r : Nat) (f : Ring → Ring) : (updRx d r f).cores = d.cores := rfl
@[simp] theorem updRx_mspi (r : Nat) (f : Ring → Ring) : (updRx d r f).mspi = d.mspi := rfl
@[simp] theorem updRx_indWait (r : Nat) (f : Ring → Ring) : (updRx d r f).indWait = d.indWait := rfl
@[simp] theorem updRx_stamps (r : Nat) (f : Ring → Ring) : (updRx d r f).stamps = d.stamps := rfl
@[simp] theorem updRx_taken (r : Nat) (f : Ring → Ring) : (updRx d r f).taken = d.taken := rfl
@[simp] theorem updRx_pinHold (r : Nat) (f : Ring → Ring) : (updRx d r f).pinHold = d.pinHold := rfl
@[simp] theorem updRx_mspiErr (r : Nat) (f : Ring → Ring) : (updRx d r f).mspiErr = d.mspiErr := rfl
@[simp] theorem updRx_resp (r : Nat) (f : Ring → Ring) : (updRx d r f).resp = d.resp := rfl
@[simp] theorem updRx_out (r : Nat) (f : Ring → Ring) : (updRx d r f).out = d.out := rfl
@[simp] theorem updRx_t (r : Nat) (f : Ring → Ring) : (updRx d r f).t = d.t := rfl
@[simp] theorem updRx_bellCnt (r : Nat) (f : Ring → Ring) : (updRx d r f).bellCnt = d.bellCnt := rfl
@[simp] theorem updRx_gen (r : Nat) (f : Ring → Ring) : (updRx d r f).gen = d.gen := rfl
@[simp] theorem updRx_power (r : Nat) (f : Ring → Ring) : (updRx d r f).power = d.power := rfl
@[simp] theorem updRx_start (r : Nat) (f : Ring → Ring) : (updRx d r f).start = d.start := rfl
@[simp] theorem updRx_backup (r : Nat) (f : Ring → Ring) : (updRx d r f).backup = d.backup := rfl
@[simp] theorem updRx_flt (r : Nat) (f : Ring → Ring) : (updRx d r f).flt = d.flt := rfl
@[simp] theorem updRx_tal (r : Nat) (f : Ring → Ring) : (updRx d r f).tal = d.tal := rfl
@[simp] theorem updRx_cht (r : Nat) (f : Ring → Ring) : (updRx d r f).cht = d.cht := rfl
@[simp] theorem updRx_tsc (r : Nat) (f : Ring → Ring) : (updRx d r f).tsc = d.tsc := rfl
@[simp] theorem updRx_sclA (r : Nat) (f : Ring → Ring) : (updRx d r f).sclA = d.sclA := rfl
@[simp] theorem updRx_sclB (r : Nat) (f : Ring → Ring) : (updRx d r f).sclB = d.sclB := rfl
@[simp] theorem updRx_refs (r : Nat) (f : Ring → Ring) : (updRx d r f).refs = d.refs := rfl
@[simp] theorem updRx_sels (r : Nat) (f : Ring → Ring) : (updRx d r f).sels = d.sels := rfl
@[simp] theorem updRx_stalls (r : Nat) (f : Ring → Ring) : (updRx d r f).stalls = d.stalls := rfl
@[simp] theorem updRx_apls (r : Nat) (f : Ring → Ring) : (updRx d r f).apls = d.apls := rfl
@[simp] theorem updRx_outs (r : Nat) (f : Ring → Ring) : (updRx d r f).outs = d.outs := rfl
@[simp] theorem updRx_pulses (r : Nat) (f : Ring → Ring) : (updRx d r f).pulses = d.pulses := rfl
@[simp] theorem updRx_grids (r : Nat) (f : Ring → Ring) : (updRx d r f).grids = d.grids := rfl
@[simp] theorem updRx_trigs (r : Nat) (f : Ring → Ring) : (updRx d r f).trigs = d.trigs := rfl
@[simp] theorem updRx_tdc (r : Nat) (f : Ring → Ring) : (updRx d r f).tdc = d.tdc := rfl
@[simp] theorem updRx_gns (r : Nat) (f : Ring → Ring) : (updRx d r f).gns = d.gns := rfl
@[simp] theorem updRx_ports (r : Nat) (f : Ring → Ring) : (updRx d r f).ports = d.ports := rfl
@[simp] theorem updRx_tol (r : Nat) (f : Ring → Ring) : (updRx d r f).tol = d.tol := rfl
@[simp] theorem updRx_ptp (r : Nat) (f : Ring → Ring) : (updRx d r f).ptp = d.ptp := rfl
@[simp] theorem updRx_key (r : Nat) (f : Ring → Ring) : (updRx d r f).key = d.key := rfl
@[simp] theorem updRx_aud (r : Nat) (f : Ring → Ring) : (updRx d r f).aud = d.aud := rfl
@[simp] theorem updRx_twn (r : Nat) (f : Ring → Ring) : (updRx d r f).twn = d.twn := rfl
@[simp] theorem updRx_hal (r : Nat) (f : Ring → Ring) : (updRx d r f).hal = d.hal := rfl
@[simp] theorem updRx_jtag (r : Nat) (f : Ring → Ring) : (updRx d r f).jtag = d.jtag := rfl
@[simp] theorem updRx_gnsStore (r : Nat) (f : Ring → Ring) : (updRx d r f).gnsStore = d.gnsStore := rfl
@[simp] theorem updRx_nv (r : Nat) (f : Ring → Ring) : (updRx d r f).nv = d.nv := rfl
@[simp] theorem updRx_freeIdx (r : Nat) (f : Ring → Ring) : (updRx d r f).freeIdx = d.freeIdx := rfl

@[simp] theorem updTx_regs (r : Nat) (f : Ring → Ring) : (updTx d r f).regs = d.regs := rfl
@[simp] theorem updTx_eff (r : Nat) (f : Ring → Ring) : (updTx d r f).eff = d.eff := rfl
@[simp] theorem updTx_staged (r : Nat) (f : Ring → Ring) : (updTx d r f).staged = d.staged := rfl
@[simp] theorem updTx_pcie0 (r : Nat) (f : Ring → Ring) : (updTx d r f).pcie0 = d.pcie0 := rfl
@[simp] theorem updTx_pcie1 (r : Nat) (f : Ring → Ring) : (updTx d r f).pcie1 = d.pcie1 := rfl
@[simp] theorem updTx_cores (r : Nat) (f : Ring → Ring) : (updTx d r f).cores = d.cores := rfl
@[simp] theorem updTx_mspi (r : Nat) (f : Ring → Ring) : (updTx d r f).mspi = d.mspi := rfl
@[simp] theorem updTx_indWait (r : Nat) (f : Ring → Ring) : (updTx d r f).indWait = d.indWait := rfl
@[simp] theorem updTx_stamps (r : Nat) (f : Ring → Ring) : (updTx d r f).stamps = d.stamps := rfl
@[simp] theorem updTx_taken (r : Nat) (f : Ring → Ring) : (updTx d r f).taken = d.taken := rfl
@[simp] theorem updTx_pinHold (r : Nat) (f : Ring → Ring) : (updTx d r f).pinHold = d.pinHold := rfl
@[simp] theorem updTx_mspiErr (r : Nat) (f : Ring → Ring) : (updTx d r f).mspiErr = d.mspiErr := rfl
@[simp] theorem updTx_resp (r : Nat) (f : Ring → Ring) : (updTx d r f).resp = d.resp := rfl
@[simp] theorem updTx_out (r : Nat) (f : Ring → Ring) : (updTx d r f).out = d.out := rfl
@[simp] theorem updTx_t (r : Nat) (f : Ring → Ring) : (updTx d r f).t = d.t := rfl
@[simp] theorem updTx_bellCnt (r : Nat) (f : Ring → Ring) : (updTx d r f).bellCnt = d.bellCnt := rfl
@[simp] theorem updTx_gen (r : Nat) (f : Ring → Ring) : (updTx d r f).gen = d.gen := rfl
@[simp] theorem updTx_power (r : Nat) (f : Ring → Ring) : (updTx d r f).power = d.power := rfl
@[simp] theorem updTx_start (r : Nat) (f : Ring → Ring) : (updTx d r f).start = d.start := rfl
@[simp] theorem updTx_backup (r : Nat) (f : Ring → Ring) : (updTx d r f).backup = d.backup := rfl
@[simp] theorem updTx_flt (r : Nat) (f : Ring → Ring) : (updTx d r f).flt = d.flt := rfl
@[simp] theorem updTx_tal (r : Nat) (f : Ring → Ring) : (updTx d r f).tal = d.tal := rfl
@[simp] theorem updTx_cht (r : Nat) (f : Ring → Ring) : (updTx d r f).cht = d.cht := rfl
@[simp] theorem updTx_tsc (r : Nat) (f : Ring → Ring) : (updTx d r f).tsc = d.tsc := rfl
@[simp] theorem updTx_sclA (r : Nat) (f : Ring → Ring) : (updTx d r f).sclA = d.sclA := rfl
@[simp] theorem updTx_sclB (r : Nat) (f : Ring → Ring) : (updTx d r f).sclB = d.sclB := rfl
@[simp] theorem updTx_refs (r : Nat) (f : Ring → Ring) : (updTx d r f).refs = d.refs := rfl
@[simp] theorem updTx_sels (r : Nat) (f : Ring → Ring) : (updTx d r f).sels = d.sels := rfl
@[simp] theorem updTx_stalls (r : Nat) (f : Ring → Ring) : (updTx d r f).stalls = d.stalls := rfl
@[simp] theorem updTx_apls (r : Nat) (f : Ring → Ring) : (updTx d r f).apls = d.apls := rfl
@[simp] theorem updTx_outs (r : Nat) (f : Ring → Ring) : (updTx d r f).outs = d.outs := rfl
@[simp] theorem updTx_pulses (r : Nat) (f : Ring → Ring) : (updTx d r f).pulses = d.pulses := rfl
@[simp] theorem updTx_grids (r : Nat) (f : Ring → Ring) : (updTx d r f).grids = d.grids := rfl
@[simp] theorem updTx_trigs (r : Nat) (f : Ring → Ring) : (updTx d r f).trigs = d.trigs := rfl
@[simp] theorem updTx_tdc (r : Nat) (f : Ring → Ring) : (updTx d r f).tdc = d.tdc := rfl
@[simp] theorem updTx_gns (r : Nat) (f : Ring → Ring) : (updTx d r f).gns = d.gns := rfl
@[simp] theorem updTx_ports (r : Nat) (f : Ring → Ring) : (updTx d r f).ports = d.ports := rfl
@[simp] theorem updTx_tol (r : Nat) (f : Ring → Ring) : (updTx d r f).tol = d.tol := rfl
@[simp] theorem updTx_ptp (r : Nat) (f : Ring → Ring) : (updTx d r f).ptp = d.ptp := rfl
@[simp] theorem updTx_key (r : Nat) (f : Ring → Ring) : (updTx d r f).key = d.key := rfl
@[simp] theorem updTx_aud (r : Nat) (f : Ring → Ring) : (updTx d r f).aud = d.aud := rfl
@[simp] theorem updTx_twn (r : Nat) (f : Ring → Ring) : (updTx d r f).twn = d.twn := rfl
@[simp] theorem updTx_hal (r : Nat) (f : Ring → Ring) : (updTx d r f).hal = d.hal := rfl
@[simp] theorem updTx_jtag (r : Nat) (f : Ring → Ring) : (updTx d r f).jtag = d.jtag := rfl
@[simp] theorem updTx_gnsStore (r : Nat) (f : Ring → Ring) : (updTx d r f).gnsStore = d.gnsStore := rfl
@[simp] theorem updTx_nv (r : Nat) (f : Ring → Ring) : (updTx d r f).nv = d.nv := rfl
@[simp] theorem updTx_freeIdx (r : Nat) (f : Ring → Ring) : (updTx d r f).freeIdx = d.freeIdx := rfl

@[simp] theorem updScale_regs (b : Bool) (f : Scale → Scale) : (updScale d b f).regs = d.regs := by cases b <;> rfl
@[simp] theorem updScale_eff (b : Bool) (f : Scale → Scale) : (updScale d b f).eff = d.eff := by cases b <;> rfl
@[simp] theorem updScale_staged (b : Bool) (f : Scale → Scale) : (updScale d b f).staged = d.staged := by cases b <;> rfl
@[simp] theorem updScale_pcie0 (b : Bool) (f : Scale → Scale) : (updScale d b f).pcie0 = d.pcie0 := by cases b <;> rfl
@[simp] theorem updScale_pcie1 (b : Bool) (f : Scale → Scale) : (updScale d b f).pcie1 = d.pcie1 := by cases b <;> rfl
@[simp] theorem updScale_cores (b : Bool) (f : Scale → Scale) : (updScale d b f).cores = d.cores := by cases b <;> rfl
@[simp] theorem updScale_mspi (b : Bool) (f : Scale → Scale) : (updScale d b f).mspi = d.mspi := by cases b <;> rfl
@[simp] theorem updScale_mspiErr (b : Bool) (f : Scale → Scale) : (updScale d b f).mspiErr = d.mspiErr := by cases b <;> rfl
@[simp] theorem updScale_resp (b : Bool) (f : Scale → Scale) : (updScale d b f).resp = d.resp := by cases b <;> rfl
@[simp] theorem updScale_out (b : Bool) (f : Scale → Scale) : (updScale d b f).out = d.out := by cases b <;> rfl
@[simp] theorem updScale_t (b : Bool) (f : Scale → Scale) : (updScale d b f).t = d.t := by cases b <;> rfl
@[simp] theorem updScale_bellCnt (b : Bool) (f : Scale → Scale) : (updScale d b f).bellCnt = d.bellCnt := by cases b <;> rfl
@[simp] theorem updScale_gen (b : Bool) (f : Scale → Scale) : (updScale d b f).gen = d.gen := by cases b <;> rfl
@[simp] theorem updScale_power (b : Bool) (f : Scale → Scale) : (updScale d b f).power = d.power := by cases b <;> rfl
@[simp] theorem updScale_start (b : Bool) (f : Scale → Scale) : (updScale d b f).start = d.start := by cases b <;> rfl
@[simp] theorem updScale_backup (b : Bool) (f : Scale → Scale) : (updScale d b f).backup = d.backup := by cases b <;> rfl
@[simp] theorem updScale_flt (b : Bool) (f : Scale → Scale) : (updScale d b f).flt = d.flt := by cases b <;> rfl
@[simp] theorem updScale_tal (b : Bool) (f : Scale → Scale) : (updScale d b f).tal = d.tal := by cases b <;> rfl
@[simp] theorem updScale_cht (b : Bool) (f : Scale → Scale) : (updScale d b f).cht = d.cht := by cases b <;> rfl
@[simp] theorem updScale_sclA (b : Bool) (f : Scale → Scale) : (updScale d b f).sclA = d.sclA := by cases b <;> rfl
@[simp] theorem updScale_sclB (b : Bool) (f : Scale → Scale) : (updScale d b f).sclB = d.sclB := by cases b <;> rfl
@[simp] theorem updScale_refs (b : Bool) (f : Scale → Scale) : (updScale d b f).refs = d.refs := by cases b <;> rfl
@[simp] theorem updScale_sels (b : Bool) (f : Scale → Scale) : (updScale d b f).sels = d.sels := by cases b <;> rfl
@[simp] theorem updScale_stalls (b : Bool) (f : Scale → Scale) : (updScale d b f).stalls = d.stalls := by cases b <;> rfl
@[simp] theorem updScale_apls (b : Bool) (f : Scale → Scale) : (updScale d b f).apls = d.apls := by cases b <;> rfl
@[simp] theorem updScale_outs (b : Bool) (f : Scale → Scale) : (updScale d b f).outs = d.outs := by cases b <;> rfl
@[simp] theorem updScale_pulses (b : Bool) (f : Scale → Scale) : (updScale d b f).pulses = d.pulses := by cases b <;> rfl
@[simp] theorem updScale_grids (b : Bool) (f : Scale → Scale) : (updScale d b f).grids = d.grids := by cases b <;> rfl
@[simp] theorem updScale_trigs (b : Bool) (f : Scale → Scale) : (updScale d b f).trigs = d.trigs := by cases b <;> rfl
@[simp] theorem updScale_tdc (b : Bool) (f : Scale → Scale) : (updScale d b f).tdc = d.tdc := by cases b <;> rfl
@[simp] theorem updScale_gns (b : Bool) (f : Scale → Scale) : (updScale d b f).gns = d.gns := by cases b <;> rfl
@[simp] theorem updScale_ports (b : Bool) (f : Scale → Scale) : (updScale d b f).ports = d.ports := by cases b <;> rfl
@[simp] theorem updScale_tol (b : Bool) (f : Scale → Scale) : (updScale d b f).tol = d.tol := by cases b <;> rfl
@[simp] theorem updScale_ptp (b : Bool) (f : Scale → Scale) : (updScale d b f).ptp = d.ptp := by cases b <;> rfl
@[simp] theorem updScale_qmg (b : Bool) (f : Scale → Scale) : (updScale d b f).qmg = d.qmg := by cases b <;> rfl
@[simp] theorem updScale_key (b : Bool) (f : Scale → Scale) : (updScale d b f).key = d.key := by cases b <;> rfl
@[simp] theorem updScale_aud (b : Bool) (f : Scale → Scale) : (updScale d b f).aud = d.aud := by cases b <;> rfl
@[simp] theorem updScale_twn (b : Bool) (f : Scale → Scale) : (updScale d b f).twn = d.twn := by cases b <;> rfl
@[simp] theorem updScale_hal (b : Bool) (f : Scale → Scale) : (updScale d b f).hal = d.hal := by cases b <;> rfl
@[simp] theorem updScale_jtag (b : Bool) (f : Scale → Scale) : (updScale d b f).jtag = d.jtag := by cases b <;> rfl
@[simp] theorem updScale_gnsStore (b : Bool) (f : Scale → Scale) : (updScale d b f).gnsStore = d.gnsStore := by cases b <;> rfl
@[simp] theorem updScale_nv (b : Bool) (f : Scale → Scale) : (updScale d b f).nv = d.nv := by cases b <;> rfl
@[simp] theorem updScale_freeIdx (b : Bool) (f : Scale → Scale) : (updScale d b f).freeIdx = d.freeIdx := by cases b <;> rfl

@[simp] theorem updScl_regs (b : Bool) (f : Scl → Scl) : (updScl d b f).regs = d.regs := by cases b <;> rfl
@[simp] theorem updScl_eff (b : Bool) (f : Scl → Scl) : (updScl d b f).eff = d.eff := by cases b <;> rfl
@[simp] theorem updScl_staged (b : Bool) (f : Scl → Scl) : (updScl d b f).staged = d.staged := by cases b <;> rfl
@[simp] theorem updScl_pcie0 (b : Bool) (f : Scl → Scl) : (updScl d b f).pcie0 = d.pcie0 := by cases b <;> rfl
@[simp] theorem updScl_pcie1 (b : Bool) (f : Scl → Scl) : (updScl d b f).pcie1 = d.pcie1 := by cases b <;> rfl
@[simp] theorem updScl_cores (b : Bool) (f : Scl → Scl) : (updScl d b f).cores = d.cores := by cases b <;> rfl
@[simp] theorem updScl_mspi (b : Bool) (f : Scl → Scl) : (updScl d b f).mspi = d.mspi := by cases b <;> rfl
@[simp] theorem updScl_mspiErr (b : Bool) (f : Scl → Scl) : (updScl d b f).mspiErr = d.mspiErr := by cases b <;> rfl
@[simp] theorem updScl_resp (b : Bool) (f : Scl → Scl) : (updScl d b f).resp = d.resp := by cases b <;> rfl
@[simp] theorem updScl_out (b : Bool) (f : Scl → Scl) : (updScl d b f).out = d.out := by cases b <;> rfl
@[simp] theorem updScl_t (b : Bool) (f : Scl → Scl) : (updScl d b f).t = d.t := by cases b <;> rfl
@[simp] theorem updScl_bellCnt (b : Bool) (f : Scl → Scl) : (updScl d b f).bellCnt = d.bellCnt := by cases b <;> rfl
@[simp] theorem updScl_gen (b : Bool) (f : Scl → Scl) : (updScl d b f).gen = d.gen := by cases b <;> rfl
@[simp] theorem updScl_power (b : Bool) (f : Scl → Scl) : (updScl d b f).power = d.power := by cases b <;> rfl
@[simp] theorem updScl_start (b : Bool) (f : Scl → Scl) : (updScl d b f).start = d.start := by cases b <;> rfl
@[simp] theorem updScl_backup (b : Bool) (f : Scl → Scl) : (updScl d b f).backup = d.backup := by cases b <;> rfl
@[simp] theorem updScl_flt (b : Bool) (f : Scl → Scl) : (updScl d b f).flt = d.flt := by cases b <;> rfl
@[simp] theorem updScl_tal (b : Bool) (f : Scl → Scl) : (updScl d b f).tal = d.tal := by cases b <;> rfl
@[simp] theorem updScl_cht (b : Bool) (f : Scl → Scl) : (updScl d b f).cht = d.cht := by cases b <;> rfl
@[simp] theorem updScl_tsc (b : Bool) (f : Scl → Scl) : (updScl d b f).tsc = d.tsc := by cases b <;> rfl
@[simp] theorem updScl_refs (b : Bool) (f : Scl → Scl) : (updScl d b f).refs = d.refs := by cases b <;> rfl
@[simp] theorem updScl_sels (b : Bool) (f : Scl → Scl) : (updScl d b f).sels = d.sels := by cases b <;> rfl
@[simp] theorem updScl_stalls (b : Bool) (f : Scl → Scl) : (updScl d b f).stalls = d.stalls := by cases b <;> rfl
@[simp] theorem updScl_apls (b : Bool) (f : Scl → Scl) : (updScl d b f).apls = d.apls := by cases b <;> rfl
@[simp] theorem updScl_outs (b : Bool) (f : Scl → Scl) : (updScl d b f).outs = d.outs := by cases b <;> rfl
@[simp] theorem updScl_pulses (b : Bool) (f : Scl → Scl) : (updScl d b f).pulses = d.pulses := by cases b <;> rfl
@[simp] theorem updScl_grids (b : Bool) (f : Scl → Scl) : (updScl d b f).grids = d.grids := by cases b <;> rfl
@[simp] theorem updScl_trigs (b : Bool) (f : Scl → Scl) : (updScl d b f).trigs = d.trigs := by cases b <;> rfl
@[simp] theorem updScl_tdc (b : Bool) (f : Scl → Scl) : (updScl d b f).tdc = d.tdc := by cases b <;> rfl
@[simp] theorem updScl_gns (b : Bool) (f : Scl → Scl) : (updScl d b f).gns = d.gns := by cases b <;> rfl
@[simp] theorem updScl_ports (b : Bool) (f : Scl → Scl) : (updScl d b f).ports = d.ports := by cases b <;> rfl
@[simp] theorem updScl_tol (b : Bool) (f : Scl → Scl) : (updScl d b f).tol = d.tol := by cases b <;> rfl
@[simp] theorem updScl_ptp (b : Bool) (f : Scl → Scl) : (updScl d b f).ptp = d.ptp := by cases b <;> rfl
@[simp] theorem updScl_qmg (b : Bool) (f : Scl → Scl) : (updScl d b f).qmg = d.qmg := by cases b <;> rfl
@[simp] theorem updScl_key (b : Bool) (f : Scl → Scl) : (updScl d b f).key = d.key := by cases b <;> rfl
@[simp] theorem updScl_aud (b : Bool) (f : Scl → Scl) : (updScl d b f).aud = d.aud := by cases b <;> rfl
@[simp] theorem updScl_twn (b : Bool) (f : Scl → Scl) : (updScl d b f).twn = d.twn := by cases b <;> rfl
@[simp] theorem updScl_hal (b : Bool) (f : Scl → Scl) : (updScl d b f).hal = d.hal := by cases b <;> rfl
@[simp] theorem updScl_jtag (b : Bool) (f : Scl → Scl) : (updScl d b f).jtag = d.jtag := by cases b <;> rfl
@[simp] theorem updScl_gnsStore (b : Bool) (f : Scl → Scl) : (updScl d b f).gnsStore = d.gnsStore := by cases b <;> rfl
@[simp] theorem updScl_nv (b : Bool) (f : Scl → Scl) : (updScl d b f).nv = d.nv := by cases b <;> rfl
@[simp] theorem updScl_freeIdx (b : Bool) (f : Scl → Scl) : (updScl d b f).freeIdx = d.freeIdx := by cases b <;> rfl

@[simp] theorem setReqState_regs (r : Requester) (q : ReqState) : (setReqState d r q).regs = d.regs := by cases r <;> rfl
@[simp] theorem setReqState_eff (r : Requester) (q : ReqState) : (setReqState d r q).eff = d.eff := by cases r <;> rfl
@[simp] theorem setReqState_staged (r : Requester) (q : ReqState) : (setReqState d r q).staged = d.staged := by cases r <;> rfl
@[simp] theorem setReqState_mspiErr (r : Requester) (q : ReqState) : (setReqState d r q).mspiErr = d.mspiErr := by cases r <;> rfl
@[simp] theorem setReqState_resp (r : Requester) (q : ReqState) : (setReqState d r q).resp = d.resp := by cases r <;> rfl
@[simp] theorem setReqState_out (r : Requester) (q : ReqState) : (setReqState d r q).out = d.out := by cases r <;> rfl
@[simp] theorem setReqState_t (r : Requester) (q : ReqState) : (setReqState d r q).t = d.t := by cases r <;> rfl
@[simp] theorem setReqState_bellCnt (r : Requester) (q : ReqState) : (setReqState d r q).bellCnt = d.bellCnt := by cases r <;> rfl
@[simp] theorem setReqState_gen (r : Requester) (q : ReqState) : (setReqState d r q).gen = d.gen := by cases r <;> rfl
@[simp] theorem setReqState_power (r : Requester) (q : ReqState) : (setReqState d r q).power = d.power := by cases r <;> rfl
@[simp] theorem setReqState_start (r : Requester) (q : ReqState) : (setReqState d r q).start = d.start := by cases r <;> rfl
@[simp] theorem setReqState_backup (r : Requester) (q : ReqState) : (setReqState d r q).backup = d.backup := by cases r <;> rfl
@[simp] theorem setReqState_flt (r : Requester) (q : ReqState) : (setReqState d r q).flt = d.flt := by cases r <;> rfl
@[simp] theorem setReqState_tal (r : Requester) (q : ReqState) : (setReqState d r q).tal = d.tal := by cases r <;> rfl
@[simp] theorem setReqState_cht (r : Requester) (q : ReqState) : (setReqState d r q).cht = d.cht := by cases r <;> rfl
@[simp] theorem setReqState_tsc (r : Requester) (q : ReqState) : (setReqState d r q).tsc = d.tsc := by cases r <;> rfl
@[simp] theorem setReqState_sclA (r : Requester) (q : ReqState) : (setReqState d r q).sclA = d.sclA := by cases r <;> rfl
@[simp] theorem setReqState_sclB (r : Requester) (q : ReqState) : (setReqState d r q).sclB = d.sclB := by cases r <;> rfl
@[simp] theorem setReqState_refs (r : Requester) (q : ReqState) : (setReqState d r q).refs = d.refs := by cases r <;> rfl
@[simp] theorem setReqState_sels (r : Requester) (q : ReqState) : (setReqState d r q).sels = d.sels := by cases r <;> rfl
@[simp] theorem setReqState_stalls (r : Requester) (q : ReqState) : (setReqState d r q).stalls = d.stalls := by cases r <;> rfl
@[simp] theorem setReqState_apls (r : Requester) (q : ReqState) : (setReqState d r q).apls = d.apls := by cases r <;> rfl
@[simp] theorem setReqState_outs (r : Requester) (q : ReqState) : (setReqState d r q).outs = d.outs := by cases r <;> rfl
@[simp] theorem setReqState_pulses (r : Requester) (q : ReqState) : (setReqState d r q).pulses = d.pulses := by cases r <;> rfl
@[simp] theorem setReqState_grids (r : Requester) (q : ReqState) : (setReqState d r q).grids = d.grids := by cases r <;> rfl
@[simp] theorem setReqState_trigs (r : Requester) (q : ReqState) : (setReqState d r q).trigs = d.trigs := by cases r <;> rfl
@[simp] theorem setReqState_tdc (r : Requester) (q : ReqState) : (setReqState d r q).tdc = d.tdc := by cases r <;> rfl
@[simp] theorem setReqState_gns (r : Requester) (q : ReqState) : (setReqState d r q).gns = d.gns := by cases r <;> rfl
@[simp] theorem setReqState_ports (r : Requester) (q : ReqState) : (setReqState d r q).ports = d.ports := by cases r <;> rfl
@[simp] theorem setReqState_tol (r : Requester) (q : ReqState) : (setReqState d r q).tol = d.tol := by cases r <;> rfl
@[simp] theorem setReqState_ptp (r : Requester) (q : ReqState) : (setReqState d r q).ptp = d.ptp := by cases r <;> rfl
@[simp] theorem setReqState_qmg (r : Requester) (q : ReqState) : (setReqState d r q).qmg = d.qmg := by cases r <;> rfl
@[simp] theorem setReqState_key (r : Requester) (q : ReqState) : (setReqState d r q).key = d.key := by cases r <;> rfl
@[simp] theorem setReqState_aud (r : Requester) (q : ReqState) : (setReqState d r q).aud = d.aud := by cases r <;> rfl
@[simp] theorem setReqState_twn (r : Requester) (q : ReqState) : (setReqState d r q).twn = d.twn := by cases r <;> rfl
@[simp] theorem setReqState_hal (r : Requester) (q : ReqState) : (setReqState d r q).hal = d.hal := by cases r <;> rfl
@[simp] theorem setReqState_jtag (r : Requester) (q : ReqState) : (setReqState d r q).jtag = d.jtag := by cases r <;> rfl
@[simp] theorem setReqState_gnsStore (r : Requester) (q : ReqState) : (setReqState d r q).gnsStore = d.gnsStore := by cases r <;> rfl
@[simp] theorem setReqState_nv (r : Requester) (q : ReqState) : (setReqState d r q).nv = d.nv := by cases r <;> rfl
@[simp] theorem setReqState_freeIdx (r : Requester) (q : ReqState) : (setReqState d r q).freeIdx = d.freeIdx := by cases r <;> rfl

@[simp] theorem setReg_regs (k : Nat) (w : Word) : (setReg d k w).regs = sparseSet resetWord d.regs k w := rfl
@[simp] theorem setEff_eff (k : Nat) (w : Word) : (setEff d k w).eff = sparseSet resetWord d.eff k w := rfl
@[simp] theorem updRef_refs (r : Nat) (f : RefMon → RefMon) : (updRef d r f).refs = upd d.refs r f := rfl
@[simp] theorem updSel_sels (r : Nat) (f : Sel → Sel) : (updSel d r f).sels = upd d.sels r f := rfl
@[simp] theorem updStall_stalls (r : Nat) (f : Stall → Stall) : (updStall d r f).stalls = upd d.stalls r f := rfl
@[simp] theorem updApll_apls (r : Nat) (f : Apll → Apll) : (updApll d r f).apls = upd d.apls r f := rfl
@[simp] theorem updOut_outs (r : Nat) (f : Output → Output) : (updOut d r f).outs = upd d.outs r f := rfl
@[simp] theorem updPort_ports (r : Nat) (f : Port → Port) : (updPort d r f).ports = upd d.ports r f := rfl

end Sys2Proof.Machine
end

