-- ==== Sys2Proof/Laws/Regs.lean ====
section
/-! SUPPORT. Registers read back, the canonical form of every sparse store, and list updates. -/
namespace Sys2Proof.Machine
open Sys2Proof

@[simp] theorem rg_setReg_self (d : Dev) (k : Nat) (w : Word) : rg (setReg d k w) k = w := by
  simp [rg]

theorem rg_setReg_ne (d : Dev) {k j : Nat} (w : Word) (h : j ≠ k) : rg (setReg d k w) j = rg d j := by
  simp [rg, sparseGet_set_ne _ _ _ h]

theorem rg_setReg (d : Dev) (k j : Nat) (w : Word) : rg (setReg d k w) j = if j = k then w else rg d j := by
  split
  · next h => rw [h, rg_setReg_self]
  · next h => exact rg_setReg_ne d w h

@[simp] theorem ef_setEff_self (d : Dev) (k : Nat) (w : Word) : ef (setEff d k w) k = w := by
  simp [ef]

theorem ef_setEff_ne (d : Dev) {k j : Nat} (w : Word) (h : j ≠ k) : ef (setEff d k w) j = ef d j := by
  simp [ef, sparseGet_set_ne _ _ _ h]

theorem rg_statSet_ne (d : Dev) {win b j : Nat} (h : j ≠ win + 8) : rg (statSet d win b) j = rg d j :=
  rg_setReg_ne d _ h

theorem rg_countUp_ne (d : Dev) {k a b n j : Nat} (h : j ≠ k) : rg (countUp d k a b n) j = rg d j := rg_setReg_ne d _ h

theorem rg_putField_ne (d : Dev) {k a b n j : Nat} (h : j ≠ k) : rg (putField d k a b n) j = rg d j := rg_setReg_ne d _ h

/-- A register that shares its store with the device before. -/
theorem rg_congr {d e : Dev} (h : d.regs = e.regs) (k : Nat) : rg d k = rg e k := by simp [rg, h]

theorem ef_congr {d e : Dev} (h : d.eff = e.eff) (k : Nat) : ef d k = ef e k := by simp [ef, h]

/-! ### The canonical form -/

theorem canonical_reset : State.reset.dev.canonical = true := rfl

theorem setReg_canonical (d : Dev) (k : Nat) (w : Word) (h : d.canonical = true) : (setReg d k w).canonical = true := by
  simp only [Dev.canonical, Bool.and_eq_true] at h ⊢
  exact ⟨⟨sparseSet_wf _ _ _ _ h.1.1, h.1.2⟩, h.2⟩

theorem setEff_canonical (d : Dev) (k : Nat) (w : Word) (h : d.canonical = true) : (setEff d k w).canonical = true := by
  simp only [Dev.canonical, Bool.and_eq_true] at h ⊢
  exact ⟨⟨h.1.1, sparseSet_wf _ _ _ _ h.1.2⟩, h.2⟩

theorem setBoth_canonical (d : Dev) (k : Nat) (w : Word) (h : d.canonical = true) : (setBoth d k w).canonical = true :=
  setEff_canonical _ _ _ (setReg_canonical _ _ _ h)

theorem wipeRange_canonical (d : Dev) (a b : Nat) (h : d.canonical = true) : (wipeRange d a b).canonical = true := by
  simp only [Dev.canonical, Bool.and_eq_true] at h ⊢
  exact ⟨⟨sparseFilter_wf _ _ _ h.1.1, sparseFilter_wf _ _ _ h.1.2⟩, h.2⟩

theorem effWords_canonical (b : Boundary) (l : RegFile) (d : Dev) (h : d.canonical = true) :
    (effWords d b l).canonical = true := by
  induction l generalizing d with
  | nil => exact h
  | cons e r ih => exact ih _ (setEff_canonical _ _ _ h)

theorem nvPut_canonical (l : List Byte) (d : Dev) (a : Nat) (h : d.canonical = true) : (nvPut d a l).canonical = true := by
  induction l generalizing d a with
  | nil => exact h
  | cons b r ih =>
    refine ih _ _ ?_
    simp only [Dev.canonical, Bool.and_eq_true] at h ⊢
    exact ⟨h.1, sparseSet_wf _ _ _ _ h.2⟩

/-- Bytes of the NV store outside a write stay. -/
theorem nvGet_nvPut_ne (l : List Byte) (d : Dev) (a j : Nat) (h : j < a ∨ a + l.length ≤ j) :
    nvGet (nvPut d a l) j = nvGet d j := by
  induction l generalizing d a with
  | nil => rfl
  | cons b r ih =>
    simp only [List.length_cons] at h
    rw [nvPut, ih _ _ (by omega)]
    simp only [nvGet]
    exact sparseGet_set_ne _ _ _ (by omega)

/-- A write to the NV store reads back. -/
theorem nvGet_nvPut (l : List Byte) (d : Dev) (a i : Nat) (h : i < l.length) :
    nvGet (nvPut d a l) (a + i) = l.getD i 0 := by
  induction l generalizing d a i with
  | nil => simp at h
  | cons b r ih =>
    cases i with
    | zero =>
      rw [nvPut, nvGet_nvPut_ne _ _ _ _ (by omega)]
      simp [nvGet]
    | succ i =>
      have := ih { d with nv := sparseSet nvBlank d.nv a b } (a + 1) i (by simpa using h)
      rw [nvPut, show a + (i + 1) = a + 1 + i by omega, this]
      rfl

/-! ### Lists -/

theorem upd_getD {α : Type} (l : List α) (i j : Nat) (f : α → α) (x : α) (h : j < l.length) :
    (upd l i f).getD j x = if i = j then f (l.getD j x) else l.getD j x := by
  simp only [upd, List.getD_eq_getElem?_getD, List.getElem?_modify]
  rw [List.getElem?_eq_getElem h]
  split <;> simp

@[simp] theorem upd_length {α : Type} (l : List α) (i : Nat) (f : α → α) : (upd l i f).length = l.length := by
  simp [upd]

theorem upd_getD_ne {α : Type} (l : List α) {i j : Nat} (f : α → α) (x : α) (h : i ≠ j) :
    (upd l i f).getD j x = l.getD j x := by
  simp [upd, List.getD_eq_getElem?_getD, h]

/-- A function of the device that every step of a fold leaves alone, the fold leaves alone. -/
theorem foldl_frame {α β : Type} (f : Dev → α → Dev) (g : Dev → β) (h : ∀ d a, g (f d a) = g d) (l : List α) (d : Dev) :
    g (l.foldl f d) = g d := by
  induction l generalizing d with
  | nil => rfl
  | cons a r ih => rw [List.foldl_cons, ih, h]

end Sys2Proof.Machine
end

