-- ==== Sys2Proof/Laws/Settle.lean ====
section
/-! SUPPORT. The Tally and the interrupts at the end of a command: what they leave alone. -/
namespace Sys2Proof.Machine
open Sys2Proof

/-- Sending a message changes only the set bits of masked vectors and the outputs. -/
theorem sendMsix_eq (d : Dev) (s : Nat) : ∃ p o, sendMsix d s = { d with qmg := { d.qmg with pba := p }, out := o } := by
  have key : ∀ (fn vec : Nat), ∃ p o, (if msixMasked d fn vec then
      { d with qmg := { d.qmg with pba := if d.qmg.pba.contains (fn, vec) then d.qmg.pba else d.qmg.pba ++ [(fn, vec)] } }
      else emit d (.msix fn vec)) = { d with qmg := { d.qmg with pba := p }, out := o } := by
    intro fn vec
    split
    · exact ⟨_, _, rfl⟩
    · exact ⟨d.qmg.pba, _, rfl⟩
  unfold sendMsix
  simp only []
  split
  · exact key _ _
  · exact ⟨d.qmg.pba, d.out, rfl⟩

theorem quiet_sendMsix (d : Dev) (s : Nat) : quiet (sendMsix d s) = quiet d := by
  obtain ⟨p, o, h⟩ := sendMsix_eq d s
  rw [h]
  rfl

theorem tally_eq (d : Dev) (a b c : Nat) (acc : Option Access) : ∃ x, tally d a b c acc = { d with tal := x } := by
  unfold tally
  split
  · generalize List.range 16 = l
    suffices ∀ (l : List Nat) (e : Dev), (∃ x, e = { d with tal := x }) → ∃ x, l.foldl (fun d i =>
        let c1 := a * 16 + i
        if tallyHit (ef d (TAL_CFG + 16 * c1)) (ef d (TAL_ALO + 16 * c1)) (ef d (TAL_AHI + 16 * c1)) b c acc then
          tallyPut d c1 (min (tallyGet d c1 + 1) (2 ^ 48 - 1)) else d) e = { d with tal := x } from this l d ⟨d.tal, rfl⟩
    intro l
    induction l with
    | nil => intro e h; exact h
    | cons i r ih =>
      intro e h
      refine ih _ ?_
      obtain ⟨x, rfl⟩ := h
      dsimp only
      split
      · exact ⟨_, rfl⟩
      · exact ⟨_, rfl⟩
  · exact ⟨d.tal, rfl⟩

theorem quiet_tally (d : Dev) (a b c : Nat) (acc : Option Access) : quiet (tally d a b c acc) = quiet d := by
  obtain ⟨x, h⟩ := tally_eq d a b c acc
  rw [h]
  rfl

theorem quiet_settle (old d : Dev) : quiet (settle old d) = quiet d := by
  have h1 : quiet (tallyStatus old d) = quiet d := by
    unfold tallyStatus
    split
    · refine foldl_frame _ quiet (fun d w => ?_) _ _
      refine foldl_frame _ quiet (fun d i => ?_) _ _
      split
      · exact quiet_tally _ _ _ _ _
      · rfl
    · rfl
  have h2 : quiet (updateSources (tallyStatus old d)) = quiet d := by
    unfold updateSources
    exact (foldl_frame _ quiet quiet_sendMsix _ _).trans h1
  have h3 := congrArg Dev.qmg h2
  unfold settle
  show ({ d with tal := {}, out := [], qmg := (quiet (updateSources (tallyStatus old d))).qmg } : Dev) = _
  rw [h2]
  rfl

end Sys2Proof.Machine
end

