-- ==== Sys2Proof/Laws/End.lean ====
section
/-! SUPPORT. What the end of a command leaves alone: everything but the ports, the twin link, the interrupts, the Tally and the outcome counters of frames a port discards. -/
namespace Sys2Proof.Machine
open Sys2Proof

theorem restOf_tally (d : Dev) (a b c : Nat) (acc : Option Access) : restOf (tally d a b c acc) = restOf d := by
  unfold tally
  split
  · exact foldl_frame _ restOf (fun d i => by simp only []; split <;> rfl) _ _
  · rfl

theorem restOf_tallyStatus (old d : Dev) : restOf (tallyStatus old d) = restOf d := by
  unfold tallyStatus
  split
  · refine foldl_frame _ restOf (fun d w => ?_) _ _
    refine foldl_frame _ restOf (fun d i => ?_) _ _
    split
    · exact restOf_tally _ _ _ _ _
    · rfl
  · rfl

theorem restOf_tolOutcome (d : Dev) (c n : Nat) : restOf (tolOutcome d c n) = restOf d := by
  unfold tolOutcome
  simp only []
  split
  · rfl
  · split <;> rfl

theorem restOf_discardFrame (d : Dev) (p : Nat) (f : TxFrame) (b : Bool) : restOf (discardFrame d p f b) = restOf d := by
  unfold discardFrame
  dsimp only
  split
  · rfl
  · rfl
  · exact restOf_tolOutcome _ _ _
  · rfl

theorem restOf_dropLaunch (d : Dev) (p : Nat) (f : TxFrame) (k : Nat) : restOf (dropLaunch d p f k) = restOf d := by
  unfold dropLaunch
  dsimp only
  split
  · rfl
  · rfl
  · exact restOf_tolOutcome _ _ _
  · rfl

theorem restOf_discardQueued (d : Dev) (p : Nat) : restOf (discardQueued d p) = restOf d := by
  unfold discardQueued
  refine (foldl_frame _ restOf (fun d f => restOf_dropLaunch d p f 1) _ _).trans ?_
  exact foldl_frame _ restOf (fun d q => foldl_frame _ restOf (fun d f => restOf_discardFrame d p f true) q d) _ _

theorem restOf_portFollow (d : Dev) (p : Nat) : restOf (portFollow d p) = restOf d := by
  unfold portFollow
  dsimp only
  split
  · split <;> rfl
  · split
    · exact restOf_discardQueued d p
    · split <;> rfl

theorem restOf_keyFollow (d : Dev) : restOf (keyFollow d) = restOf d := by
  unfold keyFollow dropPartial
  split
  · split <;> rfl
  · rfl

theorem restOf_twinFollow (d : Dev) : restOf (twinFollow d) = restOf d := by
  unfold twinFollow
  dsimp only
  split
  · split <;> rfl
  · split
    · rfl
    · exact restOf_keyFollow d

/-- The end of a command keeps the rest of the device. -/
theorem restOf_ended (old d : Dev) : restOf (ended old d) = restOf d := by
  unfold ended
  refine (congrArg restOf (quiet_settle old _)).trans ?_
  show restOf (twinFollow ((List.range 6).foldl portFollow d)) = _
  rw [restOf_twinFollow]
  exact foldl_frame _ restOf restOf_portFollow _ _

@[simp] theorem ended_eff (old d : Dev) : (ended old d).eff = d.eff := by
  have h := congrArg Dev.eff (restOf_ended old d)
  exact h
@[simp] theorem ended_staged (old d : Dev) : (ended old d).staged = d.staged := by
  have h := congrArg Dev.staged (restOf_ended old d)
  exact h
@[simp] theorem ended_pcie0 (old d : Dev) : (ended old d).pcie0 = d.pcie0 := by
  have h := congrArg Dev.pcie0 (restOf_ended old d)
  exact h
@[simp] theorem ended_pcie1 (old d : Dev) : (ended old d).pcie1 = d.pcie1 := by
  have h := congrArg Dev.pcie1 (restOf_ended old d)
  exact h
@[simp] theorem ended_cores (old d : Dev) : (ended old d).cores = d.cores := by
  have h := congrArg Dev.cores (restOf_ended old d)
  exact h
@[simp] theorem ended_mspi (old d : Dev) : (ended old d).mspi = d.mspi := by
  have h := congrArg Dev.mspi (restOf_ended old d)
  exact h
@[simp] theorem ended_indWait (old d : Dev) : (ended old d).indWait = d.indWait := by
  have h := congrArg Dev.indWait (restOf_ended old d)
  exact h
@[simp] theorem ended_stamps (old d : Dev) : (ended old d).stamps = d.stamps := by
  have h := congrArg Dev.stamps (restOf_ended old d)
  exact h
@[simp] theorem ended_taken (old d : Dev) : (ended old d).taken = d.taken := by
  have h := congrArg Dev.taken (restOf_ended old d)
  exact h
@[simp] theorem ended_pinHold (old d : Dev) : (ended old d).pinHold = d.pinHold := by
  have h := congrArg Dev.pinHold (restOf_ended old d)
  exact h
@[simp] theorem ended_mspiErr (old d : Dev) : (ended old d).mspiErr = d.mspiErr := by
  have h := congrArg Dev.mspiErr (restOf_ended old d)
  exact h
@[simp] theorem ended_resp (old d : Dev) : (ended old d).resp = d.resp := by
  have h := congrArg Dev.resp (restOf_ended old d)
  exact h
@[simp] theorem ended_t (old d : Dev) : (ended old d).t = d.t := by
  have h := congrArg Dev.t (restOf_ended old d)
  exact h
@[simp] theorem ended_bellCnt (old d : Dev) : (ended old d).bellCnt = d.bellCnt := by
  have h := congrArg Dev.bellCnt (restOf_ended old d)
  exact h
@[simp] theorem ended_gen (old d : Dev) : (ended old d).gen = d.gen := by
  have h := congrArg Dev.gen (restOf_ended old d)
  exact h
@[simp] theorem ended_power (old d : Dev) : (ended old d).power = d.power := by
  have h := congrArg Dev.power (restOf_ended old d)
  exact h
@[simp] theorem ended_start (old d : Dev) : (ended old d).start = d.start := by
  have h := congrArg Dev.start (restOf_ended old d)
  exact h
@[simp] theorem ended_backup (old d : Dev) : (ended old d).backup = d.backup := by
  have h := congrArg Dev.backup (restOf_ended old d)
  exact h
@[simp] theorem ended_flt (old d : Dev) : (ended old d).flt = d.flt := by
  have h := congrArg Dev.flt (restOf_ended old d)
  exact h
@[simp] theorem ended_cht (old d : Dev) : (ended old d).cht = d.cht := by
  have h := congrArg Dev.cht (restOf_ended old d)
  exact h
@[simp] theorem ended_tsc (old d : Dev) : (ended old d).tsc = d.tsc := by
  have h := congrArg Dev.tsc (restOf_ended old d)
  exact h
@[simp] theorem ended_sclA (old d : Dev) : (ended old d).sclA = d.sclA := by
  have h := congrArg Dev.sclA (restOf_ended old d)
  exact h
@[simp] theorem ended_sclB (old d : Dev) : (ended old d).sclB = d.sclB := by
  have h := congrArg Dev.sclB (restOf_ended old d)
  exact h
@[simp] theorem ended_refs (old d : Dev) : (ended old d).refs = d.refs := by
  have h := congrArg Dev.refs (restOf_ended old d)
  exact h
@[simp] theorem ended_sels (old d : Dev) : (ended old d).sels = d.sels := by
  have h := congrArg Dev.sels (restOf_ended old d)
  exact h
@[simp] theorem ended_stalls (old d : Dev) : (ended old d).stalls = d.stalls := by
  have h := congrArg Dev.stalls (restOf_ended old d)
  exact h
@[simp] theorem ended_apls (old d : Dev) : (ended old d).apls = d.apls := by
  have h := congrArg Dev.apls (restOf_ended old d)
  exact h
@[simp] theorem ended_outs (old d : Dev) : (ended old d).outs = d.outs := by
  have h := congrArg Dev.outs (restOf_ended old d)
  exact h
@[simp] theorem ended_pulses (old d : Dev) : (ended old d).pulses = d.pulses := by
  have h := congrArg Dev.pulses (restOf_ended old d)
  exact h
@[simp] theorem ended_grids (old d : Dev) : (ended old d).grids = d.grids := by
  have h := congrArg Dev.grids (restOf_ended old d)
  exact h
@[simp] theorem ended_trigs (old d : Dev) : (ended old d).trigs = d.trigs := by
  have h := congrArg Dev.trigs (restOf_ended old d)
  exact h
@[simp] theorem ended_tdc (old d : Dev) : (ended old d).tdc = d.tdc := by
  have h := congrArg Dev.tdc (restOf_ended old d)
  exact h
@[simp] theorem ended_gns (old d : Dev) : (ended old d).gns = d.gns := by
  have h := congrArg Dev.gns (restOf_ended old d)
  exact h
@[simp] theorem ended_key (old d : Dev) : (ended old d).key = d.key := by
  have h := congrArg Dev.key (restOf_ended old d)
  exact h
@[simp] theorem ended_aud (old d : Dev) : (ended old d).aud = d.aud := by
  have h := congrArg Dev.aud (restOf_ended old d)
  exact h
@[simp] theorem ended_hal (old d : Dev) : (ended old d).hal = d.hal := by
  have h := congrArg Dev.hal (restOf_ended old d)
  exact h
@[simp] theorem ended_jtag (old d : Dev) : (ended old d).jtag = d.jtag := by
  have h := congrArg Dev.jtag (restOf_ended old d)
  exact h
@[simp] theorem ended_gnsStore (old d : Dev) : (ended old d).gnsStore = d.gnsStore := by
  have h := congrArg Dev.gnsStore (restOf_ended old d)
  exact h
@[simp] theorem ended_nv (old d : Dev) : (ended old d).nv = d.nv := by
  have h := congrArg Dev.nv (restOf_ended old d)
  exact h
@[simp] theorem ended_freeIdx (old d : Dev) : (ended old d).freeIdx = d.freeIdx := by
  have h := congrArg Dev.freeIdx (restOf_ended old d)
  exact h

@[simp] theorem ef_ended (old d : Dev) (k : Nat) : ef (ended old d) k = ef d k := ef_congr (ended_eff old d) k
@[simp] theorem efb_ended (old d : Dev) (k b : Nat) : efb (ended old d) k b = efb d k b := by simp [efb]
@[simp] theorem eff_ended (old d : Dev) (k a b : Nat) : Sys2Proof.Machine.eff (ended old d) k a b = Sys2Proof.Machine.eff d k a b := by
  simp [Sys2Proof.Machine.eff]

/-! ### Registers: only the windows of the ports and TOL's STAT may change -/

theorem rg_tolOutcome (d : Dev) (c n k : Nat) (h : quietKey k) : rg (tolOutcome d c n) k = rg d k := by
  have hk : k ≠ baseTol + 8 := by unfold quietKey at h; unfold baseTol; omega
  unfold tolOutcome
  dsimp only
  split
  · rw [rg_statSet_ne _ hk]; rfl
  · split
    · rw [rg_statSet_ne _ hk]; rfl
    · rfl

theorem rg_macCount (d : Dev) (p i k : Nat) (hp : p < 6) (hi : i < 32) (h : quietKey k) : rg (macCount d p i) k = rg d k := by
  unfold macCount
  refine rg_countUp_ne _ ?_
  unfold quietKey at h
  unfold MAC_CNT
  omega

theorem rg_discardFrame (d : Dev) (p : Nat) (f : TxFrame) (b : Bool) (k : Nat) (hp : p < 6) (h : quietKey k) :
    rg (discardFrame d p f b) k = rg d k := by
  have h1 := rg_macCount d p cntTxDisc k hp (by decide) h
  unfold discardFrame
  dsimp only
  split
  · exact h1
  · exact h1
  · rw [rg_tolOutcome _ _ _ _ h, h1]
  · exact h1

theorem rg_dropLaunch (d : Dev) (p : Nat) (f : TxFrame) (n k : Nat) (hp : p < 6) (h : quietKey k) :
    rg (dropLaunch d p f n) k = rg d k := by
  have hm : k ≠ macWin p + 8 := by unfold quietKey at h; unfold macWin baseMac; omega
  have h1 : rg (statSet (macCount d p (if n == 1 then cntLMissed else if n == 2 then cntLHorizon else cntLFull)) (macWin p) 20) k = rg d k := by
    rw [rg_statSet_ne _ hm]
    exact rg_macCount _ _ _ _ hp (by split <;> [decide; (split <;> decide)]) h
  unfold dropLaunch
  dsimp only
  split
  · exact h1
  · exact h1
  · rw [rg_tolOutcome _ _ _ _ h, h1]
  · exact h1

theorem rg_portFollow (d : Dev) (p k : Nat) (hp : p < 6) (h : quietKey k) : rg (portFollow d p) k = rg d k := by
  unfold portFollow
  dsimp only
  split
  · split <;> rfl
  · split
    · refine Eq.trans (b := rg (discardQueued d p) k) rfl ?_
      unfold discardQueued
      refine (foldl_frame _ (rg · k) (fun d f => rg_dropLaunch d p f 1 k hp h) _ _).trans ?_
      exact foldl_frame _ (rg · k) (fun d q => foldl_frame _ (rg · k) (fun d f => rg_discardFrame d p f true k hp h) q d) _ _
    · split <;> rfl

theorem rg_keyFollow (d : Dev) (k : Nat) (h : quietKey k) : rg (keyFollow d) k = rg d k := by
  have hk : k ≠ TWN_EVT := by unfold quietKey at h; unfold TWN_EVT; omega
  unfold keyFollow dropPartial
  split
  · split
    · exact rg_countUp_ne { d with twn := { d.twn with partSnap := none } } hk
    · rfl
  · rfl

theorem rg_twinFollow (d : Dev) (k : Nat) (h : quietKey k) : rg (twinFollow d) k = rg d k := by
  unfold twinFollow
  dsimp only
  split
  · split <;> rfl
  · split
    · rfl
    · exact rg_keyFollow d k h

/-- A register outside the ports' windows keeps its word at the end of a command. -/
theorem rg_ended (old d : Dev) (k : Nat) (h : quietKey k) : rg (ended old d) k = rg d k := by
  have h1 : ∀ (l : List Nat) (d : Dev), (∀ p ∈ l, p < 6) → rg (l.foldl portFollow d) k = rg d k := by
    intro l
    induction l with
    | nil => intro d _; rfl
    | cons p r ih =>
      intro d hl
      rw [List.foldl_cons, ih _ fun q hq => hl q (by simp [hq]), rg_portFollow _ _ _ (hl p (by simp)) h]
  exact Eq.trans (b := rg (twinFollow ((List.range 6).foldl portFollow d)) k) rfl
    ((rg_twinFollow _ k h).trans (h1 _ _ (by simp)))

@[simp] theorem ended_twn_lastHello (old d : Dev) : (ended old d).twn.lastHello = d.twn.lastHello := by
  have h := congrArg (fun x => x.twn.lastHello) (restOf_ended old d)
  exact h
@[simp] theorem ended_twn_partnerFloor (old d : Dev) : (ended old d).twn.partnerFloor = d.twn.partnerFloor := by
  have h := congrArg (fun x => x.twn.partnerFloor) (restOf_ended old d)
  exact h
@[simp] theorem ended_twn_cfgDiff (old d : Dev) : (ended old d).twn.cfgDiff = d.twn.cfgDiff := by
  have h := congrArg (fun x => x.twn.cfgDiff) (restOf_ended old d)
  exact h
@[simp] theorem ended_twn_agreed (old d : Dev) : (ended old d).twn.agreed = d.twn.agreed := by
  have h := congrArg (fun x => x.twn.agreed) (restOf_ended old d)
  exact h
@[simp] theorem ended_twn_vFail (old d : Dev) : (ended old d).twn.vFail = d.twn.vFail := by
  have h := congrArg (fun x => x.twn.vFail) (restOf_ended old d)
  exact h
@[simp] theorem ended_twn_partnerProt (old d : Dev) : (ended old d).twn.partnerProt = d.twn.partnerProt := by
  have h := congrArg (fun x => x.twn.partnerProt) (restOf_ended old d)
  exact h
@[simp] theorem ended_twn_txSeq (old d : Dev) : (ended old d).twn.txSeq = d.twn.txSeq := by
  have h := congrArg (fun x => x.twn.txSeq) (restOf_ended old d)
  exact h
@[simp] theorem ended_twn_rxSeq (old d : Dev) : (ended old d).twn.rxSeq = d.twn.rxSeq := by
  have h := congrArg (fun x => x.twn.rxSeq) (restOf_ended old d)
  exact h
@[simp] theorem ended_twn_lastTx (old d : Dev) : (ended old d).twn.lastTx = d.twn.lastTx := by
  have h := congrArg (fun x => x.twn.lastTx) (restOf_ended old d)
  exact h
@[simp] theorem ended_twn_lastRx (old d : Dev) : (ended old d).twn.lastRx = d.twn.lastRx := by
  have h := congrArg (fun x => x.twn.lastRx) (restOf_ended old d)
  exact h
@[simp] theorem ended_twn_theta (old d : Dev) : (ended old d).twn.theta = d.twn.theta := by
  have h := congrArg (fun x => x.twn.theta) (restOf_ended old d)
  exact h
@[simp] theorem ended_twn_rtt (old d : Dev) : (ended old d).twn.rtt = d.twn.rtt := by
  have h := congrArg (fun x => x.twn.rtt) (restOf_ended old d)
  exact h
@[simp] theorem ended_twn_thetas (old d : Dev) : (ended old d).twn.thetas = d.twn.thetas := by
  have h := congrArg (fun x => x.twn.thetas) (restOf_ended old d)
  exact h
@[simp] theorem ended_twn_rtw (old d : Dev) : (ended old d).twn.rtw = d.twn.rtw := by
  have h := congrArg (fun x => x.twn.rtw) (restOf_ended old d)
  exact h
@[simp] theorem ended_twn_meanTheta (old d : Dev) : (ended old d).twn.meanTheta = d.twn.meanTheta := by
  have h := congrArg (fun x => x.twn.meanTheta) (restOf_ended old d)
  exact h
@[simp] theorem ended_twn_prevMean (old d : Dev) : (ended old d).twn.prevMean = d.twn.prevMean := by
  have h := congrArg (fun x => x.twn.prevMean) (restOf_ended old d)
  exact h
@[simp] theorem ended_twn_missed (old d : Dev) : (ended old d).twn.missed = d.twn.missed := by
  have h := congrArg (fun x => x.twn.missed) (restOf_ended old d)
  exact h
@[simp] theorem ended_twn_hbLost (old d : Dev) : (ended old d).twn.hbLost = d.twn.hbLost := by
  have h := congrArg (fun x => x.twn.hbLost) (restOf_ended old d)
  exact h
@[simp] theorem ended_twn_abdicateSeen (old d : Dev) : (ended old d).twn.abdicateSeen = d.twn.abdicateSeen := by
  have h := congrArg (fun x => x.twn.abdicateSeen) (restOf_ended old d)
  exact h
@[simp] theorem ended_twn_causeTx (old d : Dev) : (ended old d).twn.causeTx = d.twn.causeTx := by
  have h := congrArg (fun x => x.twn.causeTx) (restOf_ended old d)
  exact h
@[simp] theorem ended_twn_causeRx (old d : Dev) : (ended old d).twn.causeRx = d.twn.causeRx := by
  have h := congrArg (fun x => x.twn.causeRx) (restOf_ended old d)
  exact h
@[simp] theorem ended_twn_takeover (old d : Dev) : (ended old d).twn.takeover = d.twn.takeover := by
  have h := congrArg (fun x => x.twn.takeover) (restOf_ended old d)
  exact h
@[simp] theorem ended_twn_abdFault (old d : Dev) : (ended old d).twn.abdFault = d.twn.abdFault := by
  have h := congrArg (fun x => x.twn.abdFault) (restOf_ended old d)
  exact h
@[simp] theorem ended_twn_snap (old d : Dev) : (ended old d).twn.snap = d.twn.snap := by
  have h := congrArg (fun x => x.twn.snap) (restOf_ended old d)
  exact h
@[simp] theorem ended_twn_loaded (old d : Dev) : (ended old d).twn.loaded = d.twn.loaded := by
  have h := congrArg (fun x => x.twn.loaded) (restOf_ended old d)
  exact h
@[simp] theorem ended_twn_ackBell (old d : Dev) : (ended old d).twn.ackBell = d.twn.ackBell := by
  have h := congrArg (fun x => x.twn.ackBell) (restOf_ended old d)
  exact h
@[simp] theorem ended_twn_changes (old d : Dev) : (ended old d).twn.changes = d.twn.changes := by
  have h := congrArg (fun x => x.twn.changes) (restOf_ended old d)
  exact h
@[simp] theorem ended_twn_refresh (old d : Dev) : (ended old d).twn.refresh = d.twn.refresh := by
  have h := congrArg (fun x => x.twn.refresh) (restOf_ended old d)
  exact h
@[simp] theorem ended_twn_snapLen (old d : Dev) : (ended old d).twn.snapLen = d.twn.snapLen := by
  have h := congrArg (fun x => x.twn.snapLen) (restOf_ended old d)
  exact h
@[simp] theorem ended_twn_behind (old d : Dev) : (ended old d).twn.behind = d.twn.behind := by
  have h := congrArg (fun x => x.twn.behind) (restOf_ended old d)
  exact h
@[simp] theorem ended_twn_drillAge (old d : Dev) : (ended old d).twn.drillAge = d.twn.drillAge := by
  have h := congrArg (fun x => x.twn.drillAge) (restOf_ended old d)
  exact h
@[simp] theorem ended_twn_drillLogged (old d : Dev) : (ended old d).twn.drillLogged = d.twn.drillLogged := by
  have h := congrArg (fun x => x.twn.drillLogged) (restOf_ended old d)
  exact h
@[simp] theorem ended_twn_swapTarget (old d : Dev) : (ended old d).twn.swapTarget = d.twn.swapTarget := by
  have h := congrArg (fun x => x.twn.swapTarget) (restOf_ended old d)
  exact h
@[simp] theorem ended_twn_swapAccepted (old d : Dev) : (ended old d).twn.swapAccepted = d.twn.swapAccepted := by
  have h := congrArg (fun x => x.twn.swapAccepted) (restOf_ended old d)
  exact h
@[simp] theorem ended_twn_outsel (old d : Dev) : (ended old d).twn.outsel = d.twn.outsel := by
  have h := congrArg (fun x => x.twn.outsel) (restOf_ended old d)
  exact h
@[simp] theorem ended_twn_cstateA (old d : Dev) : (ended old d).twn.cstateA = d.twn.cstateA := by
  have h := congrArg (fun x => x.twn.cstateA) (restOf_ended old d)
  exact h
@[simp] theorem ended_twn_cstateB (old d : Dev) : (ended old d).twn.cstateB = d.twn.cstateB := by
  have h := congrArg (fun x => x.twn.cstateB) (restOf_ended old d)
  exact h
@[simp] theorem ended_twn_refId (old d : Dev) : (ended old d).twn.refId = d.twn.refId := by
  have h := congrArg (fun x => x.twn.refId) (restOf_ended old d)
  exact h
@[simp] theorem ended_twn_stepO (old d : Dev) : (ended old d).twn.stepO = d.twn.stepO := by
  have h := congrArg (fun x => x.twn.stepO) (restOf_ended old d)
  exact h
@[simp] theorem ended_twn_stepPending (old d : Dev) : (ended old d).twn.stepPending = d.twn.stepPending := by
  have h := congrArg (fun x => x.twn.stepPending) (restOf_ended old d)
  exact h
@[simp] theorem ended_twn_stepBoth (old d : Dev) : (ended old d).twn.stepBoth = d.twn.stepBoth := by
  have h := congrArg (fun x => x.twn.stepBoth) (restOf_ended old d)
  exact h
@[simp] theorem ended_twn_coreA (old d : Dev) : (ended old d).twn.coreA = d.twn.coreA := by
  have h := congrArg (fun x => x.twn.coreA) (restOf_ended old d)
  exact h
@[simp] theorem ended_twn_coreB (old d : Dev) : (ended old d).twn.coreB = d.twn.coreB := by
  have h := congrArg (fun x => x.twn.coreB) (restOf_ended old d)
  exact h
@[simp] theorem ended_twn_diffA (old d : Dev) : (ended old d).twn.diffA = d.twn.diffA := by
  have h := congrArg (fun x => x.twn.diffA) (restOf_ended old d)
  exact h
@[simp] theorem ended_twn_diffB (old d : Dev) : (ended old d).twn.diffB = d.twn.diffB := by
  have h := congrArg (fun x => x.twn.diffB) (restOf_ended old d)
  exact h
@[simp] theorem ended_twn_announce (old d : Dev) : (ended old d).twn.announce = d.twn.announce := by
  have h := congrArg (fun x => x.twn.announce) (restOf_ended old d)
  exact h
@[simp] theorem ended_twn_mute (old d : Dev) : (ended old d).twn.mute = d.twn.mute := by
  have h := congrArg (fun x => x.twn.mute) (restOf_ended old d)
  exact h
@[simp] theorem ended_twn_muteToBell (old d : Dev) : (ended old d).twn.muteToBell = d.twn.muteToBell := by
  have h := congrArg (fun x => x.twn.muteToBell) (restOf_ended old d)
  exact h
@[simp] theorem ended_twn_muteLate (old d : Dev) : (ended old d).twn.muteLate = d.twn.muteLate := by
  have h := congrArg (fun x => x.twn.muteLate) (restOf_ended old d)
  exact h
@[simp] theorem ended_twn_ownStates (old d : Dev) : (ended old d).twn.ownStates = d.twn.ownStates := by
  have h := congrArg (fun x => x.twn.ownStates) (restOf_ended old d)
  exact h
@[simp] theorem ended_twn_twinSwitch (old d : Dev) : (ended old d).twn.twinSwitch = d.twn.twinSwitch := by
  have h := congrArg (fun x => x.twn.twinSwitch) (restOf_ended old d)
  exact h
@[simp] theorem ended_twn_selWait (old d : Dev) : (ended old d).twn.selWait = d.twn.selWait := by
  have h := congrArg (fun x => x.twn.selWait) (restOf_ended old d)
  exact h
@[simp] theorem ended_twn_selLate (old d : Dev) : (ended old d).twn.selLate = d.twn.selLate := by
  have h := congrArg (fun x => x.twn.selLate) (restOf_ended old d)
  exact h
@[simp] theorem ended_twn_helloT (old d : Dev) : (ended old d).twn.helloT = d.twn.helloT := by
  have h := congrArg (fun x => x.twn.helloT) (restOf_ended old d)
  exact h
@[simp] theorem ended_twn_slotMs (old d : Dev) : (ended old d).twn.slotMs = d.twn.slotMs := by
  have h := congrArg (fun x => x.twn.slotMs) (restOf_ended old d)
  exact h
@[simp] theorem ended_twn_exT (old d : Dev) : (ended old d).twn.exT = d.twn.exT := by
  have h := congrArg (fun x => x.twn.exT) (restOf_ended old d)
  exact h
@[simp] theorem ended_twn_seenMs (old d : Dev) : (ended old d).twn.seenMs = d.twn.seenMs := by
  have h := congrArg (fun x => x.twn.seenMs) (restOf_ended old d)
  exact h
@[simp] theorem ended_twn_aliveT (old d : Dev) : (ended old d).twn.aliveT = d.twn.aliveT := by
  have h := congrArg (fun x => x.twn.aliveT) (restOf_ended old d)
  exact h
@[simp] theorem ended_twn_timingT (old d : Dev) : (ended old d).twn.timingT = d.twn.timingT := by
  have h := congrArg (fun x => x.twn.timingT) (restOf_ended old d)
  exact h
@[simp] theorem ended_twn_sent (old d : Dev) : (ended old d).twn.sent = d.twn.sent := by
  have h := congrArg (fun x => x.twn.sent) (restOf_ended old d)
  exact h
@[simp] theorem ended_tol_queue (old d : Dev) : (ended old d).tol.queue = d.tol.queue := by
  have h := congrArg (fun x => x.tol.queue) (restOf_ended old d)
  exact h
@[simp] theorem ended_tol_e (old d : Dev) : (ended old d).tol.e = d.tol.e := by
  have h := congrArg (fun x => x.tol.e) (restOf_ended old d)
  exact h
@[simp] theorem ended_tol_age (old d : Dev) : (ended old d).tol.age = d.tol.age := by
  have h := congrArg (fun x => x.tol.age) (restOf_ended old d)
  exact h
@[simp] theorem ended_tol_startAdv (old d : Dev) : (ended old d).tol.startAdv = d.tol.startAdv := by
  have h := congrArg (fun x => x.tol.startAdv) (restOf_ended old d)
  exact h
@[simp] theorem ended_tol_nextReady (old d : Dev) : (ended old d).tol.nextReady = d.tol.nextReady := by
  have h := congrArg (fun x => x.tol.nextReady) (restOf_ended old d)
  exact h
@[simp] theorem ended_tol_advance (old d : Dev) : (ended old d).tol.advance = d.tol.advance := by
  have h := congrArg (fun x => x.tol.advance) (restOf_ended old d)
  exact h
@[simp] theorem ended_tol_advanceLate (old d : Dev) : (ended old d).tol.advanceLate = d.tol.advanceLate := by
  have h := congrArg (fun x => x.tol.advanceLate) (restOf_ended old d)
  exact h
@[simp] theorem ended_tol_cache (old d : Dev) : (ended old d).tol.cache = d.tol.cache := by
  have h := congrArg (fun x => x.tol.cache) (restOf_ended old d)
  exact h
@[simp] theorem ended_tol_ready (old d : Dev) : (ended old d).tol.ready = d.tol.ready := by
  have h := congrArg (fun x => x.tol.ready) (restOf_ended old d)
  exact h
@[simp] theorem ended_tol_lockedAt (old d : Dev) : (ended old d).tol.lockedAt = d.tol.lockedAt := by
  have h := congrArg (fun x => x.tol.lockedAt) (restOf_ended old d)
  exact h
@[simp] theorem ended_tol_lastRef (old d : Dev) : (ended old d).tol.lastRef = d.tol.lastRef := by
  have h := congrArg (fun x => x.tol.lastRef) (restOf_ended old d)
  exact h
@[simp] theorem ended_tol_partnerRefId (old d : Dev) : (ended old d).tol.partnerRefId = d.tol.partnerRefId := by
  have h := congrArg (fun x => x.tol.partnerRefId) (restOf_ended old d)
  exact h
@[simp] theorem ended_qmg_rxq (old d : Dev) : (ended old d).qmg.rxq = d.qmg.rxq := by
  have h := congrArg (fun x => x.qmg.rxq) (restOf_ended old d)
  exact h
@[simp] theorem ended_qmg_msix (old d : Dev) : (ended old d).qmg.msix = d.qmg.msix := by
  have h := congrArg (fun x => x.qmg.msix) (restOf_ended old d)
  exact h
@[simp] theorem ended_qmg_granted (old d : Dev) : (ended old d).qmg.granted = d.qmg.granted := by
  have h := congrArg (fun x => x.qmg.granted) (restOf_ended old d)
  exact h
@[simp] theorem ended_qmg_portHeld (old d : Dev) : (ended old d).qmg.portHeld = d.qmg.portHeld := by
  have h := congrArg (fun x => x.qmg.portHeld) (restOf_ended old d)
  exact h
@[simp] theorem ended_qmg_aidBound (old d : Dev) : (ended old d).qmg.aidBound = d.qmg.aidBound := by
  have h := congrArg (fun x => x.qmg.aidBound) (restOf_ended old d)
  exact h
@[simp] theorem ended_qmg_mintBound (old d : Dev) : (ended old d).qmg.mintBound = d.qmg.mintBound := by
  have h := congrArg (fun x => x.qmg.mintBound) (restOf_ended old d)
  exact h
@[simp] theorem ended_ptp_cals (old d : Dev) : (ended old d).ptp.cals = d.ptp.cals := by
  have h := congrArg (fun x => x.ptp.cals) (restOf_ended old d)
  exact h
@[simp] theorem ended_ptp_entries (old d : Dev) : (ended old d).ptp.entries = d.ptp.entries := by
  have h := congrArg (fun x => x.ptp.entries) (restOf_ended old d)
  exact h
@[simp] theorem ended_ptp_grants (old d : Dev) : (ended old d).ptp.grants = d.ptp.grants := by
  have h := congrArg (fun x => x.ptp.grants) (restOf_ended old d)
  exact h
@[simp] theorem ended_ptp_slots (old d : Dev) : (ended old d).ptp.slots = d.ptp.slots := by
  have h := congrArg (fun x => x.ptp.slots) (restOf_ended old d)
  exact h
@[simp] theorem ended_ptp_pds (old d : Dev) : (ended old d).ptp.pds = d.ptp.pds := by
  have h := congrArg (fun x => x.ptp.pds) (restOf_ended old d)
  exact h
@[simp] theorem ended_ptp_mld (old d : Dev) : (ended old d).ptp.mld = d.ptp.mld := by
  have h := congrArg (fun x => x.ptp.mld) (restOf_ended old d)
  exact h
@[simp] theorem ended_ptp_pdReq (old d : Dev) : (ended old d).ptp.pdReq = d.ptp.pdReq := by
  have h := congrArg (fun x => x.ptp.pdReq) (restOf_ended old d)
  exact h
@[simp] theorem ended_ptp_pdSeq (old d : Dev) : (ended old d).ptp.pdSeq = d.ptp.pdSeq := by
  have h := congrArg (fun x => x.ptp.pdSeq) (restOf_ended old d)
  exact h
@[simp] theorem ended_ptp_stepCnt (old d : Dev) : (ended old d).ptp.stepCnt = d.ptp.stepCnt := by
  have h := congrArg (fun x => x.ptp.stepCnt) (restOf_ended old d)
  exact h
@[simp] theorem ended_ptp_storing (old d : Dev) : (ended old d).ptp.storing = d.ptp.storing := by
  have h := congrArg (fun x => x.ptp.storing) (restOf_ended old d)
  exact h

end Sys2Proof.Machine
end

