-- ==== Sys2Proof/Laws/Calm.lean ====
section
/-! SUPPORT. A command that leaves the device calm changes nothing at its end but the Tally, the pending sources and the outputs; and how an access that is served runs. -/
namespace Sys2Proof.Machine
open Sys2Proof

theorem updPort_beyond (d : Dev) (p : Nat) (f : Port → Port) (h : d.ports.length ≤ p) : updPort d p f = d := by
  have : upd d.ports p f = d.ports := by
    unfold upd
    exact List.modify_eq_self h
  unfold updPort
  rw [this]

theorem portOf_beyond (d : Dev) (p : Nat) (h : d.ports.length ≤ p) : portOf d p = {} := by
  unfold portOf
  rw [List.getD_eq_getElem?_getD, List.getElem?_eq_none h]
  rfl

/-- A calm port stays as it is. -/
theorem portFollow_calm (d : Dev) (p : Nat) (h : portCalm d p = true) : portFollow d p = d := by
  unfold portCalm at h
  unfold portFollow
  simp only [Bool.or_eq_true, decide_eq_true_eq] at h
  rcases h with h | h
  · rw [portOf_beyond d p h]
    simp only [updPort_beyond d p _ h]
    split
    · split <;> rfl
    · next h2 => exact absurd rfl h2
  · generalize (portOf d p).st = st at *
    generalize portEnabled d p = a at *
    generalize (inService d || d.gen.mode == .bringup) = b at *
    generalize enOf d (macWin p) = c at *
    generalize heldInReset d 13 p = e at *
    cases st <;> cases a <;> cases b <;> cases c <;> cases e <;> first | rfl | cases h

theorem keyFollow_calm (d : Dev) (h : keyCalm d = true) : keyFollow d = d := by
  unfold keyCalm at h
  unfold keyFollow dropPartial
  split
  · next hp =>
    simp only [hp, Bool.not_true, Bool.false_or, Bool.and_eq_true, Bool.not_eq_true', List.isEmpty_iff, beq_iff_eq,
      Option.isNone_iff_eq_none] at h
    obtain ⟨⟨⟨h1, h2⟩, h3⟩, h4⟩ := h
    rw [h4]
    simp only [Option.isSome_none, Bool.false_eq_true, if_false]
    rw [← h1, ← h2, ← h3]
  · rfl

theorem twinFollow_calm (d : Dev) (h : twinCalm d = true) : twinFollow d = d := by
  unfold twinCalm at h
  unfold twinFollow
  simp only [Bool.and_eq_true] at h
  rw [keyFollow_calm d h.1]
  replace h := h.2
  simp only [] at h ⊢
  generalize hl : d.twn.link = l at *
  generalize (enOf d baseTwn && !heldInReset d 19 0) = a at *
  generalize (inService d || d.gen.mode == .bringup) = b at *
  cases l <;> cases a <;> cases b <;> first | rfl | cases h

theorem follow_calm (d : Dev) (h : calm d = true) : twinFollow ((List.range 6).foldl portFollow d) = d := by
  simp only [calm, Bool.and_eq_true, List.all_eq_true] at h
  have hp : (List.range 6).foldl portFollow d = d := by
    have := h.1
    generalize List.range 6 = l at this
    induction l with
    | nil => rfl
    | cons p r ih =>
      rw [List.foldl_cons, portFollow_calm d p (this p (by simp))]
      exact ih fun q hq => this q (by simp [hq])
  rw [hp, twinFollow_calm d h.2]

/-- The end of a command that leaves the device calm changes nothing else. -/
theorem quiet_ended (old d : Dev) (h : calm d = true) : quiet (ended old d) = quiet d := by
  unfold ended
  rw [follow_calm d h, quiet_settle]

/-! ### A command that answers -/

theorem gives_act {i : Instr} {s : State} {f : Dev → Dev} {P : Dev → Prop} (h : exec i s = act s f)
    (hp : P (ended s.dev (f { s.dev with out := [] }))) : Gives i s P :=
  ⟨_, h, rfl, hp⟩

/-- An access that is served runs its effect, after its Tally event. -/
theorem withAccess_served {d : Dev} {r : Requester} {off : Nat} (ev : Nat) (f : Dev → Dev) (h : Served d r off) :
    withAccess d r off ev f = f (tally { d with resp := ⟨.ok, []⟩ } ((slotOf (regAt off)).getD 24) 1 ev (some (accOf r (regAt off)))) := by
  obtain ⟨h2, h3, h4⟩ := h
  unfold withAccess
  rw [h2]
  simp only []
  have h5 : inBlockReset { d with resp := ⟨.ok, []⟩ } (regAt off) = false := h4
  unfold regAt at *
  rw [h5]
  generalize (if off < 0x800000 then off else (off - 0x800000) / 128 * 4) = a at *
  cases hw : wardenOnly a
  · simp
  · simp [h3 hw]

/-- The access as its effect finds it: the Tally may have counted it. -/
theorem withAccess_served_eq {d : Dev} {r : Requester} {off : Nat} (ev : Nat) (f : Dev → Dev) (h : Served d r off) :
    ∃ x, withAccess d r off ev f = f { d with resp := ⟨.ok, []⟩, tal := x } := by
  obtain ⟨x, hx⟩ := tally_eq { d with resp := ⟨.ok, []⟩ } ((slotOf (regAt off)).getD 24) 1 ev (some (accOf r (regAt off)))
  exact ⟨x, by rw [withAccess_served ev f h, hx]⟩

theorem served_out {d : Dev} {r : Requester} {off : Nat} (h : Served d r off) : Served { d with out := [] } r off := h

end Sys2Proof.Machine
end

