-- ==== Sys2Proof/Laws/Exec.lean ====
section
/-! SUPPORT. How each command answers: its effect on the device, ended as every command ends. -/
namespace Sys2Proof.Machine
open Sys2Proof

theorem gives_coreRailsValid (s : State) {P : Dev → Prop}
    (h : P (ended s.dev ((coreRailsValid : Dev → Dev) { s.dev with out := [] }))) : Gives (.coreRailsValid) s P := ⟨_, rfl, rfl, h⟩

theorem gives_coreRailsFail (s : State) {P : Dev → Prop}
    (h : P (ended s.dev ((coreRailsFail : Dev → Dev) { s.dev with out := [] }))) : Gives (.coreRailsFail) s P := ⟨_, rfl, rfl, h⟩

theorem gives_porstNLow (s : State) {P : Dev → Prop}
    (h : P (ended s.dev ((porstNLow : Dev → Dev) { s.dev with out := [] }))) : Gives (.porstNLow) s P := ⟨_, rfl, rfl, h⟩

theorem gives_porstNRise (testmode : Bool) (s : State) {P : Dev → Prop}
    (h : P (ended s.dev ((fun d => porstNRise d testmode : Dev → Dev) { s.dev with out := [] }))) : Gives (.porstNRise testmode) s P := ⟨_, rfl, rfl, h⟩

theorem gives_rstNLow (s : State) {P : Dev → Prop}
    (h : P (ended s.dev ((rstNLow : Dev → Dev) { s.dev with out := [] }))) : Gives (.rstNLow) s P := ⟨_, rfl, rfl, h⟩

theorem gives_rstNRelease (s : State) {P : Dev → Prop}
    (h : P (ended s.dev ((rstNRelease : Dev → Dev) { s.dev with out := [] }))) : Gives (.rstNRelease) s P := ⟨_, rfl, rfl, h⟩

theorem gives_perstN (s : State) {P : Dev → Prop}
    (h : P (ended s.dev ((perstN : Dev → Dev) { s.dev with out := [] }))) : Gives (.perstN) s P := ⟨_, rfl, rfl, h⟩

theorem gives_functionLevelReset (fn : Nat) (s : State) {P : Dev → Prop}
    (h : P (ended s.dev ((fun d => functionLevelReset d fn : Dev → Dev) { s.dev with out := [] }))) : Gives (.functionLevelReset fn) s P := ⟨_, rfl, rfl, h⟩

theorem gives_brownoutHoldBegin (vcore : Nat) (s : State) {P : Dev → Prop}
    (h : P (ended s.dev ((fun d => brownoutHoldBegin d vcore : Dev → Dev) { s.dev with out := [] }))) : Gives (.brownoutHoldBegin vcore) s P := ⟨_, rfl, rfl, h⟩

theorem gives_brownoutHoldEnd (vcore : Nat) (s : State) {P : Dev → Prop}
    (h : P (ended s.dev ((fun d => atTick (holdEndDue d) (fun e => brownoutHoldEnd e vcore) d : Dev → Dev) { s.dev with out := [] }))) : Gives (.brownoutHoldEnd vcore) s P := ⟨_, rfl, rfl, h⟩

theorem gives_brownoutReset (vcore : Nat) (s : State) {P : Dev → Prop}
    (h : P (ended s.dev ((fun d => brownoutReset d vcore : Dev → Dev) { s.dev with out := [] }))) : Gives (.brownoutReset vcore) s P := ⟨_, rfl, rfl, h⟩

theorem gives_brownoutResetRelease (vcore : Nat) (s : State) {P : Dev → Prop}
    (h : P (ended s.dev ((fun d => brownoutResetRelease d vcore : Dev → Dev) { s.dev with out := [] }))) : Gives (.brownoutResetRelease vcore) s P := ⟨_, rfl, rfl, h⟩

theorem gives_trimLoadComplete (crcOk : Bool) (image : FuseImage) (s : State) {P : Dev → Prop}
    (h : P (ended s.dev ((fun d => trimLoad d crcOk image : Dev → Dev) { s.dev with out := [] }))) : Gives (.trimLoadComplete crcOk image) s P := ⟨_, rfl, rfl, h⟩

theorem gives_clockDomainGood (dom hz : Nat) (s : State) {P : Dev → Prop}
    (h : P (ended s.dev ((fun d => domainGood d dom hz : Dev → Dev) { s.dev with out := [] }))) : Gives (.clockDomainGood dom hz) s P := ⟨_, rfl, rfl, h⟩

theorem gives_clockDomainTimeout (dom : Nat) (s : State) {P : Dev → Prop}
    (h : P (ended s.dev ((fun d => atTick? (deferredDue d dom) (fun e => domainTimeout e dom) d : Dev → Dev) { s.dev with out := [] }))) : Gives (.clockDomainTimeout dom) s P := ⟨_, rfl, rfl, h⟩

theorem gives_clockLoss (dom : Nat) (s : State) {P : Dev → Prop}
    (h : P (ended s.dev ((fun d => clockLoss d dom : Dev → Dev) { s.dev with out := [] }))) : Gives (.clockLoss dom) s P := ⟨_, rfl, rfl, h⟩

theorem gives_charterFlashReadComplete (slot : Nat) (image : List Byte) (s : State) {P : Dev → Prop}
    (h : P (ended s.dev ((fun d => flashRead d slot image : Dev → Dev) { s.dev with out := [] }))) : Gives (.charterFlashReadComplete slot image) s P := ⟨_, rfl, rfl, h⟩

theorem gives_flashIoFail (s : State) {P : Dev → Prop}
    (h : P (ended s.dev ((flashIoFail : Dev → Dev) { s.dev with out := [] }))) : Gives (.flashIoFail) s P := ⟨_, rfl, rfl, h⟩

theorem gives_fabricBuildComplete (s : State) {P : Dev → Prop}
    (h : P (ended s.dev ((fabricBuilt : Dev → Dev) { s.dev with out := [] }))) : Gives (.fabricBuildComplete) s P := ⟨_, rfl, rfl, h⟩

theorem gives_selfTestComplete (res : SelfTestIn) (s : State) {P : Dev → Prop}
    (h : P (ended s.dev ((fun d => selfTest d res : Dev → Dev) { s.dev with out := [] }))) : Gives (.selfTestComplete res) s P := ⟨_, rfl, rfl, h⟩

theorem gives_holdupEnergyTimeout (s : State) {P : Dev → Prop}
    (h : P (ended s.dev ((fun d => atTick (energyDue d) energyTimeout d : Dev → Dev) { s.dev with out := [] }))) : Gives (.holdupEnergyTimeout) s P := ⟨_, rfl, rfl, h⟩

theorem gives_bringupWatchdogExpiry (s : State) {P : Dev → Prop}
    (h : P (ended s.dev ((fun d => atTick (bringupDue d) bringupWatchdog d : Dev → Dev) { s.dev with out := [] }))) : Gives (.bringupWatchdogExpiry) s P := ⟨_, rfl, rfl, h⟩

theorem gives_startSuccessCount (s : State) {P : Dev → Prop}
    (h : P (ended s.dev ((startSuccess : Dev → Dev) { s.dev with out := [] }))) : Gives (.startSuccessCount) s P := ⟨_, rfl, rfl, h⟩

theorem gives_claimWaitExpiry (s : State) {P : Dev → Prop}
    (h : P (ended s.dev ((fun d => atTick (claimDue d) claimExpiry d : Dev → Dev) { s.dev with out := [] }))) : Gives (.claimWaitExpiry) s P := ⟨_, rfl, rfl, h⟩

theorem gives_twfloorLowInClaim (s : State) {P : Dev → Prop}
    (h : P (ended s.dev ((floorInClaim : Dev → Dev) { s.dev with out := [] }))) : Gives (.twfloorLowInClaim) s P := ⟨_, rfl, rfl, h⟩

theorem gives_watchdogExpiry (s : State) {P : Dev → Prop}
    (h : P (ended s.dev ((fun d => atTick? (wdogDue d) watchdogExpiry d : Dev → Dev) { s.dev with out := [] }))) : Gives (.watchdogExpiry) s P := ⟨_, rfl, rfl, h⟩

theorem gives_rstWdogWrite (req : Requester) (val : Word) (s : State) {P : Dev → Prop}
    (h : P (ended s.dev ((fun d => withWrite d req RST_WDOG fun d => wdogWrite d val : Dev → Dev) { s.dev with out := [] }))) : Gives (.rstWdogWrite req val) s P := ⟨_, rfl, rfl, h⟩

theorem gives_rstCmdBlockReset (req : Requester) (val : Word) (s : State) {P : Dev → Prop}
    (h : P (ended s.dev ((fun d => withWrite d req RST_CMD fun d => rstBlock d val : Dev → Dev) { s.dev with out := [] }))) : Gives (.rstCmdBlockReset req val) s P := ⟨_, rfl, rfl, h⟩

theorem gives_rstCmdChipReset (req : Requester) (val : Word) (s : State) {P : Dev → Prop}
    (h : P (ended s.dev ((fun d => withWrite d req RST_CMD fun d => rstChip d val : Dev → Dev) { s.dev with out := [] }))) : Gives (.rstCmdChipReset req val) s P := ⟨_, rfl, rfl, h⟩

theorem gives_rstCmdCoresReset (req : Requester) (val : Word) (s : State) {P : Dev → Prop}
    (h : P (ended s.dev ((fun d => withWrite d req RST_CMD fun d => rstCores d val : Dev → Dev) { s.dev with out := [] }))) : Gives (.rstCmdCoresReset req val) s P := ⟨_, rfl, rfl, h⟩

theorem gives_blockQuiesced (s : State) {P : Dev → Prop}
    (h : P (ended s.dev ((blockQuiesced : Dev → Dev) { s.dev with out := [] }))) : Gives (.blockQuiesced) s P := ⟨_, rfl, rfl, h⟩

theorem gives_quiesceTimeout (s : State) {P : Dev → Prop}
    (h : P (ended s.dev ((fun d => atTick? (quiesceDue d) quiesceTimeout d : Dev → Dev) { s.dev with out := [] }))) : Gives (.quiesceTimeout) s P := ⟨_, rfl, rfl, h⟩

theorem gives_blockResetRelease (s : State) {P : Dev → Prop}
    (h : P (ended s.dev ((fun d => atTick? (releaseDue d) resetReleased d : Dev → Dev) { s.dev with out := [] }))) : Gives (.blockResetRelease) s P := ⟨_, rfl, rfl, h⟩

theorem gives_bell (inp : BellIn) (s : State) {P : Dev → Prop}
    (h : P (ended s.dev (((bellNow inp) : Dev → Dev) { s.dev with out := [] }))) : Gives (.bell inp) s P := ⟨_, rfl, rfl, h⟩

theorem gives_suppressedWrap (s : State) {P : Dev → Prop}
    (h : P (ended s.dev ((suppressedWrap : Dev → Dev) { s.dev with out := [] }))) : Gives (.suppressedWrap) s P := ⟨_, rfl, rfl, h⟩

theorem gives_preBell (s : State) {P : Dev → Prop}
    (h : P (ended s.dev ((preBell : Dev → Dev) { s.dev with out := [] }))) : Gives (.preBell) s P := ⟨_, rfl, rfl, h⟩

theorem gives_stageArming (b : Boundary) (s : State) {P : Dev → Prop}
    (h : P (ended s.dev (((stageArming b) : Dev → Dev) { s.dev with out := [] }))) : Gives (.stageArming b) s P := ⟨_, rfl, rfl, h⟩

theorem gives_checkpointComplete (s : State) {P : Dev → Prop}
    (h : P (ended s.dev ((checkpointComplete : Dev → Dev) { s.dev with out := [] }))) : Gives (.checkpointComplete) s P := ⟨_, rfl, rfl, h⟩

theorem gives_ledgerExtractIssue (signedInTime : Bool) (s : State) {P : Dev → Prop}
    (h : P (ended s.dev ((fun d => issueExtract (issueExtract d false signedInTime) true signedInTime : Dev → Dev) { s.dev with out := [] }))) : Gives (.ledgerExtractIssue signedInTime) s P := ⟨_, rfl, rfl, h⟩

theorem gives_ledgerRingDelivery (s : State) {P : Dev → Prop}
    (h : P (ended s.dev ((ledgerDelivery : Dev → Dev) { s.dev with out := [] }))) : Gives (.ledgerRingDelivery) s P := ⟨_, rfl, rfl, h⟩

theorem gives_tallyRingDelivery (s : State) {P : Dev → Prop}
    (h : P (ended s.dev ((tallyDelivery : Dev → Dev) { s.dev with out := [] }))) : Gives (.tallyRingDelivery) s P := ⟨_, rfl, rfl, h⟩

theorem gives_registerWrite (req : Requester) (off bytes : Nat) (val : Word) (s : State) {P : Dev → Prop}
    (h : P (ended s.dev ((fun d => sized d bytes fun d => busWrite d req off val : Dev → Dev) { s.dev with out := [] }))) : Gives (.registerWrite req off bytes val) s P := ⟨_, rfl, rfl, h⟩

theorem gives_readClearRead (req : Requester) (off bytes : Nat) (s : State) {P : Dev → Prop}
    (h : P (ended s.dev ((fun d => sized d bytes fun d => busRead d req off : Dev → Dev) { s.dev with out := [] }))) : Gives (.readClearRead req off bytes) s P := ⟨_, rfl, rfl, h⟩

theorem gives_latchingRead (req : Requester) (off bytes : Nat) (s : State) {P : Dev → Prop}
    (h : P (ended s.dev ((fun d => sized d bytes fun d => busRead d req off : Dev → Dev) { s.dev with out := [] }))) : Gives (.latchingRead req off bytes) s P := ⟨_, rfl, rfl, h⟩

theorem gives_aliasRead (req : Requester) (off bytes : Nat) (s : State) {P : Dev → Prop}
    (h : P (ended s.dev ((fun d => sized d bytes fun d => if inAlias off then busRead d req off else d : Dev → Dev) { s.dev with out := [] }))) : Gives (.aliasRead req off bytes) s P := ⟨_, rfl, rfl, h⟩

theorem gives_aliasWrite (req : Requester) (off bytes : Nat) (val : Word) (s : State) {P : Dev → Prop}
    (h : P (ended s.dev ((fun d => sized d bytes fun d => if inAlias off then busWrite d req off val else d : Dev → Dev) { s.dev with out := [] }))) : Gives (.aliasWrite req off bytes val) s P := ⟨_, rfl, rfl, h⟩

theorem gives_indDataRead (req : Requester) (slot : Nat) (s : State) {P : Dev → Prop}
    (h : P (ended s.dev ((fun d => if hasInd slot then busRead d req (indBase slot + 4) else d : Dev → Dev) { s.dev with out := [] }))) : Gives (.indDataRead req slot) s P := ⟨_, rfl, rfl, h⟩

theorem gives_indDataWrite (req : Requester) (slot : Nat) (val : Word) (s : State) {P : Dev → Prop}
    (h : P (ended s.dev ((fun d => if hasInd slot then busWrite d req (indBase slot + 4) val else d : Dev → Dev) { s.dev with out := [] }))) : Gives (.indDataWrite req slot val) s P := ⟨_, rfl, rfl, h⟩

theorem gives_indTimeout (req : Requester) (slot : Nat) (s : State) {P : Dev → Prop}
    (h : P (ended s.dev ((fun d =>
    if !hasInd slot then d
    else if d.indWait.any (isInd req slot) then indTimeout d req slot
    else withRead d req (indBase slot + 4) (fun d => indTimeout d req slot) : Dev → Dev) { s.dev with out := [] }))) : Gives (.indTimeout req slot) s P := ⟨_, rfl, rfl, h⟩

theorem gives_genVerOfferWrite (req : Requester) (val : Word) (s : State) {P : Dev → Prop}
    (h : P (ended s.dev ((fun d => withWrite d req GEN_VER_OFFER (fun d => verOffer d req val) : Dev → Dev) { s.dev with out := [] }))) : Gives (.genVerOfferWrite req val) s P := ⟨_, rfl, rfl, h⟩

theorem gives_tscLrdSelWrite (req : Requester) (val : Word) (s : State) {P : Dev → Prop}
    (h : P (ended s.dev ((fun d => withWrite d req TSC_LRD_SEL fun d => lrdSel d req val : Dev → Dev) { s.dev with out := [] }))) : Gives (.tscLrdSelWrite req val) s P := ⟨_, rfl, rfl, h⟩

theorem gives_scSetNsWrite (req : Requester) (scale : Nat) (val : Word) (s : State) {P : Dev → Prop}
    (h : P (ended s.dev ((fun d =>
    if 1 < scale then d
    else withWrite d req (scKey SC_SET_NS scale) fun d =>
      classWrite d (scKey SC_SET_NS scale) val (some (accOf req (scKey SC_SET_NS scale))) : Dev → Dev) { s.dev with out := [] }))) : Gives (.scSetNsWrite req scale val) s P := ⟨_, rfl, rfl, h⟩

theorem gives_scStepHiWrite (req : Requester) (scale : Nat) (val : Word) (s : State) {P : Dev → Prop}
    (h : P (ended s.dev ((fun d =>
    if 1 < scale then d
    else withWrite d req (scKey SC_STEP_HI scale) fun d =>
      classWrite d (scKey SC_STEP_HI scale) val (some (accOf req (scKey SC_STEP_HI scale))) : Dev → Dev) { s.dev with out := [] }))) : Gives (.scStepHiWrite req scale val) s P := ⟨_, rfl, rfl, h⟩

theorem gives_loadStream (req : Requester) (s : State) {P : Dev → Prop}
    (h : P (ended s.dev ((fun d => withWrite d req CHT_CMD loadStream : Dev → Dev) { s.dev with out := [] }))) : Gives (.loadStream req) s P := ⟨_, rfl, rfl, h⟩

theorem gives_loadFlash (req : Requester) (slot : Nat) (s : State) {P : Dev → Prop}
    (h : P (ended s.dev ((fun d => withWrite d req CHT_CMD fun d => loadFlash d slot : Dev → Dev) { s.dev with out := [] }))) : Gives (.loadFlash req slot) s P := ⟨_, rfl, rfl, h⟩

theorem gives_arm (req : Requester) (s : State) {P : Dev → Prop}
    (h : P (ended s.dev ((fun d => withWrite d req CHT_CMD armDelta : Dev → Dev) { s.dev with out := [] }))) : Gives (.arm req) s P := ⟨_, rfl, rfl, h⟩

theorem gives_flashWrite (req : Requester) (slot : Nat) (s : State) {P : Dev → Prop}
    (h : P (ended s.dev ((fun d => withWrite d req CHT_CMD fun d => flashWrite d slot : Dev → Dev) { s.dev with out := [] }))) : Gives (.flashWrite req slot) s P := ⟨_, rfl, rfl, h⟩

theorem gives_abort (req : Requester) (s : State) {P : Dev → Prop}
    (h : P (ended s.dev ((fun d => withWrite d req CHT_CMD abortLoad : Dev → Dev) { s.dev with out := [] }))) : Gives (.abort req) s P := ⟨_, rfl, rfl, h⟩

theorem gives_chtLoadDataWrite (req : Requester) (val : Word) (s : State) {P : Dev → Prop}
    (h : P (ended s.dev ((fun d => withWrite d req CHT_LOAD_DATA fun d => loadData d val : Dev → Dev) { s.dev with out := [] }))) : Gives (.chtLoadDataWrite req val) s P := ⟨_, rfl, rfl, h⟩

theorem gives_verifyComplete (s : State) {P : Dev → Prop}
    (h : P (ended s.dev ((verifyComplete : Dev → Dev) { s.dev with out := [] }))) : Gives (.verifyComplete) s P := ⟨_, rfl, rfl, h⟩

theorem gives_shadowBuildComplete (s : State) {P : Dev → Prop}
    (h : P (ended s.dev ((fun d => if d.cht.st == .building && d.cht.shadowIsDelta then { d with cht := { d.cht with st := .ready } } else d : Dev → Dev) { s.dev with out := [] }))) : Gives (.shadowBuildComplete) s P := ⟨_, rfl, rfl, h⟩

theorem gives_flashWriteComplete (equal : Bool) (s : State) {P : Dev → Prop}
    (h : P (ended s.dev ((fun d => flashWriteComplete d equal : Dev → Dev) { s.dev with out := [] }))) : Gives (.flashWriteComplete equal) s P := ⟨_, rfl, rfl, h⟩

theorem gives_holdoverPointBoundary (scale : Nat) (s : State) {P : Dev → Prop}
    (h : P (ended s.dev ((fun d => if 1 < scale then d else pointBoundary d (scale == 1) : Dev → Dev) { s.dev with out := [] }))) : Gives (.holdoverPointBoundary scale) s P := ⟨_, rfl, rfl, h⟩

theorem gives_refPresent (ref : Nat) (s : State) {P : Dev → Prop}
    (h : P (ended s.dev ((fun d => if sourceValid d ref then refPresent d ref else d : Dev → Dev) { s.dev with out := [] }))) : Gives (.refPresent ref) s P := ⟨_, rfl, rfl, h⟩

theorem gives_refQualify (ref : Nat) (s : State) {P : Dev → Prop}
    (h : P (ended s.dev (((qualifyEvent ref) : Dev → Dev) { s.dev with out := [] }))) : Gives (.refQualify ref) s P := ⟨_, rfl, rfl, h⟩

theorem gives_refLoss (ref cause : Nat) (s : State) {P : Dev → Prop}
    (h : P (ended s.dev ((fun d => refLoss d ref cause : Dev → Dev) { s.dev with out := [] }))) : Gives (.refLoss ref cause) s P := ⟨_, rfl, rfl, h⟩

theorem gives_holdoffExpiry (stall : Nat) (s : State) {P : Dev → Prop}
    (h : P (ended s.dev (((holdOffEvent stall) : Dev → Dev) { s.dev with out := [] }))) : Gives (.holdoffExpiry stall) s P := ⟨_, rfl, rfl, h⟩

theorem gives_refEvaluation (meas : List RefMeas) (s : State) {P : Dev → Prop}
    (h : P (ended s.dev ((fun d => atTick (evaluationDue d) (fun e => refEvaluation e meas) d : Dev → Dev) { s.dev with out := [] }))) : Gives (.refEvaluation meas) s P := ⟨_, rfl, rfl, h⟩

theorem gives_selDclrWrite (req : Requester) (stall : Nat) (val : Word) (s : State) {P : Dev → Prop}
    (h : P (ended s.dev ((fun d => if 31 < stall then d else withWrite d req (selKey SEL_DCLR stall) fun d => selDclr d stall val : Dev → Dev) { s.dev with out := [] }))) : Gives (.selDclrWrite req stall val) s P := ⟨_, rfl, rfl, h⟩

theorem gives_refLockoutWrite (req : Requester) (val : Word) (s : State) {P : Dev → Prop}
    (h : P (ended s.dev ((fun d => withWrite d req REF_LOCKOUT fun d => refLockout d val : Dev → Dev) { s.dev with out := [] }))) : Gives (.refLockoutWrite req val) s P := ⟨_, rfl, rfl, h⟩

theorem gives_stallUpdate (stall : Nat) (phase : Int) (s : State) {P : Dev → Prop}
    (h : P (ended s.dev ((fun d => stallUpdate d stall phase : Dev → Dev) { s.dev with out := [] }))) : Gives (.stallUpdate stall phase) s P := ⟨_, rfl, rfl, h⟩

theorem gives_apllLockAssert (n : Nat) (s : State) {P : Dev → Prop}
    (h : P (ended s.dev ((fun d => apllLockAssert d n : Dev → Dev) { s.dev with out := [] }))) : Gives (.apllLockAssert n) s P := ⟨_, rfl, rfl, h⟩

theorem gives_apllLockLoss (n : Nat) (s : State) {P : Dev → Prop}
    (h : P (ended s.dev ((fun d => apllLockLoss d n : Dev → Dev) { s.dev with out := [] }))) : Gives (.apllLockLoss n) s P := ⟨_, rfl, rfl, h⟩

theorem gives_apllRefLoss (n : Nat) (s : State) {P : Dev → Prop}
    (h : P (ended s.dev ((fun d => apllRefLoss d n : Dev → Dev) { s.dev with out := [] }))) : Gives (.apllRefLoss n) s P := ⟨_, rfl, rfl, h⟩

theorem gives_phaseStepperStep (n : Nat) (half : Bool) (s : State) {P : Dev → Prop}
    (h : P (ended s.dev ((fun d => if 4 ≤ n then d else stepperStep d n half : Dev → Dev) { s.dev with out := [] }))) : Gives (.phaseStepperStep n half) s P := ⟨_, rfl, rfl, h⟩

theorem gives_pulseInstant (n : Nat) (s : State) {P : Dev → Prop}
    (h : P (ended s.dev (((pulseEvent n) : Dev → Dev) { s.dev with out := [] }))) : Gives (.pulseInstant n) s P := ⟨_, rfl, rfl, h⟩

theorem gives_pulseWidthEnd (trig : Bool) (n : Nat) (s : State) {P : Dev → Prop}
    (h : P (ended s.dev ((fun d => atTick? (widthDue d trig n) (fun e => widthEnd e trig n) d : Dev → Dev) { s.dev with out := [] }))) : Gives (.pulseWidthEnd trig n) s P := ⟨_, rfl, rfl, h⟩

theorem gives_pulseInputEdge (ref : Nat) (falling : Bool) (sub : Nat) (s : State) {P : Dev → Prop}
    (h : P (ended s.dev ((fun d => pulseInput d ref falling sub : Dev → Dev) { s.dev with out := [] }))) : Gives (.pulseInputEdge ref falling sub) s P := ⟨_, rfl, rfl, h⟩

theorem gives_missingInputPulse (ref : Nat) (s : State) {P : Dev → Prop}
    (h : P (ended s.dev ((fun d => atTick? (pulseWindowEnd d ref) (fun e => missingPulse e ref) d : Dev → Dev) { s.dev with out := [] }))) : Gives (.missingInputPulse ref) s P := ⟨_, rfl, rfl, h⟩

theorem gives_gridBoundary (g : Nat) (s : State) {P : Dev → Prop}
    (h : P (ended s.dev (((gridEvent g) : Dev → Dev) { s.dev with out := [] }))) : Gives (.gridBoundary g) s P := ⟨_, rfl, rfl, h⟩

theorem gives_gridEdge (g sub : Nat) (s : State) {P : Dev → Prop}
    (h : P (ended s.dev ((fun d => gridEdge d g sub : Dev → Dev) { s.dev with out := [] }))) : Gives (.gridEdge g sub) s P := ⟨_, rfl, rfl, h⟩

theorem gives_gridFlywheel (g : Nat) (s : State) {P : Dev → Prop}
    (h : P (ended s.dev (((flywheelEvent g) : Dev → Dev) { s.dev with out := [] }))) : Gives (.gridFlywheel g) s P := ⟨_, rfl, rfl, h⟩

theorem gives_triggerInstant (n : Nat) (s : State) {P : Dev → Prop}
    (h : P (ended s.dev (((triggerEvent n) : Dev → Dev) { s.dev with out := [] }))) : Gives (.triggerInstant n) s P := ⟨_, rfl, rfl, h⟩

theorem gives_trnCntHiWrite (req : Requester) (n : Nat) (val : Word) (s : State) {P : Dev → Prop}
    (h : P (ended s.dev ((fun d => if 15 < n then d else withWrite d req (grKey TR_CNT_HI n) fun d => trigArm d n val : Dev → Dev) { s.dev with out := [] }))) : Gives (.trnCntHiWrite req n val) s P := ⟨_, rfl, rfl, h⟩

theorem gives_captureEdge (n : Nat) (falling : Bool) (sub : Nat) (s : State) {P : Dev → Prop}
    (h : P (ended s.dev ((fun d => captureEdge d n falling sub : Dev → Dev) { s.dev with out := [] }))) : Gives (.captureEdge n falling sub) s P := ⟨_, rfl, rfl, h⟩

theorem gives_trnCap0Read (req : Requester) (n : Nat) (s : State) {P : Dev → Prop}
    (h : P (ended s.dev ((fun d => if 15 < n then d else withRead d req (grKey TR_CAP n) fun d => capPop d req n : Dev → Dev) { s.dev with out := [] }))) : Gives (.trnCap0Read req n) s P := ⟨_, rfl, rfl, h⟩

theorem gives_tdcStartEdge (e : TdcIn) (s : State) {P : Dev → Prop}
    (h : P (ended s.dev ((fun d => tdcEdge d 0 e : Dev → Dev) { s.dev with out := [] }))) : Gives (.tdcStartEdge e) s P := ⟨_, rfl, rfl, h⟩

theorem gives_tdcStopEdge (input : Nat) (e : TdcIn) (s : State) {P : Dev → Prop}
    (h : P (ended s.dev ((fun d => if input == 0 then d else tdcEdge d input e : Dev → Dev) { s.dev with out := [] }))) : Gives (.tdcStopEdge input e) s P := ⟨_, rfl, rfl, h⟩

theorem gives_tdcWindowExpiry (s : State) {P : Dev → Prop}
    (h : P (ended s.dev ((fun d => atTick? (windowDue d) (fun e => tdcClose e false false false) d : Dev → Dev) { s.dev with out := [] }))) : Gives (.tdcWindowExpiry) s P := ⟨_, rfl, rfl, h⟩

theorem gives_tdcTimestampEdge (input : Nat) (e : TdcIn) (s : State) {P : Dev → Prop}
    (h : P (ended s.dev ((fun d => tdcEdge d input e : Dev → Dev) { s.dev with out := [] }))) : Gives (.tdcTimestampEdge input e) s P := ⟨_, rfl, rfl, h⟩

theorem gives_tdcGateClose (s : State) {P : Dev → Prop}
    (h : P (ended s.dev ((fun d => atTick? (gateDue d) gateClose d : Dev → Dev) { s.dev with out := [] }))) : Gives (.tdcGateClose) s P := ⟨_, rfl, rfl, h⟩

theorem gives_tdcMinute (rdy : Bool) (s : State) {P : Dev → Prop}
    (h : P (ended s.dev ((fun d => atTick (minuteDue d) (fun e => tdcMinute e rdy) d : Dev → Dev) { s.dev with out := [] }))) : Gives (.tdcMinute rdy) s P := ⟨_, rfl, rfl, h⟩

theorem gives_tdcCalibrationComplete (res : CalResult) (s : State) {P : Dev → Prop}
    (h : P (ended s.dev ((fun d => calDone d res : Dev → Dev) { s.dev with out := [] }))) : Gives (.tdcCalibrationComplete res) s P := ⟨_, rfl, rfl, h⟩

theorem gives_tdcRes0Read (req : Requester) (s : State) {P : Dev → Prop}
    (h : P (ended s.dev ((fun d => withRead d req TDC_RES fun d => tdcPop d req : Dev → Dev) { s.dev with out := [] }))) : Gives (.tdcRes0Read req) s P := ⟨_, rfl, rfl, h⟩

theorem gives_gclkRecovery (s : State) {P : Dev → Prop}
    (h : P (ended s.dev ((fun d => atTick (gclkDue d) gclkRecovery d : Dev → Dev) { s.dev with out := [] }))) : Gives (.gclkRecovery) s P := ⟨_, rfl, rfl, h⟩

theorem gives_searchDwellComplete (who : Searcher) (inp : DwellIn) (s : State) {P : Dev → Prop}
    (h : P (ended s.dev ((fun d => dwell d who inp : Dev → Dev) { s.dev with out := [] }))) : Gives (.searchDwellComplete who inp) s P := ⟨_, rfl, rfl, h⟩

theorem gives_searchTimeout (ch : Nat) (s : State) {P : Dev → Prop}
    (h : P (ended s.dev ((fun d => atTick? (searchEnd d ch) (fun e => searchTimeout e ch) d : Dev → Dev) { s.dev with out := [] }))) : Gives (.searchTimeout ch) s P := ⟨_, rfl, rfl, h⟩

theorem gives_channelTrack (ch : Nat) (s : State) {P : Dev → Prop}
    (h : P (ended s.dev ((fun d => channelTrack d ch : Dev → Dev) { s.dev with out := [] }))) : Gives (.channelTrack ch) s P := ⟨_, rfl, rfl, h⟩

theorem gives_navUnitDecoded (u : NavUnit) (s : State) {P : Dev → Prop}
    (h : P (ended s.dev ((fun d => navUnit d u : Dev → Dev) { s.dev with out := [] }))) : Gives (.navUnitDecoded u) s P := ⟨_, rfl, rfl, h⟩

theorem gives_gnssStoreWrite (item : Nat) (s : State) {P : Dev → Prop}
    (h : P (ended s.dev ((fun d => gnssStore d item : Dev → Dev) { s.dev with out := [] }))) : Gives (.gnssStoreWrite item) s P := ⟨_, rfl, rfl, h⟩

theorem gives_aidRecord (content : NavContent) (s : State) {P : Dev → Prop}
    (h : P (ended s.dev ((fun d => aidRecord d content : Dev → Dev) { s.dev with out := [] }))) : Gives (.aidRecord content) s P := ⟨_, rfl, rfl, h⟩

theorem gives_solutionEpoch (inp : EpochIn) (s : State) {P : Dev → Prop}
    (h : P (ended s.dev (((epochEvent inp) : Dev → Dev) { s.dev with out := [] }))) : Gives (.solutionEpoch inp) s P := ⟨_, rfl, rfl, h⟩

theorem gives_gnPosZHiWrite (req : Requester) (val : Word) (s : State) {P : Dev → Prop}
    (h : P (ended s.dev ((fun d => withWrite d req gnsIndData fun d => gnsWrite d GN_POS_Z_HI val (some (accOf req gnsIndData)) : Dev → Dev) { s.dev with out := [] }))) : Gives (.gnPosZHiWrite req val) s P := ⟨_, rfl, rfl, h⟩

theorem gives_spectrumUpdate (band : Nat) (lines : List SpecLine) (s : State) {P : Dev → Prop}
    (h : P (ended s.dev ((fun d => spectrum d band lines : Dev → Dev) { s.dev with out := [] }))) : Gives (.spectrumUpdate band lines) s P := ⟨_, rfl, rfl, h⟩

theorem gives_leapChange (s : State) {P : Dev → Prop}
    (h : P (ended s.dev ((leapEvent : Dev → Dev) { s.dev with out := [] }))) : Gives (.leapChange) s P := ⟨_, rfl, rfl, h⟩

theorem gives_gnJncfgLearn (req : Requester) (band : Nat) (val : Word) (s : State) {P : Dev → Prop}
    (h : P (ended s.dev ((fun d => if 1 < band then d else
    withWrite d req gnsIndData fun d => gnsWrite d (bandKey GN_JNCFG band) (val ||| 0x80000000) (some (accOf req gnsIndData)) : Dev → Dev) { s.dev with out := [] }))) : Gives (.gnJncfgLearn req band val) s P := ⟨_, rfl, rfl, h⟩

theorem gives_frameReceived (port : Nat) (f : RxFrame) (s : State) {P : Dev → Prop}
    (h : P (ended s.dev ((fun d => frameReceived d port f : Dev → Dev) { s.dev with out := [] }))) : Gives (.frameReceived port f) s P := ⟨_, rfl, rfl, h⟩

theorem gives_prpForget (port src seq : Nat) (s : State) {P : Dev → Prop}
    (h : P (ended s.dev (((forgetEvent port src seq) : Dev → Dev) { s.dev with out := [] }))) : Gives (.prpForget port src seq) s P := ⟨_, rfl, rfl, h⟩

theorem gives_pauseTimerExpiry (port : Nat) (prio : Option Nat) (s : State) {P : Dev → Prop}
    (h : P (ended s.dev ((fun d => atTick? ((pauseTimer d port prio).map (·.toNat)) (fun e => pauseExpiry e port prio) d : Dev → Dev) { s.dev with out := [] }))) : Gives (.pauseTimerExpiry port prio) s P := ⟨_, rfl, rfl, h⟩

theorem gives_transmitOpportunity (port : Nat) (s : State) {P : Dev → Prop}
    (h : P (ended s.dev ((fun d => if 5 < port then d else opportunity d port : Dev → Dev) { s.dev with out := [] }))) : Gives (.transmitOpportunity port) s P := ⟨_, rfl, rfl, h⟩

theorem gives_launchQueueEntry (port : Nat) (s : State) {P : Dev → Prop}
    (h : P (ended s.dev ((fun d => if 5 < port then d else launchEntry d port : Dev → Dev) { s.dev with out := [] }))) : Gives (.launchQueueEntry port) s P := ⟨_, rfl, rfl, h⟩

theorem gives_launchStart (port : Nat) (s : State) {P : Dev → Prop}
    (h : P (ended s.dev ((fun d => if 5 < port then d else launchEvent port d : Dev → Dev) { s.dev with out := [] }))) : Gives (.launchStart port) s P := ⟨_, rfl, rfl, h⟩

theorem gives_gateEntryChange (port : Nat) (s : State) {P : Dev → Prop}
    (h : P (ended s.dev (((gateEvent port) : Dev → Dev) { s.dev with out := [] }))) : Gives (.gateEntryChange port) s P := ⟨_, rfl, rfl, h⟩

theorem gives_gclCycleStart (port : Nat) (s : State) {P : Dev → Prop}
    (h : P (ended s.dev ((fun d => if 5 < port then d else cycleEvent port d : Dev → Dev) { s.dev with out := [] }))) : Gives (.gclCycleStart port) s P := ⟨_, rfl, rfl, h⟩

theorem gives_macGclCommitWrite (req : Requester) (port : Nat) (val : Word) (s : State) {P : Dev → Prop}
    (h : P (ended s.dev ((fun d => if 5 < port then d else
    withWrite d req (macReg port 0x58) fun d => gclCommit d port val (some (accOf req (macReg port 0x58))) : Dev → Dev) { s.dev with out := [] }))) : Gives (.macGclCommitWrite req port val) s P := ⟨_, rfl, rfl, h⟩

theorem gives_flowControlThreshold (port cls : Nat) (s : State) {P : Dev → Prop}
    (h : P (ended s.dev ((fun d => if 5 < port then d else fcThreshold d port cls : Dev → Dev) { s.dev with out := [] }))) : Gives (.flowControlThreshold port cls) s P := ⟨_, rfl, rfl, h⟩

theorem gives_fcRepeatTimer (port cls : Nat) (s : State) {P : Dev → Prop}
    (h : P (ended s.dev ((fun d => if 5 < port || 7 < cls then d else
    atTick? (((portOf d port).fcDue.getD (fcIx d port cls) none).map (·.toNat)) (fun e => fcRepeat e port cls) d : Dev → Dev) { s.dev with out := [] }))) : Gives (.fcRepeatTimer port cls) s P := ⟨_, rfl, rfl, h⟩

theorem gives_linkTrained (port speed : Nat) (s : State) {P : Dev → Prop}
    (h : P (ended s.dev ((fun d => linkTrained d port speed : Dev → Dev) { s.dev with out := [] }))) : Gives (.linkTrained port speed) s P := ⟨_, rfl, rfl, h⟩

theorem gives_linkLoss (port : Nat) (s : State) {P : Dev → Prop}
    (h : P (ended s.dev ((fun d => linkLoss d port : Dev → Dev) { s.dev with out := [] }))) : Gives (.linkLoss port) s P := ⟨_, rfl, rfl, h⟩

theorem gives_portTransientFault (port cause : Nat) (s : State) {P : Dev → Prop}
    (h : P (ended s.dev ((fun d => if 5 < port then d else portFault d port cause : Dev → Dev) { s.dev with out := [] }))) : Gives (.portTransientFault port cause) s P := ⟨_, rfl, rfl, h⟩

theorem gives_portRetryBackoffEnd (port : Nat) (s : State) {P : Dev → Prop}
    (h : P (ended s.dev ((fun d => atTick? (portRetryDue d port) (fun e => portRetryEnd e port) d : Dev → Dev) { s.dev with out := [] }))) : Gives (.portRetryBackoffEnd port) s P := ⟨_, rfl, rfl, h⟩

theorem gives_syncReceived (slot : Nat) (s : State) {P : Dev → Prop}
    (h : P (ended s.dev ((fun d => syncReceived d slot : Dev → Dev) { s.dev with out := [] }))) : Gives (.syncReceived slot) s P := ⟨_, rfl, rfl, h⟩

theorem gives_followUpReceived (slot : Nat) (s : State) {P : Dev → Prop}
    (h : P (ended s.dev ((fun d => followUpReceived d slot : Dev → Dev) { s.dev with out := [] }))) : Gives (.followUpReceived slot) s P := ⟨_, rfl, rfl, h⟩

theorem gives_delayRespReceived (slot : Nat) (s : State) {P : Dev → Prop}
    (h : P (ended s.dev ((fun d => delayRespReceived d slot : Dev → Dev) { s.dev with out := [] }))) : Gives (.delayRespReceived slot) s P := ⟨_, rfl, rfl, h⟩

theorem gives_announceReceived (slot rank portState : Nat) (s : State) {P : Dev → Prop}
    (h : P (ended s.dev ((fun d => announceReceived d slot rank portState : Dev → Dev) { s.dev with out := [] }))) : Gives (.announceReceived slot rank portState) s P := ⟨_, rfl, rfl, h⟩

theorem gives_delayReqReceived (port : Nat) (s : State) {P : Dev → Prop}
    (h : P (ended s.dev ((fun d => takeRequest d port 1 fun e m d => delayReq d e m : Dev → Dev) { s.dev with out := [] }))) : Gives (.delayReqReceived port) s P := ⟨_, rfl, rfl, h⟩

theorem gives_pdelayReqReceived (port : Nat) (s : State) {P : Dev → Prop}
    (h : P (ended s.dev ((fun d => takeRequest d port 2 fun e m d => pdelayReq d e m : Dev → Dev) { s.dev with out := [] }))) : Gives (.pdelayReqReceived port) s P := ⟨_, rfl, rfl, h⟩

theorem gives_unicastRequestReceived (port : Nat) (s : State) {P : Dev → Prop}
    (h : P (ended s.dev ((fun d => takeNegotiation d port 4 fun e m d t => unicastRequest d e m t : Dev → Dev) { s.dev with out := [] }))) : Gives (.unicastRequestReceived port) s P := ⟨_, rfl, rfl, h⟩

theorem gives_unicastCancelReceived (port : Nat) (s : State) {P : Dev → Prop}
    (h : P (ended s.dev ((fun d => takeNegotiation d port 6 fun e m d t => unicastCancel d e m t : Dev → Dev) { s.dev with out := [] }))) : Gives (.unicastCancelReceived port) s P := ⟨_, rfl, rfl, h⟩

theorem gives_managementMessageReceived (port : Nat) (s : State) {P : Dev → Prop}
    (h : P (ended s.dev ((fun d => managementMsg d port : Dev → Dev) { s.dev with out := [] }))) : Gives (.managementMessageReceived port) s P := ⟨_, rfl, rfl, h⟩

theorem gives_scheduledMessageInstant (entry : Nat) (grant : Option Nat) (mtype : Nat) (s : State) {P : Dev → Prop}
    (h : P (ended s.dev (((streamEvent entry grant mtype) : Dev → Dev) { s.dev with out := [] }))) : Gives (.scheduledMessageInstant entry grant mtype) s P := ⟨_, rfl, rfl, h⟩

theorem gives_trackingDelayReq (slot : Nat) (s : State) {P : Dev → Prop}
    (h : P (ended s.dev ((fun d => if slotRuns d slot then atTick (requestDue d slot) (fun e => sendRequest e slot) d else d : Dev → Dev) { s.dev with out := [] }))) : Gives (.trackingDelayReq slot) s P := ⟨_, rfl, rfl, h⟩

theorem gives_grantRenewalTimer (slot mtype : Nat) (s : State) {P : Dev → Prop}
    (h : P (ended s.dev ((fun d => atTick? (renewalDue d slot mtype) (fun e => renewGrant e slot mtype) d : Dev → Dev) { s.dev with out := [] }))) : Gives (.grantRenewalTimer slot mtype) s P := ⟨_, rfl, rfl, h⟩

theorem gives_trackingTimeout (slot cause : Nat) (s : State) {P : Dev → Prop}
    (h : P (ended s.dev ((fun d => atTick? (timeoutDue d slot cause) (fun e => trackingTimeout e slot cause) d : Dev → Dev) { s.dev with out := [] }))) : Gives (.trackingTimeout slot cause) s P := ⟨_, rfl, rfl, h⟩

theorem gives_ptCalcmdStore (req : Requester) (val : Word) (s : State) {P : Dev → Prop}
    (h : P (ended s.dev ((fun d => withWrite d req PT_CALCMD fun d => calcmd d val (some (accOf req PT_CALCMD)) : Dev → Dev) { s.dev with out := [] }))) : Gives (.ptCalcmdStore req val) s P := ⟨_, rfl, rfl, h⟩

theorem gives_calibrationStoreComplete (equal : Bool) (s : State) {P : Dev → Prop}
    (h : P (ended s.dev ((fun d => calStored d equal : Dev → Dev) { s.dev with out := [] }))) : Gives (.calibrationStoreComplete equal) s P := ⟨_, rfl, rfl, h⟩

theorem gives_ntpRequestTaken (port : Nat) (s : State) {P : Dev → Prop}
    (h : P (ended s.dev ((fun d => ntpTaken d port : Dev → Dev) { s.dev with out := [] }))) : Gives (.ntpRequestTaken port) s P := ⟨_, rfl, rfl, h⟩

theorem gives_ntsExchangeBegin (s : State) {P : Dev → Prop}
    (h : P (ended s.dev ((ntsBegin : Dev → Dev) { s.dev with out := [] }))) : Gives (.ntsExchangeBegin) s P := ⟨_, rfl, rfl, h⟩

theorem gives_ntpv4Answer (s : State) {P : Dev → Prop}
    (h : P (ended s.dev ((ntpAnswer : Dev → Dev) { s.dev with out := [] }))) : Gives (.ntpv4Answer) s P := ⟨_, rfl, rfl, h⟩

theorem gives_tolCmdAdvance (req : Requester) (val : Word) (s : State) {P : Dev → Prop}
    (h : P (ended s.dev ((fun d => withWrite d req TOL_CMD fun d => tolCmd d val (some (accOf req TOL_CMD)) : Dev → Dev) { s.dev with out := [] }))) : Gives (.tolCmdAdvance req val) s P := ⟨_, rfl, rfl, h⟩

theorem gives_epochKeyDerived (s : State) {P : Dev → Prop}
    (h : P (ended s.dev ((fun d => if tolRuns d && (tolRoot d).isSome && d.tol.ready then { d with tol := { d.tol with nextReady := true } } else d : Dev → Dev) { s.dev with out := [] }))) : Gives (.epochKeyDerived) s P := ⟨_, rfl, rfl, h⟩

theorem gives_mintRecord (s : State) {P : Dev → Prop}
    (h : P (ended s.dev ((mintRecord : Dev → Dev) { s.dev with out := [] }))) : Gives (.mintRecord) s P := ⟨_, rfl, rfl, h⟩

theorem gives_flushEdge (s : State) {P : Dev → Prop}
    (h : P (ended s.dev ((flushEdge : Dev → Dev) { s.dev with out := [] }))) : Gives (.flushEdge) s P := ⟨_, rfl, rfl, h⟩

theorem gives_cacheFilled (s : State) {P : Dev → Prop}
    (h : P (ended s.dev ((cacheFilled : Dev → Dev) { s.dev with out := [] }))) : Gives (.cacheFilled) s P := ⟨_, rfl, rfl, h⟩

theorem gives_doorbellWrite (fn : Nat) (rx : Bool) (ring : Nat) (val : Word) (posts : List Post) (s : State) {P : Dev → Prop}
    (h : P (ended s.dev ((fun d =>
    if 63 < ring || 1 < fn then d
    else if !pcieServed d || (fn == 1 && !(fuses d).wardenPcie) then { d with resp := ⟨.unsupportedRequest, [0]⟩ }
    else if fn == 1 || !ringOn d rx ring then answer d []
    else doorbell (answer d []) rx ring val posts : Dev → Dev) { s.dev with out := [] }))) : Gives (.doorbellWrite fn rx ring val posts) s P := ⟨_, rfl, rfl, h⟩

theorem gives_descriptorCompletion (rx : Bool) (ring : Nat) (s : State) {P : Dev → Prop}
    (h : P (ended s.dev ((fun d => if 63 < ring then d else writeBack d rx ring : Dev → Dev) { s.dev with out := [] }))) : Gives (.descriptorCompletion rx ring) s P := ⟨_, rfl, rfl, h⟩

theorem gives_interruptTimer (rx : Bool) (ring : Nat) (s : State) {P : Dev → Prop}
    (h : P (ended s.dev ((fun d => if 63 < ring then d else atTick? (itimeDue d rx ring) (fun e => ringPending e rx ring) d : Dev → Dev) { s.dev with out := [] }))) : Gives (.interruptTimer rx ring) s P := ⟨_, rfl, rfl, h⟩

theorem gives_ringEnable (req : Requester) (rx : Bool) (ring : Nat) (s : State) {P : Dev → Prop}
    (h : P (ended s.dev ((fun d =>
    if 63 < ring then d
    else withWrite d req (ringKey rx ring) fun d =>
      ringCfg d rx ring (putBit (rg d (ringKey rx ring)) 31 true) (some (accOf req (ringKey rx ring))) : Dev → Dev) { s.dev with out := [] }))) : Gives (.ringEnable req rx ring) s P := ⟨_, rfl, rfl, h⟩

theorem gives_dmaError (rx : Bool) (ring addr : Nat) (s : State) {P : Dev → Prop}
    (h : P (ended s.dev ((fun d => if 63 < ring then d else dmaError d rx ring addr : Dev → Dev) { s.dev with out := [] }))) : Gives (.dmaError rx ring addr) s P := ⟨_, rfl, rfl, h⟩

theorem gives_mspiRead (addr words : Nat) (early : Bool) (s : State) {P : Dev → Prop}
    (h : P (ended s.dev ((fun d => mspiRead d addr words early : Dev → Dev) { s.dev with out := [] }))) : Gives (.mspiRead addr words early) s P := ⟨_, rfl, rfl, h⟩

theorem gives_mspiWrite (addr : Nat) (words : List Word) (early : Bool) (s : State) {P : Dev → Prop}
    (h : P (ended s.dev ((fun d => mspiWrite d addr words early : Dev → Dev) { s.dev with out := [] }))) : Gives (.mspiWrite addr words early) s P := ⟨_, rfl, rfl, h⟩

theorem gives_mspiStatus (cmd : Nat) (s : State) {P : Dev → Prop}
    (h : P (ended s.dev ((fun d => mspiStatus d cmd : Dev → Dev) { s.dev with out := [] }))) : Gives (.mspiStatus cmd) s P := ⟨_, rfl, rfl, h⟩

theorem gives_hallRequest (master id target slot : Nat) (write : Bool) (beats : Nat) (s : State) {P : Dev → Prop}
    (h : P (ended s.dev ((fun d =>
    if 11 < master || 63 < id || 8 < target || beats == 0 || 16 < beats then d
    else enterHall d ⟨master, id, target, slot, write, beats, false, false⟩ : Dev → Dev) { s.dev with out := [] }))) : Gives (.hallRequest master id target slot write beats) s P := ⟨_, rfl, rfl, h⟩

theorem gives_hallCompletion (master id : Nat) (s : State) {P : Dev → Prop}
    (h : P (ended s.dev ((fun d => hallComplete d master id : Dev → Dev) { s.dev with out := [] }))) : Gives (.hallCompletion master id) s P := ⟨_, rfl, rfl, h⟩

theorem gives_keyCommit (req : Requester) (s : State) {P : Dev → Prop}
    (h : P (ended s.dev ((fun d => withWrite d req KEY_CMD fun d => keyCommand d 1 keyCommitDo : Dev → Dev) { s.dev with out := [] }))) : Gives (.keyCommit req) s P := ⟨_, rfl, rfl, h⟩

theorem gives_keyInvalidate (req : Requester) (node : Nat) (s : State) {P : Dev → Prop}
    (h : P (ended s.dev ((fun d => withWrite d req KEY_CMD fun d => keyCommand d 2 (fun d => keyInvalidateDo d (node % 1024)) : Dev → Dev) { s.dev with out := [] }))) : Gives (.keyInvalidate req node) s P := ⟨_, rfl, rfl, h⟩

theorem gives_invalidateWalkComplete (s : State) {P : Dev → Prop}
    (h : P (ended s.dev ((walkDone : Dev → Dev) { s.dev with out := [] }))) : Gives (.invalidateWalkComplete) s P := ⟨_, rfl, rfl, h⟩

theorem gives_keyLoad (req : Requester) (engine node : Nat) (s : State) {P : Dev → Prop}
    (h : P (ended s.dev ((fun d => withWrite d req KEY_CMD fun d => keyCommand d 3 (fun d => keyLoadDo d (engine % 8) (node % 1024)) : Dev → Dev) { s.dev with out := [] }))) : Gives (.keyLoad req engine node) s P := ⟨_, rfl, rfl, h⟩

theorem gives_keyUnload (req : Requester) (engine : Nat) (s : State) {P : Dev → Prop}
    (h : P (ended s.dev ((fun d => withWrite d req KEY_CMD fun d => keyCommand d 4 (fun d => keyUnloadDo d (engine % 8)) : Dev → Dev) { s.dev with out := [] }))) : Gives (.keyUnload req engine) s P := ⟨_, rfl, rfl, h⟩

theorem gives_keySeal (req : Requester) (s : State) {P : Dev → Prop}
    (h : P (ended s.dev ((fun d => withWrite d req KEY_CMD fun d => keyCommand d 5 keySealDo : Dev → Dev) { s.dev with out := [] }))) : Gives (.keySeal req) s P := ⟨_, rfl, rfl, h⟩

theorem gives_sealComplete (s : State) {P : Dev → Prop}
    (h : P (ended s.dev ((fun d => keyFinish d 5 fun d st =>
    let (k, d1) := drawBelow d (p384n - 1)
    putOut d1 (st ++ beBytes 96 (Config.ecdsaSign (identityScalar d1) (sha384B st) (k + 1)).toNat) : Dev → Dev) { s.dev with out := [] }))) : Gives (.sealComplete) s P := ⟨_, rfl, rfl, h⟩

theorem gives_keyFwmac (req : Requester) (s : State) {P : Dev → Prop}
    (h : P (ended s.dev ((fun d => withWrite d req KEY_CMD fun d => keyCommand d 6 keyFwmacDo : Dev → Dev) { s.dev with out := [] }))) : Gives (.keyFwmac req) s P := ⟨_, rfl, rfl, h⟩

theorem gives_fwmacComplete (s : State) {P : Dev → Prop}
    (h : P (ended s.dev ((fun d => keyFinish d 6 putOut : Dev → Dev) { s.dev with out := [] }))) : Gives (.fwmacComplete) s P := ⟨_, rfl, rfl, h⟩

theorem gives_keyZeroise (req : Requester) (s : State) {P : Dev → Prop}
    (h : P (ended s.dev ((fun d => withWrite d req KEY_CMD fun d => keyCommand d 7 (fun d => keyRes (tamper d 8) 7 0) : Dev → Dev) { s.dev with out := [] }))) : Gives (.keyZeroise req) s P := ⟨_, rfl, rfl, h⟩

theorem gives_tamperEvent (source : Nat) (s : State) {P : Dev → Prop}
    (h : P (ended s.dev ((fun d =>
    if 7 < source || (source < 4 && !bit d.key.tcfg source) then d else tamper d source : Dev → Dev) { s.dev with out := [] }))) : Gives (.tamperEvent source) s P := ⟨_, rfl, rfl, h⟩

theorem gives_keyTcfgWrite (req : Requester) (val : Word) (s : State) {P : Dev → Prop}
    (h : P (ended s.dev ((fun d => withWrite d req KEY_TCFG fun d => keyTcfgWrite d val : Dev → Dev) { s.dev with out := [] }))) : Gives (.keyTcfgWrite req val) s P := ⟨_, rfl, rfl, h⟩

theorem gives_holdupSample (vhsns : Nat) (s : State) {P : Dev → Prop}
    (h : P (ended s.dev ((fun d => if d.start.phase == .held || d.gen.mode == .off then d else sampleStart d vhsns : Dev → Dev) { s.dev with out := [] }))) : Gives (.holdupSample vhsns) s P := ⟨_, rfl, rfl, h⟩

theorem gives_dischargeTest (deltaMv : Nat) (s : State) {P : Dev → Prop}
    (h : P (ended s.dev ((fun d => if d.start.phase == .held || d.gen.mode == .off then d else atTick (htestDue d) (fun e => dischargeTest e deltaMv) d : Dev → Dev) { s.dev with out := [] }))) : Gives (.dischargeTest deltaMv) s P := ⟨_, rfl, rfl, h⟩

theorem gives_keyHtestRun (req : Requester) (val : Word) (s : State) {P : Dev → Prop}
    (h : P (ended s.dev ((fun d => withWrite d req KEY_HTEST fun d => keyHtestWrite d val : Dev → Dev) { s.dev with out := [] }))) : Gives (.keyHtestRun req val) s P := ⟨_, rfl, rfl, h⟩

theorem gives_twinLinkTrained (s : State) {P : Dev → Prop}
    (h : P (ended s.dev ((fun d => atTick? (trainDue d) linkTrains d : Dev → Dev) { s.dev with out := [] }))) : Gives (.twinLinkTrained) s P := ⟨_, rfl, rfl, h⟩

theorem gives_helloSend (s : State) {P : Dev → Prop}
    (h : P (ended s.dev ((fun d => atTick? (helloDue d) sendHello d : Dev → Dev) { s.dev with out := [] }))) : Gives (.helloSend) s P := ⟨_, rfl, rfl, h⟩

theorem gives_helloReceived (msg : List Byte) (s : State) {P : Dev → Prop}
    (h : P (ended s.dev ((fun d => helloReceived d msg : Dev → Dev) { s.dev with out := [] }))) : Gives (.helloReceived msg) s P := ⟨_, rfl, rfl, h⟩

theorem gives_timingSend (sub : Nat) (alive : Bool) (s : State) {P : Dev → Prop}
    (h : P (ended s.dev (((slotEvent sub alive) : Dev → Dev) { s.dev with out := [] }))) : Gives (.timingSend sub alive) s P := ⟨_, rfl, rfl, h⟩

theorem gives_timingReceived (msg : List Byte) (sub : Nat) (s : State) {P : Dev → Prop}
    (h : P (ended s.dev ((fun d => timingReceived d msg sub : Dev → Dev) { s.dev with out := [] }))) : Gives (.timingReceived msg sub) s P := ⟨_, rfl, rfl, h⟩

theorem gives_twinLockLoss (s : State) {P : Dev → Prop}
    (h : P (ended s.dev ((fun d => atTick? (lockLossDue d) lockLoss d : Dev → Dev) { s.dev with out := [] }))) : Gives (.twinLockLoss) s P := ⟨_, rfl, rfl, h⟩

theorem gives_heartbeatMiss (s : State) {P : Dev → Prop}
    (h : P (ended s.dev (((missEvent 1 missedMs) : Dev → Dev) { s.dev with out := [] }))) : Gives (.heartbeatMiss) s P := ⟨_, rfl, rfl, h⟩

theorem gives_heartbeatLoss (s : State) {P : Dev → Prop}
    (h : P (ended s.dev ((fun d => missEvent (50 - d.twn.missed) missedAll d : Dev → Dev) { s.dev with out := [] }))) : Gives (.heartbeatLoss) s P := ⟨_, rfl, rfl, h⟩

theorem gives_abdicateReceived (msg : List Byte) (s : State) {P : Dev → Prop}
    (h : P (ended s.dev ((fun d => abdicateReceived d msg : Dev → Dev) { s.dev with out := [] }))) : Gives (.abdicateReceived msg) s P := ⟨_, rfl, rfl, h⟩

theorem gives_twfloorRelease (s : State) {P : Dev → Prop}
    (h : P (ended s.dev ((floorRelease : Dev → Dev) { s.dev with out := [] }))) : Gives (.twfloorRelease) s P := ⟨_, rfl, rfl, h⟩

theorem gives_twnCmdAbdicate (req : Requester) (val : Word) (s : State) {P : Dev → Prop}
    (h : P (ended s.dev ((fun d => withWrite d req TWN_CMD fun d => twnCmd d val : Dev → Dev) { s.dev with out := [] }))) : Gives (.twnCmdAbdicate req val) s P := ⟨_, rfl, rfl, h⟩

theorem gives_twnCmdSwap (req : Requester) (val : Word) (s : State) {P : Dev → Prop}
    (h : P (ended s.dev ((fun d => withWrite d req TWN_CMD fun d => twnCmd d val : Dev → Dev) { s.dev with out := [] }))) : Gives (.twnCmdSwap req val) s P := ⟨_, rfl, rfl, h⟩

theorem gives_handoverReceived (msg : List Byte) (s : State) {P : Dev → Prop}
    (h : P (ended s.dev ((fun d => handover d msg : Dev → Dev) { s.dev with out := [] }))) : Gives (.handoverReceived msg) s P := ⟨_, rfl, rfl, h⟩

theorem gives_handoverAnsReceived (msg : List Byte) (s : State) {P : Dev → Prop}
    (h : P (ended s.dev ((fun d => handoverAns d msg : Dev → Dev) { s.dev with out := [] }))) : Gives (.handoverAnsReceived msg) s P := ⟨_, rfl, rfl, h⟩

theorem gives_bellMessageReceived (msg : List Byte) (s : State) {P : Dev → Prop}
    (h : P (ended s.dev ((fun d => bellMessage d msg : Dev → Dev) { s.dev with out := [] }))) : Gives (.bellMessageReceived msg) s P := ⟨_, rfl, rfl, h⟩

theorem gives_muteTimeout (s : State) {P : Dev → Prop}
    (h : P (ended s.dev ((fun d => atTick? (muteDue d) muteTimeout d : Dev → Dev) { s.dev with out := [] }))) : Gives (.muteTimeout) s P := ⟨_, rfl, rfl, h⟩

theorem gives_snapBeginReceived (msg : List Byte) (s : State) {P : Dev → Prop}
    (h : P (ended s.dev ((fun d => snapBegin d msg : Dev → Dev) { s.dev with out := [] }))) : Gives (.snapBeginReceived msg) s P := ⟨_, rfl, rfl, h⟩

theorem gives_snapDataReceived (msg : List Byte) (s : State) {P : Dev → Prop}
    (h : P (ended s.dev ((fun d => snapData d msg : Dev → Dev) { s.dev with out := [] }))) : Gives (.snapDataReceived msg) s P := ⟨_, rfl, rfl, h⟩

theorem gives_snapEndReceived (msg : List Byte) (s : State) {P : Dev → Prop}
    (h : P (ended s.dev ((fun d => snapEnd d msg : Dev → Dev) { s.dev with out := [] }))) : Gives (.snapEndReceived msg) s P := ⟨_, rfl, rfl, h⟩

theorem gives_snapAckReceived (msg : List Byte) (s : State) {P : Dev → Prop}
    (h : P (ended s.dev ((fun d => snapAck d msg : Dev → Dev) { s.dev with out := [] }))) : Gives (.snapAckReceived msg) s P := ⟨_, rfl, rfl, h⟩

theorem gives_audioEdge (clk : Nat) (frame : Option AesFrame) (s : State) {P : Dev → Prop}
    (h : P (ended s.dev ((fun d => audioEdge d clk frame : Dev → Dev) { s.dev with out := [] }))) : Gives (.audioEdge clk frame) s P := ⟨_, rfl, rfl, h⟩

theorem gives_audioClockLoss (clk : Nat) (s : State) {P : Dev → Prop}
    (h : P (ended s.dev ((fun d => if clkWatched d clk then atTick (lossDue d clk) (fun e => clockLost (audPlace e) clk 1) d else d : Dev → Dev) { s.dev with out := [] }))) : Gives (.audioClockLoss clk) s P := ⟨_, rfl, rfl, h⟩

theorem gives_audioBlockBoundary (out : Nat) (s : State) {P : Dev → Prop}
    (h : P (ended s.dev (((blockEvent out) : Dev → Dev) { s.dev with out := [] }))) : Gives (.audioBlockBoundary out) s P := ⟨_, rfl, rfl, h⟩

theorem gives_audioReturnSwitch (s : State) {P : Dev → Prop}
    (h : P (ended s.dev ((switchEvent : Dev → Dev) { s.dev with out := [] }))) : Gives (.audioReturnSwitch) s P := ⟨_, rfl, rfl, h⟩

theorem gives_rampEnd (out : Nat) (s : State) {P : Dev → Prop}
    (h : P (ended s.dev (((rampEvent out) : Dev → Dev) { s.dev with out := [] }))) : Gives (.rampEnd out) s P := ⟨_, rfl, rfl, h⟩

theorem gives_loopThroughSlip (out : Nat) (s : State) {P : Dev → Prop}
    (h : P (ended s.dev ((fun d => loopSlip d out : Dev → Dev) { s.dev with out := [] }))) : Gives (.loopThroughSlip out) s P := ⟨_, rfl, rfl, h⟩

theorem gives_faultReport (source chan detail : Nat) (s : State) {P : Dev → Prop}
    (h : P (ended s.dev ((fun d => afterReaction (faultReport d source chan detail) : Dev → Dev) { s.dev with out := [] }))) : Gives (.faultReport source chan detail) s P := ⟨_, rfl, rfl, h⟩

theorem gives_graceExpiry (source chan : Nat) (s : State) {P : Dev → Prop}
    (h : P (ended s.dev ((fun d => atTick? (graceDue d source chan) (fun e => afterReaction (graceExpiry e source chan)) d : Dev → Dev) { s.dev with out := [] }))) : Gives (.graceExpiry source chan) s P := ⟨_, rfl, rfl, h⟩

theorem gives_fltAckWrite (req : Requester) (val : Word) (s : State) {P : Dev → Prop}
    (h : P (ended s.dev ((fun d => withWrite d req FLT_ACK fun d => fltAck d val : Dev → Dev) { s.dev with out := [] }))) : Gives (.fltAckWrite req val) s P := ⟨_, rfl, rfl, h⟩

theorem gives_retryBackoffEnd (source chan : Nat) (s : State) {P : Dev → Prop}
    (h : P (ended s.dev ((fun d => atTick? (retryDue d source chan) (fun e => afterReaction (retryBackoffEnd e source chan)) d : Dev → Dev) { s.dev with out := [] }))) : Gives (.retryBackoffEnd source chan) s P := ⟨_, rfl, rfl, h⟩

theorem gives_reactionStepComplete (s : State) {P : Dev → Prop}
    (h : P (ended s.dev ((fun d => atTick? (stepDue d) (fun e => afterReaction (reactionStepComplete e)) d : Dev → Dev) { s.dev with out := [] }))) : Gives (.reactionStepComplete) s P := ⟨_, rfl, rfl, h⟩

theorem gives_fltInjWrite (req : Requester) (val : Word) (s : State) {P : Dev → Prop}
    (h : P (ended s.dev ((fun d => afterReaction (withWrite d req FLT_INJ fun d => fltInj d val) : Dev → Dev) { s.dev with out := [] }))) : Gives (.fltInjWrite req val) s P := ⟨_, rfl, rfl, h⟩

theorem gives_fltEnt0Read (req : Requester) (s : State) {P : Dev → Prop}
    (h : P (ended s.dev ((fun d => withRead d req FLT_ENT fun d => fltPop d req : Dev → Dev) { s.dev with out := [] }))) : Gives (.fltEnt0Read req) s P := ⟨_, rfl, rfl, h⟩

theorem gives_fltSrcSelWrite (req : Requester) (val : Word) (s : State) {P : Dev → Prop}
    (h : P (ended s.dev ((fun d => withWrite d req FLT_SRC_SEL fun d => fltSrcSel d req val : Dev → Dev) { s.dev with out := [] }))) : Gives (.fltSrcSelWrite req val) s P := ⟨_, rfl, rfl, h⟩

theorem gives_ptGrdSelWrite (req : Requester) (val : Word) (s : State) {P : Dev → Prop}
    (h : P (ended s.dev ((fun d => withWrite d req PT_GRD_SEL fun d => grdSel d req val : Dev → Dev) { s.dev with out := [] }))) : Gives (.ptGrdSelWrite req val) s P := ⟨_, rfl, rfl, h⟩

theorem gives_keyNrdSelWrite (req : Requester) (val : Word) (s : State) {P : Dev → Prop}
    (h : P (ended s.dev ((fun d => withWrite d req KEY_NRD_SEL fun d => nrdSel d req val : Dev → Dev) { s.dev with out := [] }))) : Gives (.keyNrdSelWrite req val) s P := ⟨_, rfl, rfl, h⟩

theorem gives_twinLinkLoss (s : State) {P : Dev → Prop}
    (h : P (ended s.dev ((linkLost : Dev → Dev) { s.dev with out := [] }))) : Gives (.twinLinkLoss) s P := ⟨_, rfl, rfl, h⟩

theorem gives_channelLockLoss (ch : Nat) (s : State) {P : Dev → Prop}
    (h : P (ended s.dev ((fun d => channelLost d ch : Dev → Dev) { s.dev with out := [] }))) : Gives (.channelLockLoss ch) s P := ⟨_, rfl, rfl, h⟩

theorem gives_oscrdyFall (s : State) {P : Dev → Prop}
    (h : P (ended s.dev ((fun d => coldNow d : Dev → Dev) { s.dev with out := [] }))) : Gives (.oscrdyFall) s P := ⟨_, rfl, rfl, h⟩

theorem gives_vbatLoss (s : State) {P : Dev → Prop}
    (h : P (ended s.dev ((vbatLoss : Dev → Dev) { s.dev with out := [] }))) : Gives (.vbatLoss) s P := ⟨_, rfl, rfl, h⟩

theorem gives_unicastGrantReceived (slot : Nat) (s : State) {P : Dev → Prop}
    (h : P (ended s.dev ((fun d => grantReceived d slot : Dev → Dev) { s.dev with out := [] }))) : Gives (.unicastGrantReceived slot) s P := ⟨_, rfl, rfl, h⟩

theorem gives_pdelayRespReceived (port : Nat) (s : State) {P : Dev → Prop}
    (h : P (ended s.dev ((fun d => pdelayResp d port : Dev → Dev) { s.dev with out := [] }))) : Gives (.pdelayRespReceived port) s P := ⟨_, rfl, rfl, h⟩

theorem gives_jtagInstructionUpdate (instr : JtagInstr) (s : State) {P : Dev → Prop}
    (h : P (ended s.dev ((fun d => if d.gen.mode == .off then d else { d with jtag := { d.jtag with instr := instr } } : Dev → Dev) { s.dev with out := [] }))) : Gives (.jtagInstructionUpdate instr) s P := ⟨_, rfl, rfl, h⟩

end Sys2Proof.Machine
end

