-- ==== Sys2Proof/Machine/Pins.lean ====
section
/-! DEFINITION. The balls of the package, what each pin carries, and the limits, levels and times the device's interfaces keep (chapter 21, R43, R46, R76, R166, R190 to R192, R449). -/
namespace Sys2Proof.Machine
open Sys2Proof

/-! ### Ball map (R466, R467, Tables 21.1 to 21.3) -/

inductive Rail where
  | core | sram | sd | sdh | pll | ioA | ioB | vbat | vhold
  deriving DecidableEq, Repr, Inhabited

/-- Groups of signal pins; a lane pair is numbered over all ports: P0 to P3 four each, P4 and P5 two each. -/
inductive SigGroup where
  | portTx | portRx | twTx | twRx | pcieTx | pcieRx | refclkEth | refclkPcie
  | refin | oscin | gclk | gl1i | gl1q | gl5i | gl5q | tdcin | tsense | oscrdy | vhsns | tamper
  | pulse | trig | aesin | aesout | wckin | wckout | twalive | twfloor | perstN | msirqN
  | bsck | bsio | bscsN | porstN | rstN | testmode | tck | tms | tdi | tdo | trstN
  | state | servo | oos | boundalm | floor | faultN | lock | msck | msdi | msdo | mscsN | clkout
  deriving DecidableEq, Repr, Inhabited

/-- The net of a ball: ground, a rail, or a signal with its number and, of a differential pair, whether it is the negative side. -/
inductive Net where
  | vss
  | rail (r : Rail)
  | sig (g : SigGroup) (n : Nat) (neg : Bool)
  deriving DecidableEq, Repr, Inhabited

/-- The rows of the grid from the A1 corner; row number y is the place in this list, from 1. -/
def rowNames : List String :=
  ["A", "B", "C", "D", "E", "F", "G", "H", "J", "K", "L", "M", "N", "P",
   "T", "U", "V", "W", "Y", "AA", "AB", "AC", "AD", "AE", "AF", "AG", "AH", "AJ"]

/-- A slot of the top edge: the lanes of P0 to P2 (Table 21.1). Ball k of a slot's row is the positive one for k even. -/
def topNet (rx : Bool) (c : Nat) : Net := .sig (if rx then .portRx else .portTx) ((c - 3) / 2) ((c - 3) % 2 == 1)

/-- A slot of the bottom edge: P3 to P5, the twin link, PCIe (Table 21.1). -/
def bottomNet (rx : Bool) (c : Nat) : Net :=
  let j := (c - 3) / 2
  let neg := (c - 3) % 2 == 1
  if j < 8 then .sig (if rx then .portRx else .portTx) (12 + j) neg
  else if j == 8 then .sig (if rx then .twRx else .twTx) 0 neg
  else .sig (if rx then .pcieRx else .pcieTx) (j - 9) neg

/-- Columns 1 and 2 of rows E to AE: differential inputs and the GNSS samples. -/
def leftNet (y : Nat) (second : Bool) : Net :=
  let k := y - 5
  if k < 10 then .sig .refin k second
  else if k == 10 then .sig .oscin 0 second
  else if k == 11 then .sig .gclk 0 second
  else if k < 16 then .sig (if second then .gl1q else .gl1i) (k - 12) false
  else .sig (if second then .gl5q else .gl5i) (k - 16) false

/-- Column 4 of rows E to AE. -/
def columnFour (y : Nat) : Net :=
  let k := y - 5
  if k < 8 then .sig .tdcin k false
  else match k with
    | 8 => .sig .tsense 0 false
    | 9 => .sig .oscrdy 0 false
    | 10 => .sig .vhsns 0 false
    | 11 => .rail .vbat
    | 16 | 17 => .rail .vhold
    | 18 | 19 => .rail .pll
    | _ => .sig .tamper (k - 12) false

/-- Row AE, columns 5 to 24. -/
def rowAE (c : Nat) : Net :=
  if c < 9 then .sig .trig (c + 7) false
  else if c < 13 then .sig .aesin (c - 9) false
  else if c < 17 then .sig .aesout (c - 13) false
  else match c with
    | 17 => .sig .wckin 0 false
    | 18 => .sig .wckout 0 false
    | 19 => .sig .twalive 0 false
    | 20 => .sig .twfloor 0 false
    | 21 => .sig .perstN 0 false
    | 22 => .sig .msirqN 0 false
    | 23 => .rail .ioB
    | _ => .vss

/-- Column 5 of rows F to AD. -/
def columnFive (y : Nat) : Net :=
  match y - 6 with
  | 0 => .sig .bsck 0 false
  | 1 => .sig .bsio 0 false
  | 2 => .sig .bsio 1 false
  | 3 => .sig .bsio 2 false
  | 4 => .sig .bsio 3 false
  | 5 => .sig .bscsN 0 false
  | 6 => .sig .porstN 0 false
  | 7 => .sig .rstN 0 false
  | 8 => .sig .testmode 0 false
  | 9 => .sig .tck 0 false
  | 10 => .sig .tms 0 false
  | 11 => .sig .tdi 0 false
  | 12 => .sig .tdo 0 false
  | 13 => .sig .trstN 0 false
  | 14 | 15 => .rail .ioB
  | _ => .rail .ioA

/-- Column 24 of rows F to AD. -/
def columnRight (y : Nat) : Net :=
  let k := y - 6
  if k < 3 then .sig .state k false
  else if k < 5 then .sig .servo (k - 3) false
  else match k with
    | 5 => .sig .oos 0 false
    | 6 => .sig .boundalm 0 false
    | 7 => .sig .floor 0 false
    | 8 => .sig .faultN 0 false
    | 13 => .rail .ioA
    | 14 => .sig .msck 0 false
    | 15 => .sig .msdi 0 false
    | 16 => .sig .msdo 0 false
    | 17 => .sig .mscsN 0 false
    | _ => .sig .lock (k - 9) false

/-- Rows E to AE: the columns of signals at both sides and the core block between (R467, Table 21.2). -/
def middleNet (y c : Nat) : Net :=
  if c < 3 then leftNet y (c == 2)
  else if c == 3 then .vss
  else if c == 4 then columnFour y
  else if 27 ≤ c then .sig .clkout (y - 5) (c == 28)
  else if 25 ≤ c then
    if y < 9 then .sig .clkout (y + 15) (c == 26) else if c == 25 then .rail .pll else .vss
  else if y == 5 then (if c < 13 then .sig .pulse (c - 5) false else .sig .trig (c - 13) false)
  else if y == 24 then rowAE c
  else if c == 5 then columnFive y
  else if c == 24 then columnRight y
  else if (y + c) % 2 == 1 then .vss
  else if y == 6 || y == 23 || c == 6 || c == 23 then .rail .sram
  else .rail .core

/-- The net of the ball at row number y and column c, both from 1 to 28. -/
def ballNet (y c : Nat) : Option Net :=
  if y == 0 || c == 0 || 28 < y || 28 < c then none
  else some <| match y with
    | 1 => if c < 3 then .sig .refclkEth 0 (c == 2) else if c < 27 then topNet false c else .rail .sdh
    | 3 => if c < 3 then .rail .sd else if c < 27 then topNet true c else .rail .sdh
    | 26 => if c < 3 then .rail .sdh else bottomNet true c
    | 28 => if c < 3 then .sig .refclkPcie 0 (c == 2) else bottomNet false c
    | 2 | 27 => .vss
    | 4 | 25 => if c % 2 == 0 then .rail .sd else .vss
    | _ => middleNet y c

/-- Every ball of the package, with its net. -/
def balls : List (Option Net) := (List.range 28).flatMap fun y => (List.range 28).map fun c => ballNet (y + 1) (c + 1)

/-- The number of balls on a rail (Table 21.3). -/
def railBalls (r : Rail) : Nat := balls.countP (· == some (.rail r))

/-! ### Pin states (R469, R449, R470 to R472) -/

/-- I/O families (Table 21.4). -/
inductive PinFamily where
  | ioa | iob | iok | an | sd | ck
  deriving DecidableEq, Repr, Inhabited

/-- The family of a signal. -/
def familyOf : SigGroup → PinFamily
  | .portTx | .portRx | .twTx | .twRx | .pcieTx | .pcieRx => .sd
  | .refclkEth | .refclkPcie | .refin | .oscin | .gclk | .tdcin | .tsense | .vhsns => .an
  | .clkout => .ck
  | .tamper => .iok
  | .pulse | .trig | .aesin | .aesout | .wckin | .wckout | .twalive | .twfloor | .perstN | .msirqN => .iob
  | _ => .ioa

/-- What the device does with a pin: nothing, an input, a pull, a level it drives (an open-drain pin drives only low), a signal of its own that moves between commands, or the boundary scan's cell. -/
inductive PinState where
  | hiZ
  | input
  | inputPull (up : Bool)
  | drive (level : Bool)
  | moving
  | scan
  deriving DecidableEq, Repr, Inhabited

/-- A reset of chip reach holds (Table 19.6). -/
def resetHeld (d : Dev) : Bool := d.start.phase == .held

/-- The charter's PINMUX applies from the moment the fabric is built (R76). -/
def pinmuxApplies (d : Dev) : Bool := d.cht.cur.isSome

/-- The fuse state of a configurable pin (R449): Hi-Z until the shadows are valid. -/
def fusePin (d : Dev) (pin : Nat) : PinState :=
  if !d.start.shadowsValid then .hiZ
  else match bits (word (fuses d).pinrst (pin / 16)) (pin % 16 * 2 + 1) (pin % 16 * 2) with
    | 0 => .hiZ
    | 1 => .inputPull false
    | 2 => .inputPull true
    | _ => .drive false

/-- The pull of ATTR bits 1:0 (R76). -/
def attrPull (attr : Nat) : PinState :=
  match attr % 4 with
  | 1 => .inputPull false
  | 2 => .inputPull true
  | _ => .hiZ

/-- What a PINMUX entry makes of its pin (Table 21.6). -/
def funcPin (d : Dev) (e : PinEntry) : PinState :=
  match e.func with
  | 0 => attrPull e.attr
  | 1 => .drive (pulseLevel d e.pin)
  | 2 => .drive (trigLevel d (e.pin - 8))
  | 5 | 7 => .moving
  | _ => if e.attr % 4 == 0 then .input else attrPull e.attr

/-- The active period that a pin completes for a function it has lost (R472). -/
def heldPin (d : Dev) (pin : Nat) : Option Bool :=
  (d.pinHold.find? (fun h => h.pin == pin && decide (((d.t.toNat * 1000 : Nat) : Int) < h.endPs))).map (·.level)

/-- A configurable pin (Table 21.5), boundary scan aside. -/
def configPin (d : Dev) (pin : Nat) : PinState :=
  if d.gen.mode == .off || d.power.porstLow then .hiZ
  else match heldPin d pin, pinEntry d pin with
    | some l, _ => .drive l
    | none, some e => funcPin d e
    | none, none => fusePin d pin

/-- The drive strength of an output of the IOB bank, mA, from ATTR bits 3:2; at 1.8 V half (R471). -/
def driveMa (attr : Nat) (low : Bool) : Nat := (attr / 4 % 4 + 1) * (if low then 2 else 4)

/-- A status output of the IOA family: low in reset and BRINGUP, not driven in OFF (Table 21.4). -/
def statusPin (d : Dev) (level : Bool) : PinState :=
  if d.gen.mode == .off then .hiZ else .drive (level && !resetHeld d && d.gen.mode != .bringup)

/-- An open-drain pin: released, or pulled low. -/
def openDrain (low : Bool) : PinState := if low then .drive false else .hiZ

/-- The boot flash is at work: the charter load of a start, or a write of an image. -/
def flashBusy (d : Dev) : Bool := (d.gen.mode == .bringup && d.start.phase == .charter) || d.cht.st == .writing || d.cht.st == .loading

/-- A pin of a configurable group by its code. -/
def pinCode : SigGroup → Nat → Option Nat
  | .pulse, n => some n
  | .trig, n => some (8 + n)
  | .aesin, n => some (24 + n)
  | .aesout, n => some (28 + n)
  | .wckin, _ => some 32
  | .wckout, _ => some 33
  | _, _ => none

/-- A clock output's pins (Table 21.4, R192): before the fabric stands they hold P low and N high. -/
def clkPin (d : Dev) (n : Nat) (neg : Bool) : PinState :=
  if d.gen.mode == .off then .hiZ
  else if d.gen.mode == .bringup || !pinmuxApplies d then .drive neg
  else match outDrive d n with
    | .off => .hiZ
    | .held p q => .drive (if neg then q else p)
    | .clock _ _ _ => .moving

/-- A fixed-function output or input (Table 21.4), boundary scan aside. -/
def fixedPin (d : Dev) (g : SigGroup) (n : Nat) (neg : Bool) : PinState :=
  let off := d.gen.mode == .off
  let quiet := off || resetHeld d || d.gen.mode == .bringup
  match g with
  | .state => match statePins d with
    | some w => .drive (w.getLsbD n)
    | none => .hiZ
  | .servo => statusPin d ((servoPins d).getLsbD n)
  | .oos => statusPin d (oosPin d)
  | .boundalm => statusPin d (almPin d)
  | .floor => statusPin d (floorPin d)
  | .lock => statusPin d (apllOf d n).lock
  | .faultN => openDrain (!off && !resetHeld d && faultN d)
  | .msirqN => openDrain (!quiet && msirqAsserted d)
  | .twalive => .hiZ
  | .twfloor => openDrain (!quiet && d.twn.pull)
  | .bsck | .bscsN => if off then .hiZ else if flashBusy d then .moving else .drive (g == .bscsN)
  | .bsio => if off then .hiZ else if flashBusy d then .moving else .inputPull true
  | .msdo | .tdo => .hiZ
  | .tms | .tdi => .inputPull true
  | .trstN => .inputPull false
  | .clkout => clkPin d n neg
  | .portTx | .twTx | .pcieTx => if off then .hiZ else .moving
  | _ => .input

/-- EXTEST and CLAMP put the cells of the boundary chain on every IOA, IOB and IOK ball, HIGHZ releases them; SD, CK and AN balls are outside the chain (R484). -/
def scanOver (d : Dev) (g : SigGroup) : Option PinState :=
  match familyOf g, jtagActs d with
  | .ioa, .highz | .iob, .highz | .iok, .highz => some .hiZ
  | .ioa, .extest | .iob, .extest | .iok, .extest => some .scan
  | .ioa, .clamp | .iob, .clamp | .iok, .clamp => some .scan
  | _, _ => none

/-- What the device does with a signal pin. -/
def pinState (d : Dev) (g : SigGroup) (n : Nat) (neg : Bool) : PinState :=
  match scanOver d g, pinCode g n with
  | some s, _ => s
  | none, some code => configPin d code
  | none, none => fixedPin d g n neg

/-! ### Supplies and temperatures (R473 to R476) -/

/-- A band of values: minimum and maximum. -/
structure Band where
  lo : Rat
  hi : Rat
  deriving DecidableEq, Repr

def Band.has (b : Band) (x : Rat) : Bool := decide (b.lo ≤ x) && decide (x ≤ b.hi)

/-- Table 21.7, V. -/
def absoluteMax : Rail → Band
  | .core => ⟨-3/10, 90/100⟩
  | .sram => ⟨-3/10, 100/100⟩
  | .sd => ⟨-3/10, 105/100⟩
  | .sdh => ⟨-3/10, 140/100⟩
  | .pll | .ioA => ⟨-3/10, 210/100⟩
  | .ioB => ⟨-3/10, 390/100⟩
  | .vbat => ⟨-3/10, 4⟩
  | .vhold => ⟨-3/10, 6⟩

/-- The limits of Table 21.7 on a pin, V, from its rails; `openDrn` for MSIRQ_N, TWALIVE and TWFLOOR. -/
def absolutePin (f : PinFamily) (tdc openDrn : Bool) (ioA ioB sdh : Rat) : Option Band :=
  match f with
  | .ioa => some ⟨-3/10, ioA + 3/10⟩
  | .an => some (if tdc then ⟨-2, 35/10⟩ else ⟨-3/10, ioA + 3/10⟩)
  | .iob => some ⟨-3/10, if openDrn then 39/10 else ioB + 3/10⟩
  | .iok => some ⟨-3/10, 4⟩
  | .sd => some ⟨-3/10, sdh⟩
  | .ck => none

/-- Table 21.7: the greatest junction temperature and the storage temperatures, °C, and the ESD ratings, V: HBM, HBM on SD balls, CDM. -/
def junctionMax : Rat := 125
def storageBand : Band := ⟨-55, 150⟩
def esdRatings : Nat × Nat × Nat := (2000, 1000, 250)

/-- Table 21.8, V; the bank of VDDIO_B is a choice of two (`low`: the 1.8 V bank). -/
def operating (low : Bool) : Rail → Band
  | .core => ⟨7275/10000, 7725/10000⟩
  | .sram => ⟨8075/10000, 8925/10000⟩
  | .sd => ⟨855/1000, 945/1000⟩
  | .sdh => ⟨114/100, 126/100⟩
  | .pll | .ioA => ⟨171/100, 189/100⟩
  | .ioB => if low then ⟨171/100, 189/100⟩ else ⟨3135/1000, 3465/1000⟩
  | .vbat => ⟨25/10, 36/10⟩
  | .vhold => ⟨2, 55/10⟩

/-- Nominal values of Table 21.8, V; VHOLD has none. -/
def nominal (low : Bool) : Rail → Option Rat
  | .core => some (75/100)
  | .sram => some (85/100)
  | .sd => some (90/100)
  | .sdh => some (120/100)
  | .pll | .ioA => some (180/100)
  | .ioB => some (if low then 180/100 else 330/100)
  | .vbat => some 3
  | .vhold => none

/-- The greatest ripple of a core or SerDes rail, V peak to peak, 10 kHz to 100 MHz. -/
def rippleMax : Rat := 10/1000

/-- The bank that VDDIO_B puts the IOB pins in (R475): none between 1.89 V and 3.135 V, or outside both ranges. -/
def ioBank (ioB : Rat) : Option Bool :=
  if (operating true .ioB).has ioB then some true else if (operating false .ioB).has ioB then some false else none

/-- The junction range of the part, °C (Table 21.8). -/
def junctionBand : Band := ⟨if Config.gradeZE then -40 else 0, 105⟩

/-- The guarantees hold (R474): every rail within Table 21.8, ripple and junction too. Of the sequencing of R428 the command that makes the rails valid speaks. -/
def withinOperating (v : Rail → Rat) (ripple tj : Rat) : Bool :=
  (ioBank (v .ioB)).isSome && [Rail.core, .sram, .sd, .sdh, .pll, .ioA, .vbat, .vhold].all (fun r => (operating true r).has (v r))
    && decide (ripple ≤ rippleMax) && junctionBand.has tj

/-! ### Levels of the digital pins (Table 21.9) -/

/-- V; leakage in A, pull resistance in Ω (none: no pull), capacitance in F. -/
structure DcRow where
  vih : Rat
  vil : Rat
  hysteresis : Rat
  voh : Option Rat
  vol : Option Rat
  leak : Rat
  pull : Option (Rat × Rat)
  cap : Rat
  deriving DecidableEq, Repr

/-- The row of a family; IOB at the bank `low` says, `io` the supply of the family. -/
def dcRow (f : PinFamily) (low : Bool) (io : Rat) : Option DcRow :=
  let pull : Option (Rat × Rat) := some (35000, 65000)
  match f with
  | .ioa => some ⟨65/100 * io, 35/100 * io, 1/10, some (io - 45/100), some (45/100), 1/100000, pull, 5/1000000000000⟩
  | .iob =>
    if low then some ⟨65/100 * io, 35/100 * io, 1/10, some (io - 45/100), some (45/100), 1/100000, pull, 6/1000000000000⟩
    else some ⟨2, 8/10, 2/10, some (24/10), some (4/10), 1/100000, pull, 6/1000000000000⟩
  | .iok => some ⟨14/10, 4/10, 15/100, none, none, 5/100000000, none, 5/1000000000000⟩
  | _ => none

/-- How a digital input reads a level: none between VIL and VIH. -/
def readsAs (r : DcRow) (v : Rat) : Option Bool := if r.vih ≤ v then some true else if v ≤ r.vil then some false else none

/-! ### Analogue inputs (R477, Table 21.10) -/

/-- A differential REFIN: swing and common mode, V; slew, V/s; frequency, Hz; a pulse reference is at least 10 ns wide. -/
def refinOk (swing cm slew hz : Rat) : Bool :=
  (Band.mk (1/10) (12/10)).has swing && (Band.mk (2/10) (16/10)).has cm && decide (300000000 ≤ slew) && (Band.mk 1 1600000000).has hz

/-- A single-ended REFIN (SE = 1) takes IOA levels up to 250 MHz. -/
def refinSingleOk (hz : Rat) : Bool := (Band.mk 1 250000000).has hz

def pulseWidthOk (s : Rat) : Bool := decide (10/1000000000 ≤ s)

/-- The internal termination of a differential REFIN, Ω. -/
def refinTermination : Band := ⟨90, 110⟩

/-- OSCIN, and GCLK but for its frequency: swing V peak to peak. -/
def oscSwing : Band := ⟨3/10, 18/10⟩

/-- The phase noise an oscillator may have at 10 kHz and at 1 MHz, dBc/Hz at 20 MHz; at another frequency 20 log of the ratio is added (`scale`). -/
def oscNoiseOk (scale at10k at1M : Rat) : Bool := decide (at10k ≤ -140 + scale) && decide (at1M ≤ -160 + scale)

/-- A TDC input: range V, impedance Ω and F, threshold accuracy V, slew V/s, width s. -/
def tdcRange : Band := ⟨-15/10, 3⟩
def tdcImpedance : Rat × Rat := (10000, 2/1000000000000)
def tdcThresholdError : Rat := 10/1000
def tdcEdgeOk (slew width : Rat) : Bool := decide (1000000000 ≤ slew) && decide (500/1000000000000 ≤ width)

/-- TSENSE and VHSNS: range V, impedance Ω; VHSNS reads within 0.5 %, the conversion of TSENSE adds at most 0.25 K (R478). -/
def tsenseRange : Band := ⟨0, 16/10⟩
def vhsnsRange : Band := ⟨0, 12/10⟩
def senseImpedance : Rat := 1000000
def vhsnsError : Rat := 5/1000
def tsenseError : Rat := 1/4

/-! ### Clock outputs (R479, R480) -/

/-- Levels of a format, V, into its load: the swing or the high level, the offset or the low level; rise and fall time, s. LVCMOS has the levels of IOA at 8 mA. -/
def clkLevels : Nat → Option (Option Band × Option Band × Rat)
  | 1 => some (some ⟨25/100, 45/100⟩, some ⟨1125/1000, 1375/1000⟩, 150/1000000000000)
  | 2 => some (some ⟨65/100, 85/100⟩, some ⟨-5/100, 5/100⟩, 250/1000000000000)
  | 3 => some (some ⟨4/10, 8/10⟩, none, 80/1000000000000)
  | 4 => some (none, none, 600/1000000000000)
  | _ => none

/-- The skew between outputs of one APLL with equal M and SKEW, s, and the duty cycle of a divider, % (R190, R479). -/
def outSkew : Rat := 30/1000000000000
def outDuty (m : Nat) : Band := if m % 2 == 0 then ⟨49, 51⟩ else ⟨48, 52⟩

/-- Rows of Table 21.12: frequency Hz (none: any), format, loop bandwidth Hz, band Hz, typical and greatest jitter, s rms. They apply while SPUR_WARN is 0. -/
def jitterRows : List (Option Rat × Nat × Option Nat × Rat × Rat × Rat × Rat) := [
  (some 156250000, 1, some 500000, 12000, 20000000, 32/1000000000000000, 50/1000000000000000),
  (some 625000000, 3, some 1000000, 12000, 20000000, 30/1000000000000000, 48/1000000000000000),
  (some 24576000, 1, none, 100, 5000000, 110/1000000000000000, 180/1000000000000000),
  (none, 4, none, 12000, 5000000, 1500/1000000000000000, 3000/1000000000000000)]

/-! ### Serial interfaces and timing (R481 to R483) -/

/-- The specification a lane meets at the balls, by the speed code of a port (Table 21.13). -/
def laneSpec : Nat → Option String
  | 1 | 2 => some "IEEE 802.3 Annex 83D and Annex 83E (host side)"
  | 3 => some "IEEE 802.3 Annex 109A and Annex 109B"
  | 4 => some "SFI, host side"
  | 5 | 6 => some "1.25 GBd SFP host interface, 500 to 900 mV differential"
  | _ => none

/-- The twin link meets Annex 109A over at most 20 dB at 12.89 GHz; PCIe the PCIe 4.0 Base Specification at 2.5 to 16 GT/s. -/
def twinSpec : String × Rat := ("IEEE 802.3 Annex 109A", 20)
def pcieSpec : String × Rat × Rat := ("PCIe 4.0 Base Specification", 25/10, 16)

/-- REFCLK_ETH: 156.25 MHz within 100e-6, jitter of 200 fs rms at most over 12 kHz to 20 MHz (R482). -/
def refclkEthOk (hz jitter : Rat) : Bool :=
  (Band.mk (156250000 - 15625) (156250000 + 15625)).has hz && decide (jitter ≤ 200/1000000000000000)

/-- PCIE_REFCLK: 100 MHz within 300e-6, spread down by 0.5 % at most; separate references with spread (SRIS) are not supported (R482). -/
def refclkPcieOk (hz spread : Rat) (separate : Bool) : Bool :=
  (Band.mk (100000000 - 30000) (100000000 + 30000)).has hz && (Band.mk 0 (5/1000)).has spread && (!separate || spread == 0)

/-- Interfaces of Table 21.14, figures in ns but frequencies in MHz. -/
structure TimingRow where
  interface : String
  figures : List Rat
  deriving DecidableEq, Repr

def timingRows : List TimingRow := [
  ⟨"MSCK frequency, least and greatest duty %", [50, 45, 55]⟩,
  ⟨"MSDI setup, hold", [3, 2]⟩,
  ⟨"MSDO valid from, to", [1, 7]⟩,
  ⟨"MSCS_N setup, hold, high time", [10, 10, 20]⟩,
  ⟨"BSCK frequency", [100]⟩,
  ⟨"BSIO output around falling BSCK", [15/10]⟩,
  ⟨"BSIO input setup, hold", [15/10, 1]⟩,
  ⟨"GNSS samples setup, hold", [2, 5/10]⟩,
  ⟨"PULSE and TRIG rise and fall", [8/10]⟩,
  ⟨"WCKIN and AESIN high and low time at 48 kHz, at 192 kHz", [100, 25]⟩,
  ⟨"AESOUT and WCKOUT edge jitter", [1]⟩,
  ⟨"PORST_N and RST_N low time", [1000]⟩,
  ⟨"TCK frequency, TMS and TDI setup, hold, TDO valid", [25, 5, 5, 12]⟩]

/-! ### Power, heat, package, marking (R485 to R487) -/

/-- Table 21.15: current in A and power in W, typical and greatest, of the rails and of VDDIO_B at 3.3 V. -/
def railPower : Rail → Option (Rat × Rat × Rat × Rat)
  | .core => some (16, 12, 213/10, 1645/100)
  | .sram => some (14/10, 119/100, 2, 179/100)
  | .sd => some (4, 36/10, 49/10, 463/100)
  | .sdh => some (1, 12/10, 14/10, 176/100)
  | .pll => some (12/10, 216/100, 15/10, 284/100)
  | .ioA => some (15/100, 27/100, 25/100, 47/100)
  | .ioB => some (175/1000, 58/100, 3/10, 104/100)
  | .vbat | .vhold => none

def poweredRails : List Rail := [.core, .sram, .sd, .sdh, .pll, .ioA, .ioB]

def totalPower (greatest : Bool) : Rat :=
  (poweredRails.map fun r => match railPower r with
    | some (_, t, _, m) => if greatest then m else t
    | none => 0).foldl (· + ·) 0

/-- VHOLD draws 50 µA at most in service, A. -/
def vholdCurrent : Rat := 50/1000000

/-- Table 21.16, K/W: junction to lid, junction to board, junction to thermocouple, still air without a heat sink. -/
def thetaJC : Rat := 8/100
def thetaJB : Rat := 24/10
def psiJT : Rat := 5/100
def thetaJA : Rat := 115/10

/-- Temperatures at a power, °C, with what stands between lid and air, K/W: of the lid and of the junction. -/
def lidTemp (air watts sink : Rat) : Rat := air + watts * sink
def junctionTemp (air watts sink : Rat) : Rat := lidTemp air watts sink + watts * thetaJC

/-- The most that may stand between lid and air for a junction limit, K/W. -/
def sinkLimit (limit air watts : Rat) : Rat := (limit - watts * thetaJC - air) / watts

/-- Table 21.17: body and pitch in mm, ball diameters, greatest height, coplanarity, mass in g, moisture level, peak reflow °C, floor life h. -/
def bodySize : Band := ⟨289/10, 291/10⟩
def ballPitch : Rat := 1
def ballDiameter : Band := ⟨50/100, 70/100⟩
def heightMax : Rat := 305/100
def coplanarity : Rat := 20/100
def packageMass : Rat := 75/10
def moisture : Nat × Nat × Nat := (4, 260, 72)

/-- The lid marking (R487): maker, ordering code (Table 0.3) with the revision, date code YYWW, lot. -/
def lidMarking (yyww lot : String) : List String :=
  ["NORONE", (if Config.gradeZE then "GL8816-ZE" else "GL8816-ZC") ++ " B1", yyww, lot]

/-- Devices a tray holds, all of one ordering code and revision. -/
def trayOk (markings : List (String × String)) : Bool :=
  decide (markings.length ≤ 24) && (markings.eraseDups.length ≤ 1)

end Sys2Proof.Machine
end

