-- ==== Sys2Proof/WellFormed.lean ====
section
/-! DEFINITION. Which commands are well formed: every number of an operand names something the device has. The machine answers an ill-formed command with the state unchanged (log 26). -/
namespace Sys2Proof

/-- A part of a TCLK in 2⁻¹⁶ ns. -/
def subOk (sub : Nat) : Bool := sub < 65536

/-- A byte address of the register map or its alias region, as a 24-bit access carries it (R53, R348). -/
def offsetOk (off : Nat) : Bool := off < 2 ^ 24

/-- What a requester can address: the register map, and over PCIe BAR2 and the configuration space beside it (log 19). -/
def accessOk (r : Requester) (off : Nat) : Bool :=
  offsetOk off || (match r with
    | .pcie0 | .pcie1 => off < 0x2001000
    | _ => false)

/-- The slots with an indirect space (R62). -/
def indSlotOk (slot : Nat) : Bool := [11, 12, 18, 21].contains slot

/-- A resolved edge of a TDC input: 8 inputs, codes of 11 bits (R212, R213). -/
def tdcEdgeOk (input : Nat) (e : TdcIn) : Bool := input < 8 && e.code < 2048

/-- Satellites and signals a measurement names: systems 0 to 3, eight signals, satellites 1 to 63, GLONASS channels −7 to +6 (Table 11.1). -/
def bandOk (m : BandMeas) : Bool := m.sig < 8
def satOk (m : SatMeas) : Bool := m.sys < 4 && 1 ≤ m.sv && m.sv ≤ 63 && bandOk m.m1 && m.m5.all bandOk
def cellOk (c : Cell) : Bool := -7 ≤ c.fch && c.fch ≤ 6
def searcherOk : Searcher → Bool
  | .bank b => b < 2
  | .chan c => c < 160

/-- A message type that unicast negotiation knows: Sync, Delay_Resp, Announce (R311). -/
def grantTypeOk (t : Nat) : Bool := t == 0 || t == 9 || t == 11

def fuseImageOk (f : FuseImage) : Bool := f.pinrst.length == 8

/-- A request at the Hall: 12 masters, 64 IDs, 9 targets, bursts of 1 to 16 beats (R363, R364). -/
def hallOk (master id target beats : Nat) : Bool := master < 12 && id < 64 && target < 9 && 1 ≤ beats && beats ≤ 16

def boundaryOk : Boundary → Bool
  | .bell => true
  | .gclCycle p => p < 6
  | .audioBlock n => n < 4
  | .gridPeriod g => g < 8

def wellFormed (i : Instr) : Bool :=
  match i with
  | .coreRailsValid | .coreRailsFail | .porstNLow | .rstNLow | .rstNRelease | .perstN | .flashIoFail | .fabricBuildComplete
  | .holdupEnergyTimeout | .bringupWatchdogExpiry | .startSuccessCount | .claimWaitExpiry | .twfloorLowInClaim
  | .watchdogExpiry | .blockQuiesced | .quiesceTimeout | .blockResetRelease | .suppressedWrap | .preBell
  | .checkpointComplete | .ledgerRingDelivery | .tallyRingDelivery | .verifyComplete | .shadowBuildComplete
  | .tdcWindowExpiry | .tdcGateClose | .gclkRecovery | .aidRecord _ | .leapChange | .ntsExchangeBegin | .ntpv4Answer | .epochKeyDerived
  | .mintRecord | .flushEdge | .cacheFilled | .invalidateWalkComplete | .sealComplete | .fwmacComplete | .twinLinkTrained
  | .helloSend | .twinLockLoss | .heartbeatMiss | .heartbeatLoss | .twfloorRelease | .muteTimeout | .audioReturnSwitch
  | .reactionStepComplete | .twinLinkLoss | .oscrdyFall | .vbatLoss => true
  | .porstNRise _ | .brownoutHoldBegin _ | .brownoutHoldEnd _ | .brownoutReset _ | .brownoutResetRelease _
  | .ledgerExtractIssue _ | .flashWriteComplete _ | .tdcMinute _ | .calibrationStoreComplete _ | .jtagInstructionUpdate _
  | .bell _ => true
  | .selfTestComplete res => res.taps.length == 23 && res.tdc.all fun c => c.intp < 9 && c.bins.all (·.1 < 2048)
  | .refEvaluation l => l.all (·.ref < 32)
  | .solutionEpoch inp => inp.sats.all satOk
  | .rstWdogWrite _ _ | .rstCmdBlockReset _ _ | .rstCmdChipReset _ _ | .rstCmdCoresReset _ _ | .genVerOfferWrite _ _
  | .tscLrdSelWrite _ _ | .loadStream _ | .arm _ | .abort _ | .chtLoadDataWrite _ _ | .refLockoutWrite _ _ | .tdcRes0Read _
  | .gnPosZHiWrite _ _ | .ptCalcmdStore _ _ | .tolCmdAdvance _ _ | .keyCommit _ | .keySeal _ | .keyFwmac _ | .keyZeroise _
  | .keyTcfgWrite _ _ | .keyHtestRun _ _ | .twnCmdAbdicate _ _ | .twnCmdSwap _ _ | .fltAckWrite _ _ | .fltInjWrite _ _
  | .fltEnt0Read _ | .fltSrcSelWrite _ _ | .ptGrdSelWrite _ _ | .keyNrdSelWrite _ _ => true
  | .functionLevelReset fn => fn < 2
  | .trimLoadComplete _ f => fuseImageOk f
  | .clockDomainGood d _ | .clockDomainTimeout d | .clockLoss d => d < 20
  | .charterFlashReadComplete slot _ | .loadFlash _ slot | .flashWrite _ slot => slot < 2
  | .stageArming b => boundaryOk b
  | .registerWrite r off n _ | .readClearRead r off n | .latchingRead r off n => accessOk r off && 1 ≤ n
  | .aliasRead _ off n | .aliasWrite _ off n _ => offsetOk off && 1 ≤ n
  | .indDataRead _ slot | .indDataWrite _ slot _ | .indTimeout _ slot => indSlotOk slot
  | .scSetNsWrite _ scale _ | .scStepHiWrite _ scale _ | .holdoverPointBoundary scale => scale < 2
  | .refPresent r | .refQualify r | .refLoss r _ | .missingInputPulse r => r < 32
  | .pulseInputEdge r _ sub => r < 32 && subOk sub
  | .holdoffExpiry n | .selDclrWrite _ n _ | .stallUpdate n _ => n < 32
  | .apllLockAssert n | .apllLockLoss n | .apllRefLoss n | .phaseStepperStep n _ => n < 4
  | .pulseInstant n => n < 8
  | .pulseWidthEnd trig n => n < if trig then 16 else 8
  | .gridBoundary g | .gridFlywheel g => g < 8
  | .gridEdge g sub => g < 8 && subOk sub
  | .triggerInstant n | .trnCntHiWrite _ n _ | .trnCap0Read _ n => n < 16
  | .captureEdge n _ sub => n < 16 && subOk sub
  | .tdcStartEdge e => tdcEdgeOk 0 e
  | .tdcStopEdge n e => 1 ≤ n && tdcEdgeOk n e
  | .tdcTimestampEdge n e => tdcEdgeOk n e
  | .tdcCalibrationComplete c => c.intp < 9 && c.bins.all (·.1 < 2048)
  | .searchDwellComplete who inp => searcherOk who && inp.cells.all cellOk
  | .searchTimeout c | .channelTrack c | .channelLockLoss c => c < 160
  | .navUnitDecoded u => u.ch < 160 && !u.bits.isEmpty
  | .gnssStoreWrite item => item < 6
  | .spectrumUpdate b _ | .gnJncfgLearn _ b _ => b < 2
  | .frameReceived p f => p < 6 && subOk f.sub
  | .prpForget p _ _ | .transmitOpportunity p | .launchQueueEntry p | .launchStart p | .gateEntryChange p | .gclCycleStart p
  | .macGclCommitWrite _ p _ | .linkLoss p | .portRetryBackoffEnd p | .managementMessageReceived p | .pdelayRespReceived p
  | .delayReqReceived p | .pdelayReqReceived p | .unicastRequestReceived p | .unicastCancelReceived p | .ntpRequestTaken p => p < 6
  | .linkTrained p speed => p < 6 && 1 ≤ speed && speed ≤ 6
  | .pauseTimerExpiry p prio => p < 6 && prio.all (· < 8)
  | .flowControlThreshold p c | .fcRepeatTimer p c => p < 6 && c < 8
  | .portTransientFault p cause => p < 6 && 1 ≤ cause && cause ≤ 5
  | .syncReceived m | .followUpReceived m | .delayRespReceived m | .trackingDelayReq m | .trackingTimeout m _
  | .unicastGrantReceived m => m < 8
  | .announceReceived m rank st => m < 8 && rank < 256 && st < 16
  | .grantRenewalTimer m t => m < 8 && grantTypeOk t
  | .scheduledMessageInstant e g _ => e < 16 && g.all (· < 65536)
  | .doorbellWrite fn _ q _ ps => fn < 2 && q < 64 && ps.all (·.desc.length == 32)
  | .descriptorCompletion _ q | .interruptTimer _ q | .ringEnable _ _ q | .dmaError _ q _ => q < 64
  | .mspiRead a n _ => offsetOk a && 1 ≤ n
  | .mspiWrite a ws _ => offsetOk a && !ws.isEmpty
  | .mspiStatus c => c < 256
  | .hallRequest m i t _ _ b => hallOk m i t b
  | .hallCompletion m i => m < 12 && i < 64
  | .keyInvalidate _ n => n < 1024
  | .keyLoad _ e n => e < 8 && n < 1024
  | .keyUnload _ e => e < 8
  | .tamperEvent n => n < 8
  | .holdupSample _ | .dischargeTest _ => true
  | .helloReceived m | .abdicateReceived m | .handoverReceived m | .handoverAnsReceived m | .bellMessageReceived m
  | .snapBeginReceived m | .snapDataReceived m | .snapEndReceived m | .snapAckReceived m => !m.isEmpty
  | .timingSend sub _ => subOk sub
  | .timingReceived m sub => !m.isEmpty && subOk sub
  | .audioEdge c _ | .audioClockLoss c => c < 5
  | .audioBlockBoundary n | .rampEnd n | .loopThroughSlip n => n < 4
  | .faultReport s c dt => s < 65536 && c < 256 && dt < 2 ^ 24
  | .graceExpiry s c | .retryBackoffEnd s c => s < 65536 && c < 256

end Sys2Proof
end

