-- ==== Sys2Proof/Tests/Slice0.lean ====
section
/-! SUPPORT. Tests: worked examples of the spec, the refusals of `wellFormed`, and for every statement with hypotheses states and operands that meet them. -/
namespace Sys2Proof.Tests
open Sys2Proof Sys2Proof.Machine

-- Each theorem is checked before the next is elaborated: many kernel evaluations at once would need a thread each.
set_option Elab.async false

/-! ### Small states -/

/-- A device in ACTIVE with every clock good and nothing configured. -/
def base : Dev :=
  let r := State.reset.dev
  { r with
    gen := { r.gen with mode := .active, coresRun := true }
    start := { r.start with phase := .done, oscHz := 10000000, domains := List.replicate 20 .good }
    tsc := { r.tsc with running := true } }

def on (f : Dev → Dev) : State := { State.reset with dev := f base }

/-- The structure a charter has built. -/
def plane (l : List Pitch) (d : Dev) : Dev := { d with cht := { d.cht with cur := some ⟨{ pitches := l }, 1, [], 0, 0⟩ } }

def pitch (kind index func : Nat) (links : List Link) : Pitch := ⟨kind, index, func, links, []⟩

def inMode (m : Mode) (d : Dev) : Dev := { d with gen := { d.gen with mode := m } }

def atPhase (p : StartPhase) (d : Dev) : Dev := { d with start := { d.start with phase := p } }

/-- A word in a register and in effect. -/
def put (k : Nat) (w : Word) (d : Dev) : Dev := setBoth d k w

def chtIn (c : Cht) (d : Dev) : Dev := { d with cht := c }

def tdcIn (t : Tdc) (d : Dev) : Dev := { d with tdc := t }

/-- An image with nothing but a header and room for its Seal. -/
def smallImage : List Byte := [0x47, 0x4C, 0x43, 0x48] ++ List.replicate 28 0 ++ [0, 0, 1, 8] ++ List.replicate 228 0

def tscIn (t : Tsc) (d : Dev) : Dev := { d with tsc := t }

def refIn (r : Nat) (m : RefMon) (d : Dev) : Dev := { d with refs := d.refs.set r m }

def selIn (n : Nat) (x : Sel) (d : Dev) : Dev := { d with sels := d.sels.set n x }

/-- A staged word that waits for the Bell. -/
def stagedWord (k : Nat) (w : Word) (late : Bool) : Staged := ⟨0, .bell, [(k, w)], 0, !late, late, none⟩

/-- Two stalls that steer the scales. -/
def steered : List Pitch := [pitch 1 0 1 [⟨1, 0, 1⟩, ⟨2, 0, 0⟩], pitch 1 1 1 [⟨1, 0, 1⟩, ⟨2, 1, 0⟩]]

/-- A delta waits in READY, its structure the one in effect. -/
def deltaReady (d : Dev) : Dev :=
  let e : InEffect := ⟨{ pitches := steered }, 0, [], 0, 0⟩
  { d with cht := { d.cht with cur := some e, shadow := some e, shadowIsDelta := true, st := .ready } }

/-- A minute and more has passed on the free counter. -/
def waited (d : Dev) : Dev := { d with t := 100000000000 }

/-- The TDC runs in a mode with inputs 0 and 1 enabled. -/
def tdcOn (mode : Nat) (t : Tdc) (d : Dev) : Dev :=
  put (inKey TDC_CFG 0) 0x80000000 (put (inKey TDC_CFG 1) 0x80000000 (setReg { d with tdc := t } (baseTdc + 4) (w32 (1 + 2 * mode))))

/-- A measurement whose start stood at coarse count 10. -/
def measOf (stops : Nat) : TdcMeas := ⟨⟨10, 0, false, false, 0⟩, stops, 0, false⟩

/-- Gate 4, which waits for its second edge. -/
def oldGate : TdcGate × BitVec 64 := ({ first := some (measOf 0).start, count := 3 }, 4)

/-- A gate whose time is over, with input 1 alone enabled and one edge seen on it. -/
def openGate (d : Dev) : Dev :=
  waited (put (inKey TDC_CFG 0) 0 (tdcOn 2 { gateOpen := true, gates := List.replicate 8 { first := some (measOf 0).start } } d))

/-- A minute of the reference of TS-A's stall is over: two readings of a sum, after a minute whose mean was 3. -/
def drifting (sum : Int) (d : Dev) : Dev :=
  waited (plane steered (selIn 0 { curV := true, cur := 3 } (tdcOn 0 { minN := 2, minSum := sum, lastMean := some 3, meas := some (measOf 1) } d)))

def gnsOn (g : Gns) (d : Dev) : Dev := setReg { d with gns := g } (baseGns + 4) 1

/-- The other notches of band 1 do not adapt, and notch 2 does, from 20 dB. -/
def quietNotches (d : Dev) : Dev :=
  [0, 1, 3].foldl (fun d n => put (ntKey NT_CFG 1 n) 0 d) (put (ntKey NT_CFG 1 2) 0x1402 d)

/-- Every signal is enabled, both bands run, tuned to 1575.42 MHz and 1176.45 MHz. -/
def skyOn (g : Gns) (d : Dev) : Dev :=
  put GN_SIGEN 0xFF (put (bandKey GN_BAND_CFG 0) 0x80000000 (put (bandKey GN_BAND_CFG 1) 0x80000000
    (put (bandKey GN_LO 0) 1575420000 (put (bandKey GN_LO 1) 1176450000 (gnsOn g d)))))

/-- One channel stands as given under that sky. -/
def chanIn (c : Nat) (x : GnsChan) (d : Dev) : Dev := skyOn { d.gns with chans := d.gns.chans.set c x } d

def noContent : NavContent := ⟨none, none, none, none, none, none, none, 60⟩

/-- A unit of channel 7 that completes an ephemeris 60 km from the one before, or none. -/
def navUnit (l : List Bool) (eph : Option (List Byte)) : NavUnit := ⟨0, 7, l, false, false, 1, { noContent with ephemeris := eph }⟩

/-- A word of LNAV that completes an ephemeris near the one before. -/
def nearUnit : NavUnit := ⟨0, 7, List.replicate 30 false, false, false, 1, { noContent with ephemeris := some [1], fs5Km := 10 }⟩

/-- A CNAV message whose CRC is wrong. -/
def cnavBad : List Bool := List.replicate 299 false ++ [true]

/-- The epoch instant at the end of the first second is now. -/
def epochNow (d : Dev) : Dev := tscIn { d.tsc with o := secUnit } d

def obsAt (sv : Nat) (y : Rat) : Obs := ⟨⟨0, sv, ⟨0, 0, 0, 0, 400⟩, none, 0, 0, 0, 0, 30, 0⟩, y, 0, 0, 1⟩

def fourObs : List Obs := [obsAt 1 5, obsAt 2 7, obsAt 3 900000, obsAt 4 6]

def fitOf (r : Fit ⊕ (Nat × List SatMeas)) : Fit :=
  match r with
  | .inl f => f
  | .inr _ => ⟨0, 0, [], (0, 0, 0), [], [], [], [], 0⟩

/-- Port p stands as given, its pitch built and its block enabled. -/
def portIn (p func : Nat) (links : List Link) (x : Port) (d : Dev) : Dev :=
  plane [pitch 7 p func links] (setReg { d with ports := d.ports.set p x } (macWin p + 4) 1)

def upPort : Port := { st := .up }

def plainFrame (c n : Nat) (seq : Nat) : TxFrame := { src := .plain, cls := c, bytes := List.replicate n 1, launch := none, stampWanted := false, insert := none, seq := seq }

/-- A launch-time frame. -/
def timedFrame (l : Nat) : TxFrame := { plainFrame 2 60 1 with launch := some l }

def ownMac : List Byte := [0, 0, 0, 0, 0, 0]

/-- The Crier runs, with entry 3 built on port 1 and tracking slot 2 on that entry. -/
def crierOn (x : DomEntry) (cfg tcfg : Word) (t : TrackSlot) (d : Dev) : Dev :=
  put (domKey PT_DCFG 3) cfg (put (slotKey PT_TCFG 2) tcfg (setReg
    { d with ptp := { d.ptp with entries := d.ptp.entries.set 3 { x with built := true, port := 1 }, slots := d.ptp.slots.set 2 t } } (basePtp + 4) 1))

def client : DomEntry := { role := 2, profile := 1 }
def server : DomEntry := { role := 3, profile := 1, portState := 6 }

def withGrants (l : List Grant) (d : Dev) : Dev := { d with ptp := { d.ptp with grants := l } }

/-- The Tollgate serves one address on port 1. -/
def tolOn (t : Tol) (d : Dev) : Dev := setReg (setReg { d with tol := t } TOL_IP_CFG 0x80020000) (baseTol + 4) 1

/-- Ring q of the receive side is on, 8 descriptors large. -/
def rxOn (q : Nat) (x : Ring) (d : Dev) : Dev := setReg { d with qmg := { d.qmg with rxq := d.qmg.rxq.set q x } } (cfgRx q) 0x80000003

def hallReq (m i t : Nat) : HallReq := ⟨m, i, t, 9, true, 4, false, false⟩

def keyIn (k : Key) (d : Dev) : Dev := { d with key := k }

/-- A root, energy for the journal, and a valid key-encryption node 3. -/
def keyTree : Key :=
  { root := some [1, 2], eValid := true, e := 5000, v := 10000
    nodes := [⟨3, .valid, 0, 0, 0, false, 1, [], []⟩, ⟨4, .valid, 3, 2, 2, false, 1, [], []⟩, ⟨5, .valid, 4, 2, 2, false, 1, [], []⟩] }

def fusesIn (f : FuseImage) (d : Dev) : Dev := { d with start := { d.start with shadowsValid := true, fuses := f } }

def heldFuses : FuseImage := { base.start.fuses with holdcap := 1000, hratio := 64 }

/-- A twin message without protection. -/
def twinMsgOf (type : Nat) (payload : List Byte) : List Byte :=
  let b := twinHeader type 0 payload.length 1 0 ++ payload
  b ++ beBytes 4 (crc32 b).toNat

def twinIn (m : Mode) (t : Twn) (d : Dev) : Dev := inMode m (setReg { d with twn := t } (baseTwn + 4) 1)

def linked : Twn := { link := .up, agreed := 0x0200 }

def audOnly (a : Aud) (d : Dev) : Dev := setReg { d with aud := a } (baseAud + 4) 1

def fltIn (f : Flt) (d : Dev) : Dev := { d with flt := f }

def entryOf (c : Nat) (seq : Word) : FltEntry := ⟨0, 0, seq, 0, c, 1, 0, .c, false, false, false, false, false⟩

def badBody : List Byte := List.replicate 100 1

/-- TXQ 5 is enabled and carries one descriptor. -/
def txRec (b : List Byte) (d : Dev) : Dev :=
  setReg { d with qmg := { d.qmg with txq := d.qmg.txq.set 5 { posted := [⟨0, b, 0, false, false, 0, 0, none, false⟩] } } } (cfgTx 5) 0x80000000

def tolReq (nts : Bool) : TolReq := ⟨1, nts, false, 5, 0, List.replicate 16 0, List.replicate 24 7, 0x23 :: List.replicate 47 0⟩

def emptyDesc : Desc := ⟨4096, [], 2048, false, false, 0, 0, none, false⟩

def rootKey : WorkKey := { node := some 4, key := [1, 2, 3] }

def withWork (d : Dev) : Dev := { d with key := { d.key with work := d.key.work.set 0 rootKey } }

/-- A domain is deferred since TCLK 5; the fabric is built. -/
def deferred (dom : Nat) (d : Dev) : Dev :=
  waited (plane [] { d with start := { d.start with domains := (List.replicate 20 .good).set dom .deferred, ethT := some 5 } })

/-- A self-test that finds everything good. -/
def tested : SelfTestIn := ⟨true, true, true, 0, 0, [], false, true, List.replicate 23 40⟩

def inReset (x : BlockReset) (d : Dev) : Dev := { d with gen := { d.gen with rst := some x } }

/-- A Bell at which nothing is measured. -/
def quietBell : BellIn := ⟨[], 0, 0, 0, 0, [], [], [], []⟩

/-- Stall 0 steers TS-A by a reference that carries frequency, present and qualified. -/
def following (r : Nat) (x : Stall) (d : Dev) : Dev :=
  plane steered (setReg (put (refKey REF_CFG r) 1 (refIn r { present := true, qualified := true } (selIn 0 { curV := true, cur := r }
    { d with stalls := d.stalls.set 0 x }))) (stlWin 0 + 4) 1)

/-- The evaluation is due; reference 2 carries frequency, within no deviation at all. -/
def evaluated (d : Dev) : Dev := waited (plane [] (put (refKey REF_FTOL 2) 0 (put (refKey REF_CFG 2) 1 (refIn 2 { present := true } d))))

/-- A start in which output 2 on APLL 0 carries ETHREF. -/
def ethStart (d : Dev) : Dev :=
  let c : InEffect := ⟨{ pitches := [pitch 2 0 1 [], pitch 3 2 2 [⟨3, 0, 0⟩]], ethref := 2 }, 1, [], 0, 0⟩
  inMode .bringup (put AP_NINT 1200 (put (outKey OUT_CFG 2) 0x04000050 { d with cht := { d.cht with cur := some c } }))

/-- Pulse 0 gives one edge a second on TS-O. -/
def pulsing (x : Pulse) (d : Dev) : Dev :=
  waited (plane [pitch 4 0 1 [⟨4, 0, 0⟩]] (put (plKey PL_WIDTH 0) 1000 (put (plKey PL_PNUM 0) 1 { d with pulses := d.pulses.set 0 x })))

/-- Pulse 0 follows the pulses of reference 2, whose last came a second ago. -/
def follower (x : Pulse) (d : Dev) : Dev :=
  waited (plane [pitch 4 0 1 [⟨4, 0x12, 0⟩]] (put (refKey REF_CFG 2) 2
    (refIn 2 { present := true, lastPulse := some 6488064000000005 } { d with pulses := d.pulses.set 0 x })))

def video (x : Grid) (d : Dev) : Dev :=
  plane [pitch 5 2 1 [⟨5, 0, 0⟩]] (put (grKey GR_PNUM 2) 1 { d with grids := d.grids.set 2 x })

def measuredGrid (x : Grid) (d : Dev) : Dev := plane [pitch 5 2 3 [⟨5, 0x12, 0⟩]] { d with grids := d.grids.set 2 x }

def audioGrid (x : Grid) (d : Dev) : Dev :=
  plane [pitch 5 2 2 [⟨5, 0, 0⟩]] (put (grKey GR_DIV 2) 4 { d with grids := d.grids.set 2 x })

/-- Trigger 1 stands as given on a grid whose last boundary was at 0: FUNC 1 an output, 2 a capture input. -/
def shots (func : Nat) (x : Trig) (d : Dev) : Dev :=
  waited (plane [pitch 5 2 3 [], pitch 6 1 func [⟨6, 2, 0⟩]] { d with
    grids := d.grids.set 2 { run := true, started := true, per := 65536 }, trigs := d.trigs.set 1 x })

/-- A frame to an address, of 100 octets before its FCS. -/
def rxFrame (dst rest : List Byte) : RxFrame := ⟨withFcs (dst ++ [2, 0, 0, 0, 0, 1] ++ rest ++ List.replicate (88 - rest.length) 0), 0, 5, 2, 1⟩

/-- A frame whose FCS has one bit wrong. -/
def badFrame : RxFrame := ⟨badBody ++ leBytes 4 (crc32 badBody ^^^ 1).toNat, 0, 5, 0, 0⟩

/-- Port 2 at 10 Gb/s, without a SyncE monitor. -/
def quietPort (x : Port) (d : Dev) : Dev := put (refKey REF_CFG 12) 0 (portIn 2 1 [⟨7, 0, 4⟩] x d)

/-- A cycle of 1 ms in two entries that starts on the present TCLK. -/
def gated : GateBank := { gen := true, len := 2, entries := [(1, 400000), (254, 600000)] }

/-- One frame of class 3 of port 2 stands in ring 0. -/
def occupied (n : Nat) (d : Dev) : Dev := { d with qmg := { d.qmg with rxq := d.qmg.rxq.set 0 { filled := [⟨[], 0, [], n, some (2, 3)⟩] } } }

/-- Flow control by PFC, from 2 KiB on, down to 1 KiB. -/
def pfcOn (d : Dev) : Dev := setReg (setReg d (macReg 2 0x30) 0x00070022) (macReg 2 0x34) 0x00010002

/-- The charter's POLICY is the built-in one. -/
def policed (d : Dev) : Dev :=
  { d with cht := { d.cht with cur := d.cht.cur.map fun c => { c with fabric := { c.fabric with policy := builtinPolicy } } } }

def theirId : List Byte := [1, 2, 3, 4, 5, 6, 7, 8, 0, 1]

/-- A PTP message over Ethernet, taken at port 1 of domain 0 from the clock `theirId`. -/
def ptpFrame (type flags : Byte) (seq : Nat) (rest : List Byte) : Taken :=
  { ptp := true, port := 1, stamp := 10 ^ 9, t := 7, inst := 7 * 65536, pair := [10 ^ 9, 10 ^ 9], sides := [0, 0, 0]
    bytes := [1, 0x80, 0xC2, 0, 0, 0x0E, 2, 0, 0, 0, 0, 9, 0x88, 0xF7, type, 2] ++ beBytes 2 (34 + rest.length) ++ [0, 0, flags] ++ zeros 13
      ++ theirId ++ beBytes 2 seq ++ [0, 0] ++ rest }

def heard (l : List Taken) (d : Dev) : Dev := { d with taken := l }

/-- The slot 2 of entry 3, with its master put there by the firmware, after one message. -/
def slave (cfg : Word) (x : TrackSlot) (f : Taken) (d : Dev) : Dev := heard [f] (crierOn client cfg 0x80000003 { x with master := theirId } d)

def syncOf (flags : Byte) : Taken := ptpFrame 0 flags 4 (beBytes 10 77)
def followUpOf : Taken := ptpFrame 8 0 4 (beBytes 10 77)
def delayRespOf : Taken := ptpFrame 9 0 4 (beBytes 10 77 ++ portId 1)
def pdelayRespOf : Taken := ptpFrame 3 0 4 (beBytes 10 77 ++ portId 1)
def announceOf : Taken := ptpFrame 11 0 4 (List.replicate 30 6)

/-- A Signaling message with one TLV. -/
def signalOf (type : Byte) (tlv : List Byte) : Taken := ptpFrame 12 4 4 (List.replicate 10 0xFF ++ [0, type] ++ beBytes 2 tlv.length ++ tlv)

/-- The slot's requests are unicast, to the station of `ptpFrame`. -/
def fixedSlave (x : TrackSlot) (f : Taken) (d : Dev) : Dev :=
  heard [f] (put (slotKey PT_TADDR 2 + 4) 0x900 (put (slotKey PT_TADDR 2) 2 (crierOn client 8 0x80000303 x d)))

/-- A grant of Sync at one a second to a client. -/
def grantIn (i : Nat) : Grant := ⟨i, List.replicate 16 2, theirId, 3, 0, 0, false, false, false, 0, 100, 5, 0⟩

/-- Entry 3 serves at port 1, which is UP; a frame has been taken. -/
def serving (x : DomEntry) (cfg : Word) (l : List Taken) (d : Dev) : Dev := heard l (portIn 1 1 [⟨7, 0, 4⟩] upPort (crierOn x cfg 0 {} d))

/-- A Pdelay_Req with sequence 4 left port 1 at 10. -/
def pdSent (d : Dev) : Dev := { d with ptp := { d.ptp with pdReq := d.ptp.pdReq.set 1 (some (4, 10, 0)) } }

def syncGrant : SlotGrant := ⟨0, 0, 300, 5, false⟩

/-- An NTP request over IPv4, taken at port 1. -/
def ntpFrame : Taken :=
  { ptp := false, port := 1, stamp := 5, t := 7, inst := 0, pair := [], sides := []
    bytes := ownMac ++ [2, 0, 0, 0, 0, 9, 0x08, 0, 0x45, 0, 0, 76, 0, 0, 0, 0, 64, 17, 0, 0, 10, 0, 0, 1, 10, 0, 0, 2, 1, 0, 0, 123, 0, 56, 0, 0, 0x23]
      ++ List.replicate 47 0 }

/-- The Tollgate runs with a queue; port 1 stands as given. -/
def tollgate (l : List TolReq) (x : Port) (d : Dev) : Dev := portIn 1 1 [⟨7, 0, 4⟩] x (tolOn { d.tol with queue := l } d)

/-- A mint record for two cookies. -/
def mintRec : List Byte := zeros 8 ++ [2, 15]

def minting (b : List Byte) (ready : Bool) (d : Dev) : Dev :=
  setReg (txRec b { tolOn { d.tol with ready := ready } d with qmg := { d.qmg with mintBound := some 5 } }) TOL_MINT 0x80050000

/-- The audio block runs, its pins wired: WCKIN, AESIN1, AESOUT0 to AESOUT3. -/
def wired (a : Aud) (d : Dev) : Dev :=
  let c : InEffect := ⟨{ pins := [⟨32, 6, 0⟩, ⟨25, 4, 0⟩, ⟨28, 5, 0⟩, ⟨29, 5, 0⟩, ⟨30, 5, 0⟩, ⟨31, 5, 0⟩] }, 1, [], 0, 0⟩
  audOnly a { d with cht := { d.cht with cur := some c } }

/-! ### Ill-formed commands: one for each check -/

/-- All of a list of commands are refused by the check. -/
def illFormed (l : List Instr) : Bool := l.all (!wellFormed ·)

def plainObs : BandMeas := ⟨0, 0, 0, 0, 400⟩
def satOf (sys sv : Nat) (m : BandMeas) (m5 : Option BandMeas) : EpochIn := ⟨(0, 0, 0), [⟨sys, sv, m, m5, 0, 0, 0, 0, 30, 0⟩], 0, 0⟩

theorem test_wf_start : illFormed [.functionLevelReset 2, .clockLoss 20, .clockDomainGood 20 0, .trimLoadComplete true { heldFuses with pinrst := [] },
    .charterFlashReadComplete 2 [], .flashWrite .cores 2, .selfTestComplete { tested with taps := [] },
    .selfTestComplete { tested with tdc := [⟨9, 0, []⟩] }, .selfTestComplete { tested with tdc := [⟨0, 0, [(2048, 0)]⟩] }] = true := by
  decide

theorem test_wf_access : illFormed [.registerWrite .cores (2 ^ 24) 4 0, .registerWrite .cores 0 0 0, .readClearRead .pcie1 0x2001000 4, .latchingRead .cores 0 0,
    .aliasRead .mspi (2 ^ 24) 4, .aliasWrite .mspi 0 0 0, .indDataRead .pcie0 7, .mspiRead 0 0 false, .mspiWrite 0 [] false, .mspiStatus 256] = true ∧
    wellFormed (.registerWrite .pcie0 0x1000004 4 0) = true := by
  decide

theorem test_wf_time : illFormed [.scSetNsWrite .cores 2 0, .stageArming (.gclCycle 6), .stageArming (.audioBlock 4), .stageArming (.gridPeriod 8), .refPresent 32,
    .refEvaluation [⟨32, 0⟩], .pulseInputEdge 3 false 65536, .stallUpdate 32 0, .apllLockLoss 4] = true := by
  decide

theorem test_wf_outputs : illFormed [.pulseInstant 8, .pulseWidthEnd false 8, .pulseWidthEnd true 16, .gridBoundary 8, .gridEdge 1 65536, .triggerInstant 16,
    .captureEdge 16 false 0, .captureEdge 1 false 65536] = true ∧ wellFormed (.pulseWidthEnd true 15) = true := by
  decide

theorem test_wf_tdc : illFormed [.tdcStartEdge ⟨0, 0, 2048⟩, .tdcStopEdge 0 ⟨0, 0, 0⟩, .tdcTimestampEdge 8 ⟨0, 0, 0⟩, .tdcCalibrationComplete ⟨9, 0, []⟩,
    .tdcCalibrationComplete ⟨0, 0, [(2048, 0)]⟩] = true := by
  decide

theorem test_wf_gnss : illFormed [.searchDwellComplete (.bank 2) ⟨0, 0, []⟩, .searchDwellComplete (.chan 160) ⟨0, 0, []⟩,
    .searchDwellComplete (.bank 0) ⟨0, 0, [⟨7, 0, 0, []⟩]⟩, .channelTrack 160, .gnssStoreWrite 6, .navUnitDecoded { nearUnit with ch := 160 },
    .navUnitDecoded { nearUnit with bits := [] }, .solutionEpoch (satOf 4 1 plainObs none), .solutionEpoch (satOf 0 0 plainObs none),
    .solutionEpoch (satOf 0 64 plainObs none), .solutionEpoch (satOf 0 1 { plainObs with sig := 8 } none),
    .solutionEpoch (satOf 0 1 plainObs (some { plainObs with sig := 8 })), .spectrumUpdate 2 []] = true := by
  decide

theorem test_wf_ports : illFormed [.linkTrained 6 1, .linkTrained 0 0, .linkTrained 0 7, .frameReceived 6 ⟨[], 0, 0, 0, 0⟩, .frameReceived 0 ⟨[], 0, 65536, 0, 0⟩,
    .pauseTimerExpiry 6 none, .pauseTimerExpiry 0 (some 8), .fcRepeatTimer 0 8, .flowControlThreshold 6 0, .portTransientFault 0 0, .portTransientFault 0 6] = true := by
  decide

theorem test_wf_network : illFormed [.trackingDelayReq 8, .grantRenewalTimer 0 1, .scheduledMessageInstant 16 none 0, .scheduledMessageInstant 0 (some 65536) 0,
    .ntpRequestTaken 6, .announceReceived 0 256 0, .announceReceived 0 0 16, .timingSend 65536 false, .timingReceived [] 0, .helloReceived []] = true := by
  decide

theorem test_wf_host : illFormed [.doorbellWrite 2 false 0 0 [], .doorbellWrite 0 false 64 0 [], .doorbellWrite 0 false 0 0 [⟨[1], []⟩], .interruptTimer true 64,
    .hallRequest 12 0 0 0 false 1, .hallRequest 0 64 0 0 false 1, .hallRequest 0 0 9 0 false 1, .hallRequest 0 0 0 0 false 0,
    .hallRequest 0 0 0 0 false 17, .hallCompletion 12 0, .keyInvalidate .cores 1024, .keyLoad .cores 8 0, .keyUnload .cores 8, .tamperEvent 8,
    .audioEdge 5 none, .rampEnd 4, .faultReport 65536 0 0, .faultReport 0 256 0, .faultReport 0 0 (2 ^ 24), .graceExpiry 0 256] = true := by
  decide

theorem test_wf_good : wellFormed .preBell = true ∧ wellFormed (.linkTrained 5 6) = true ∧ wellFormed (.keyLoad .cores 7 1023) = true := by
  decide
/-! ### Small worked cases, with results from the spec's own numbers -/

/-- The device after a command. -/
def after (i : Instr) (s : State) : Dev :=
  match exec i s with
  | .next t => t.dev
  | .fault _ => {}
  | .refused _ => {}

/-- Chapter 3's example: the alias of SUPP, bit 2 of GEN_BELL_STAT at 0x10C, lies at 0x0080_2188. -/
theorem test_alias_of_supp : regAt 0x00802188 = 0x10C ∧ regAt 0x00802188 = GEN_BELL_STAT ∧ (0x00802188 - 0x800000) / 4 % 32 = 2 := by
  decide +kernel

/-- R55's examples of BLK_ID.CODE: GEN 0x0000, STL 0x0010, MAC 0x0028. -/
theorem test_block_codes : slotBase 0 / 65536 = 0 ∧ slotBase 8 / 65536 = 0x10 ∧ slotBase 13 / 65536 = 0x28 := by
  decide +kernel

/-- A read of the alias of SUPP returns that bit and clears it alone. -/
theorem test_alias_read_clears_one_bit :
    (after (.aliasRead .cores 0x00802188 4) (on fun d => setReg d GEN_BELL_STAT 7)).resp = ⟨.ok, [1]⟩ ∧
    rg (after (.aliasRead .cores 0x00802188 4) (on fun d => setReg d GEN_BELL_STAT 7)) GEN_BELL_STAT = 3 := by
  decide +kernel

/-- R29: from the second's start the Bell is 10⁹ TCLKs away; a write 2,000 TCLKs before it still earns it (R33), so it is armed one TCLK later. -/
theorem test_first_bell : ticksToBell base = some (10 ^ 9) ∧
    (after (.stageArming .bell) (on fun d => tscIn { d.tsc with preDone := true } d)).t = 999998001 := by
  decide +kernel

/-- The phase unit of chapter 0: a step of 1.5 ns, 98,304 units, adds 1.5 ns. -/
theorem test_step_of_1500_ps : (scaleOf (applyStep base false 1 98304) false).v = 3 * 2 ^ 47 := by
  decide +kernel

/-- R216: a stop 90 ns after its start in the same bin reads 90 ns in 2⁻¹⁶ ns. -/
theorem test_tdc_interval :
    ((after (.tdcStopEdge 1 ⟨-100, 100, 5⟩) (on fun d => { tdcOn 0 { d.tdc with meas := some ⟨⟨10, 0, false, false, 0⟩, 0, 0, false⟩ } d with t := 100 })).tdc.fifo.map
      fun r => (r.val0, r.val1, r.input)) = [(90 * 65536, 0, 1)] := by
  decide +kernel

/-- Chapter 10's worked cable: the stop record carries 0x00FA_E10C. -/
theorem test_fennick_yard : edgeDiff 0 ⟨1000000, fineTime ⟨0, 510, [(100, 520)]⟩ 100, false, false, 0⟩
    ⟨1000250, fineTime ⟨1, 512, [(1900, 500)]⟩ 1900, false, false, 0⟩ = 0x00FAE10C := by
  decide +kernel

/-- The frequency plan of chapter 8: a 20 MHz oscillator and the charter's values of the two APLLs. -/
def concertHall : Dev :=
  put (apKey AP_CFG 0) 0x110 <| put (apKey AP_NINT 0) 0x138 <| put (apKey AP_NFRAC_HI 0) 0x8000 <|
  put (apKey AP_CFG 1) 0x100 <| put (apKey AP_NINT 1) 0x266 <| put (apKey AP_NFRAC_LO 1) 0x66666666 <|
  put (apKey AP_NFRAC_HI 1) 0x6666 <| put (outKey OUT_CFG 4) 0x010001F4 <| put (outKey OUT_CFG 5) 0x040003E8 <|
  plane [pitch 2 0 1 [], pitch 2 1 1 [], pitch 3 4 1 [⟨3, 1, 0⟩], pitch 3 5 1 [⟨3, 1, 0⟩]]
    { base with start := { base.start with oscHz := 20000000 } }

/-- Its IBS fields read 2,000 and 800, neither with SPUR_WARN; APLL 1's alignment period divides 1 s. -/
theorem test_brackenford_ibs : (apllOf (evalSpur concertHall 0) 0).ibs = 2000 ∧ (apllOf (evalSpur concertHall 0) 0).spur = false ∧
    (apllOf (evalSpur concertHall 1) 1).ibs = 800 ∧ (apllOf (evalSpur concertHall 1) 1).spur = false ∧
    alignDivides concertHall 1 = true := by
  decide +kernel

/-- A step of +31.2 ns leaves PREM = −62,400 (Table 8.12). -/
theorem test_brackenford_prem :
    (apllOf (addPhase (updApll concertHall 1 fun a => { a with gated := false }) 1 (-62400)) 1).prem = -62400 := by
  decide +kernel

/-- Chapter 6's worked holdover: 3,600 s in, 21.19 ns; 705.20 ns of bound fall to 13.76 ns, a BOUND_DELTA of −11,063. -/
theorem test_lantern_quay :
    (21180 * 65536 / 1000 < holdBound ⟨32 / 10 ^ 13, 6 / 10 ^ 12, 14 / 10 ^ 13, 12 / 100⟩ (3600 * 10 ^ 9) (1024 * 36 * 10 ^ 10) ∧
      holdBound ⟨32 / 10 ^ 13, 6 / 10 ^ 12, 14 / 10 ^ 13, 12 / 100⟩ (3600 * 10 ^ 9) (1024 * 36 * 10 ^ 10) < 21190 * 65536 / 1000) ∧
    (boundDelta 46215988 901776).1.toInt = -11063 := by
  decide +kernel

/-- Chapter 9's worked frame: line 118,006,993,008,000 starts 14,933,333 ns past second 1,750,000,000. -/
theorem test_calloway :
    (lineInstant (put (grKey GR_PNUM 0) 1001 (put (grKey GR_PDEN 0) 60000 (put (grKey GR_CFG 0) 1125 (plane [pitch 5 0 1 []] base)))) 0
      118006993008000 - 1750000000 * 10 ^ 9 * 65536) / 65536 = 14933333 := by
  decide +kernel

/-- R381: 12 V on 1,000 µF hold 72 mJ. -/
theorem test_holdup_energy :
    (after (.holdupSample 3000) (on fun d => keyIn { keyTree with cMeas := 1000 } (fusesIn heldFuses d))).key.e = 72000 := by
  decide +kernel

/-- R383: 20 mA for 1 ms removes 20 µC, so a step of 20 mV measures 1,000 µF. -/
theorem test_discharge : (after (.dischargeTest 20) (on fun d => waited (keyIn { keyTree with testRun := true } (fusesIn heldFuses d)))).key.cMeas = 1000 := by
  decide +kernel

/-- R181: 10 MHz times 1,200 is within the VCO's range, times 1,000 below it. -/
theorem test_apll_range : rangeBad (put (apKey AP_NINT 0) 1200 base) 0 = false ∧ rangeBad (put (apKey AP_NINT 0) 1000 base) 0 = true := by
  decide +kernel

/-- R68: of the offers 0x0100 to 0x0200 the device agrees on 0x0103; an offer from 0x0104 up fails. -/
theorem test_version : (after (.genVerOfferWrite .pcie0 0x02000100) (on id)).pcie0.agreed = 0x0103 ∧
    (after (.genVerOfferWrite .pcie0 0x02000104) (on id)).pcie0.verFail = true := by
  decide +kernel

/-- R352's ring arithmetic: a doorbell of 1 after tail 65,535 posts two descriptors. -/
theorem test_doorbell_wraps :
    ((after (.doorbellWrite 0 true 3 1 [⟨[1], []⟩, ⟨[2], []⟩]) (on (rxOn 3 { tail := 65535 }))).qmg.rxq.getD 3 {}).inflight = 2 := by
  decide +kernel

/-- R385: KEY_ZEROISE leaves no root. -/
theorem test_zeroise : (after (.keyZeroise .cores) (on (keyIn keyTree))).key.root = none := by
  decide +kernel

/-- R407: a standby takes the Floor when ABDICATE arrives. -/
theorem test_abdicate : (after (.abdicateReceived (twinMsgOf 8 [6, 0, 0, 0, 0, 0, 0, 0])) (on (twinIn .standby linked))).gen.mode = .active := by
  decide +kernel

/-- R456: a report of class C is logged with its channel and detail. -/
theorem test_report : (after (.faultReport srcRefLoss 7 9) (on id)).flt.log.map (fun e => (e.source, e.detail)) = [(srcRefLoss, 0x07000009)] := by
  decide +kernel

/-- The CRC-32 of IEEE 802.3 on its usual check string. -/
theorem test_crc32 : crc32 [0x31, 0x32, 0x33, 0x34, 0x35, 0x36, 0x37, 0x38, 0x39] = 0xCBF43926 := by
  decide +kernel

/-- An empty queue idles one TCLK: the free counter moves by one (the model's choice, log 20). -/
theorem test_idle : (match step (on id) with
    | .next t => t.dev.t
    | .fault _ => 0
    | .refused _ => 0) = 1 := by
  decide +kernel

/-- Chapter 21: the map gives 276 signal balls and the supply counts of Table 21.3. -/
theorem test_balls : balls.countP (fun x => match x with
    | some (.sig _ _ _) => true
    | _ => false) = 276 ∧ balls.countP (· == some .vss) = 283 ∧ railBalls .pll = 18 := by
  decide +kernel

/-- Table 21.15's totals; the worked Lindmoor plant: a lid of 84.15 °C, a junction of 86.47 °C, 1.644 K/W at most. -/
theorem test_power : totalPower false = 21 ∧ totalPower true = 2898 / 100 ∧ lidTemp 45 29 (135 / 100) = 8415 / 100 ∧
    junctionTemp 45 29 (135 / 100) = 8647 / 100 ∧ 1644 / 1000 ≤ sinkLimit 95 45 29 ∧ sinkLimit 95 45 29 < 1645 / 1000 := by
  decide +kernel

/-- R475: 1.8 V and 3.3 V name the two banks, 2.5 V none. -/
theorem test_io_bank : ioBank (18 / 10) = some true ∧ ioBank (33 / 10) = some false ∧ ioBank (25 / 10) = none := by
  decide +kernel

/-! ### States that meet the hypotheses of the statements -/

theorem served_of {d : Dev} {r : Requester} {off : Nat}
    (h : ((turnedAway d r off).isNone && (!wardenOnly (regAt off) || isWarden r) && !inBlockReset d (regAt off)) = true) :
    Served d r off := by
  simp only [Bool.and_eq_true, Bool.or_eq_true, Bool.not_eq_true', Option.isNone_iff_eq_none] at h
  obtain ⟨⟨h1, h2⟩, h3⟩ := h
  refine ⟨h1, fun hw => ?_, h3⟩
  rcases h2 with h2 | h2
  · rw [hw] at h2; cases h2
  · exact h2

theorem accepts_of {d : Dev} {n : Nat} {x : TdcIn}
    (h : edgePasses d n x = true ∧ d.tdc.lastEdge.getD n none = none) : Accepts d n x :=
  ⟨h.1, fun l hl => by rw [h.2] at hl; cases hl⟩

/-- What is due by now has come with no time to pass. -/
theorem at_now {s : State} {due : Nat} (h : s.dev.indWait = []) (hd : due ≤ s.dev.t.toNat) : At s due (fresh s) := by
  have hf : indFinishAll (fresh s) = fresh s := by simp [indFinishAll, fresh, h]
  simp [At, reachTick, reachIn, hf, show due - (fresh s).t.toNat = 0 from Nat.sub_eq_zero_of_le hd]

/-- The same for an instant of a scale. -/
theorem scale_now {s : State} {sc : Nat} {ns : Rat} (h : s.dev.indWait = []) (hd : ns - scaleNs (fresh s) sc ≤ 0) :
    AtScale s sc ns (fresh s) := by
  have hf : indFinishAll (fresh s) = fresh s := by simp [indFinishAll, fresh, h]
  simp [AtScale, reachScale, reachIn, hf, hd]

/-- An instant ahead that the device reaches before the coming Bell. -/
theorem scale_at {s : State} {sc sc' : Nat} {ns ns' : Rat} (hs : sc = sc') (hn : ns = ns') (h : (reachScale (fresh s) sc' ns').isSome = true) :
    AtScale s sc ns ((reachScale (fresh s) sc' ns').getD {}) := by
  subst hs hn
  obtain ⟨d, hd⟩ := Option.isSome_iff_exists.1 h
  simp [AtScale, hd]

theorem heard_of {d : Dev} {p : PtpMsg → Bool} {f : Taken} {x : PtpMsg}
    (h : d.taken.find? (fun t => t.ptp && (msgOf t).any p) = some f ∧ msgOf f = some x) : Heard d p f x := h

/-- The only frame taken is heard where its message passes. -/
theorem heard_one {d : Dev} {p : PtpMsg → Bool} {f : Taken} {x : PtpMsg} (h : d.taken = [f]) (hp : f.ptp = true)
    (hx : msgOf f = some x) (hq : p x = true) : Heard d p f x := by
  simp [Heard, h, hp, hx, hq]

theorem signalled_of {d : Dev} {p : PtpMsg → Bool} {t : Nat} {f : Taken} {x : PtpMsg} {l : List (List Byte)}
    (h : (d.taken.find? (fun y => y.ptp && (msgOf y).any (fun m => m.type == 12 && p m && !m.rx.handled.contains t && (signalTlvs m).any (·.1 == t)))
      = some f ∧ msgOf f = some x) ∧ ((signalTlvs x).filter (·.1 == t)).map (·.2) = l) : Signalled d p t f x l := h

theorem undisturbed_of {d : Dev} (h : afterReaction d = d) : Undisturbed d := h

theorem all_true {a b c e : Bool} (ha : a = true) (hb : b = true) (hc : c = true) (he : e = true) : (a && b && (c && e)) = true := by
  simp [ha, hb, hc, he]

theorem of_none {α : Type} {o : Option α} {P : α → Prop} (h : o = none) : ∀ v, o = some v → P v := by
  intro v hv
  rw [h] at hv
  cases hv

theorem of_last {α : Type} {o : Option α} {v : α} {P : α → Prop} (ho : o = some v) (h : P v) : ∀ l, o = some l → P l := by
  intro l hl
  rw [ho] at hl
  cases hl
  exact h

/-- No source of the built-in policy reaches step 4 where its entries and its default do not. -/
theorem no_step_four {d : Dev}
    (h : (policyOf d).entries.all (fun e => !e.ladder.testBit 3) = true ∧ (policyOf d).defLadder.testBit 3 = false) :
    ∀ c, (policyEntry d c).ladder.testBit 3 = false := by
  intro c
  unfold policyEntry
  dsimp only
  cases hf : (policyOf d).entries.find? (fun e => e.source == c) with
  | none => exact h.2
  | some e =>
    have := List.all_eq_true.1 h.1 e (List.mem_of_find?_eq_some hf)
    simpa using this

theorem one_choice {d : Dev} {n : Nat} (h : d.sels.length = 32 ∧ ((List.range 32).all fun m => m == n || !(selOf d m).curV) = true) :
    ∀ m, m ≠ n → (selOf d m).curV = false := by
  intro m hm
  by_cases h32 : m < 32
  · have := List.all_eq_true.1 h.2 m (List.mem_range.2 h32)
    simpa [hm] using this
  · simp [selOf, List.getD_eq_getElem?_getD, List.getElem?_eq_none (by omega : d.sels.length ≤ m)]

theorem other_queues {l : List (List TxFrame)} {n : Nat} (h : (l.zipIdx.all fun q => q.2 == n || q.1.isEmpty) = true) :
    ∀ c, c ≠ n → l.getD c [] = [] := by
  intro c hc
  rw [List.getD_eq_getElem?_getD]
  cases hq : l[c]? with
  | none => rfl
  | some q =>
    have := List.all_eq_true.1 h (q, c) (by rw [List.mk_mem_zipIdx_iff_getElem?]; exact hq)
    simpa [hc] using this

theorem opened {d : Dev} {t : Nat} {msg : List Byte} (h : (twinOpen d t msg).1.isSome = true) :
    twinOpen d t msg = (some ((twinOpen d t msg).1.get h), (twinOpen d t msg).2) := by
  simp

theorem fitted {r : Fit ⊕ (Nat × List SatMeas)} (h : r.isLeft = true) : r = .inl (fitOf r) := by
  cases r with
  | inl f => rfl
  | inr x => cases h

theorem quiet_others {d : Dev} {v : Word}
    (h : d.sels.length = 32 ∧ ((List.range 32).all fun n => !(selOf d n).curV || !bit v (selOf d n).cur) = true) :
    ∀ n, (selOf d n).curV = true → bit v (selOf d n).cur = false := by
  obtain ⟨hl, h⟩ := h
  intro n hn
  by_cases h32 : n < 32
  · have := List.all_eq_true.1 h n (List.mem_range.2 h32)
    simpa [hn] using this
  · have : selOf d n = {} := by simp [selOf, List.getD_eq_getElem?_getD, List.getElem?_eq_none (by omega : d.sels.length ≤ n)]
    rw [this] at hn
    cases hn

theorem others_take_none {d : Dev} {i : Nat} (h : ((List.range 8).all fun k => k == i || !inputTakes d k) = true) :
    ∀ k, k ≠ i → inputTakes d k = false := by
  intro k hk
  by_cases h8 : k < 8
  · have := List.all_eq_true.1 h k (List.mem_range.2 h8)
    simpa [hk] using this
  · simp [inputTakes, h8]

theorem leNat_leBytes (v : Nat) : leNat (leBytes 4 v) = v % 2 ^ 32 := by
  simp [leBytes, leNat, beNat]
  omega

theorem tail_of (b : List Byte) (v : Nat) : leAt (b ++ leBytes 4 v) b.length 4 = v % 2 ^ 32 := by
  have h : slice (b ++ leBytes 4 v) b.length 4 = leBytes 4 v := by simp [slice, leBytes]
  rw [leAt, h, leNat_leBytes]

/-- A frame of a plain length with its FCS has no error of Table 12.2. -/
theorem errors_of_good {d : Dev} {p : Nat} {c u : Nat} (b : List Byte) (h : 60 ≤ b.length ∧ b.length + 4 ≤ maxLen d p) :
    rxErrors d p ⟨withFcs b, 0, 5, c, u⟩ = 0 := by
  obtain ⟨h, hm⟩ := h
  have hl : (withFcs b).length - 4 = b.length := by simp [withFcs, leBytes]
  have hn : (withFcs b).length = b.length + 4 := by simp [withFcs, leBytes]
  have ht : (withFcs b).take b.length = b := by simp [withFcs]
  have hc : leAt (withFcs b) b.length 4 = (crc32 b).toNat := by
    rw [withFcs, tail_of]
    exact Nat.mod_eq_of_lt (crc32 b).isLt
  unfold rxErrors
  dsimp only
  rw [hl, ht, hc, hn]
  simp [b2n, show ¬ b.length + 4 < 64 by omega, show ¬ maxLen d p < b.length + 4 by omega]

/-- A frame of a plain length with one bit of its FCS wrong has that error alone. -/
theorem errors_of_bad {d : Dev} {p : Nat} {c u : Nat} (b : List Byte) (h : 60 ≤ b.length ∧ b.length + 4 ≤ maxLen d p) :
    rxErrors d p ⟨b ++ leBytes 4 (crc32 b ^^^ 1).toNat, 0, 5, c, u⟩ = 1 := by
  obtain ⟨h, hm⟩ := h
  have hl : (b ++ leBytes 4 (crc32 b ^^^ 1).toNat).length - 4 = b.length := by simp [leBytes]
  have hn : (b ++ leBytes 4 (crc32 b ^^^ 1).toNat).length = b.length + 4 := by simp [leBytes]
  have ht : (b ++ leBytes 4 (crc32 b ^^^ 1).toNat).take b.length = b := by simp
  have hc : leAt (b ++ leBytes 4 (crc32 b ^^^ 1).toNat) b.length 4 = (crc32 b ^^^ 1).toNat := by
    rw [tail_of]
    exact Nat.mod_eq_of_lt (crc32 b ^^^ 1).isLt
  have hx : (crc32 b ^^^ 1).toNat ≠ (crc32 b).toNat := by
    intro h
    have h1 := BitVec.eq_of_toNat_eq h
    have h2 : (crc32 b ^^^ 1).getLsbD 0 = (crc32 b).getLsbD 0 := by rw [h1]
    simp at h2
  unfold rxErrors
  dsimp only
  rw [hl, ht, hc, hn]
  simp only [bne_iff_ne.2 hx]
  simp [b2n, show ¬ b.length + 4 < 64 by omega, show ¬ maxLen d p < b.length + 4 by omega]

theorem witness_RailsAndPins :
  (∃ (s : State), s.dev.power.railsValid = false ∧ s.dev.power.porstLow = false ∧ s.dev.power.rstnLow = false) ∧
  (∃ (s : State), s.dev.power.railsValid = true ∧ s.dev.power.porstLow = false ∧ 0 < s.dev.backup.rstCnt.length) ∧
  (∃ (s : State), s.dev.power.porstLow = true ∧ s.dev.power.railsValid = true ∧ s.dev.power.rstnLow = false ∧ s.dev.power.brownReset = false ∧ s.dev.start.phase = .held) ∧
  (∃ (s : State), s.dev.power.railsValid = true ∧ s.dev.power.rstnLow = false ∧ s.dev.power.porstLow = false ∧ s.dev.power.brownReset = false ∧ 2 < s.dev.backup.rstCnt.length) ∧
  (∃ (s : State), s.dev.power.rstnLow = true ∧ s.dev.power.railsValid = true ∧ s.dev.power.porstLow = false ∧ s.dev.power.brownReset = false ∧ s.dev.start.phase = .held) :=
  ⟨⟨on fun d => { d with power := { d.power with railsValid := false } }, by decide +kernel⟩,
    ⟨State.reset, by decide +kernel⟩,
    ⟨on fun d => atPhase .held { d with power := { d.power with porstLow := true } }, by decide +kernel⟩,
    ⟨State.reset, by decide +kernel⟩,
    ⟨on fun d => atPhase .held { d with power := { d.power with rstnLow := true } }, by decide +kernel⟩⟩

theorem witness_EndpointAndBrownoutResets :
  (∃ (s : State), s.dev.gen.mode ≠ .off ∧ s.dev.start.phase ≠ .held) ∧
  (∃ (s : State), s.dev.gen.mode ≠ .off ∧ s.dev.start.phase ≠ .held) ∧
  (∃ (s : State), s.dev.gen.mode ≠ .off ∧ s.dev.start.phase ≠ .held ∧ (fuses s.dev).wardenPcie = true) ∧
  (∃ (s : State) (v : Nat), s.dev.power.railsValid = true ∧ s.dev.power.hold = false ∧ s.dev.power.brownReset = false ∧ v < 705) ∧
  (∃ (s : State) (d : Dev), At s (holdEndDue (fresh s)) d) ∧
  (∃ (s : State) (v : Nat), s.dev.power.railsValid = true ∧ s.dev.power.brownReset = false ∧ s.dev.power.porstLow = false ∧ v < 665 ∧ 1 < s.dev.backup.rstCnt.length) ∧
  (∃ (s : State) (v : Nat), s.dev.power.brownReset = true ∧ s.dev.power.railsValid = true ∧ s.dev.power.porstLow = false ∧ s.dev.power.rstnLow = false ∧ s.dev.start.phase = .held ∧ 705 ≤ v) ∧
  (∃ (s : State) (v : Nat), s.dev.power.brownReset = true ∧ v < 705) :=
  ⟨⟨on fun d => setReg { d with qmg := { d.qmg with msix := [(4, 1), (1048580, 2)] } } (cfgTx 63) 0x80000000, by decide +kernel⟩,
    ⟨on fun d => setReg { d with qmg := { d.qmg with msix := [(4, 1), (1048580, 2)] } } (cfgRx 0) 0x80000000, by decide +kernel⟩,
    ⟨on fun d => { d with start := { d.start with shadowsValid := true, fuses := { d.start.fuses with wardenPcie := true } }, qmg := { d.qmg with msix := [(4, 1), (1048580, 2)] } }, by decide +kernel⟩,
    ⟨on id, 700, by decide +kernel⟩,
    ⟨on fun d => { d with power := { d.power with hold := true }, t := 100000 }, fresh (on fun d => { d with power := { d.power with hold := true }, t := 100000 }), at_now rfl (by decide +kernel)⟩,
    ⟨on id, 500, by decide +kernel⟩,
    ⟨on fun d => atPhase .held { d with power := { d.power with brownReset := true } }, 950, by decide +kernel⟩,
    ⟨on fun d => atPhase .held { d with power := { d.power with brownReset := true } }, 680, by decide +kernel⟩⟩

theorem witness_TrimAndClocks :
  (∃ (s : State), s.dev.start.phase = .trimLoad) ∧
  (∃ (s : State), s.dev.start.phase = .trimLoad ∧ s.dev.start.trimLoads < 3) ∧
  (∃ (s : State), s.dev.start.phase = .trimLoad ∧ 3 ≤ s.dev.start.trimLoads ∧ s.dev.gen.mode ≠ .factory) ∧
  (∃ (s : State) (dom : Nat) (hz : Nat), (∃ k, k < 20 ∧ k ≠ dom ∧ (essential k || nonEssential k) = true ∧ domainOf s.dev k = .waiting) ∧ dom < s.dev.start.domains.length ∧ dom ≤ 19 ∧ s.dev.start.phase ≠ .held ∧ s.dev.gen.mode ≠ .off ∧ nearNominal dom hz = true ∧ domainOf s.dev dom = .waiting ∧ (dom = 1 → (oscNominal hz).isSome = true)) ∧
  (∃ (s : State) (dom : Nat) (d : Dev), At s s.dev.t.toNat d ∧ (∃ k, k < 20 ∧ k ≠ dom ∧ (essential k || nonEssential k) = true ∧ domainOf d k = .waiting) ∧ domainOf s.dev dom = .waiting ∧ domainOf d dom = .waiting ∧ dom < d.start.domains.length ∧ d.start.phase = .clocks ∧ (essential dom || nonEssential dom) = true) ∧
  (∃ (s : State) (dom : Nat) (t : Tick) (d : Dev), At s (t.toNat + 10 * ms) d ∧ domainOf s.dev dom = .deferred ∧ s.dev.start.ethT = some t ∧ domainOf d dom = .deferred ∧ dom < d.start.domains.length ∧ d.cht.cur.isSome = true) ∧
  (∃ (s : State) (dom : Nat), domainOf s.dev dom = .good ∧ s.dev.flt.reactions = [] ∧ s.dev.flt.waiting = [] ∧ (policyEntry s.dev srcClockLoss).ladder.testBit 3 = false) :=
  ⟨⟨State.reset, by decide +kernel⟩,
    ⟨State.reset, by decide +kernel⟩,
    ⟨on fun d => atPhase .trimLoad (inMode .bringup { d with start := { d.start with trimLoads := 3 } }), by decide +kernel⟩,
    ⟨on fun d => { d with start := { d.start with domains := List.replicate 20 .waiting } }, 2, 1000000000, ⟨1, by decide +kernel⟩, by decide +kernel⟩,
    ⟨on fun d => atPhase .clocks { d with start := { d.start with domains := List.replicate 20 .waiting } }, 12, fresh (on fun d => atPhase .clocks { d with start := { d.start with domains := List.replicate 20 .waiting } }), at_now rfl (by decide +kernel), ⟨1, by decide +kernel⟩, by decide +kernel⟩,
    ⟨on (deferred 12), 12, 5, fresh (on (deferred 12)), at_now rfl (by decide +kernel), by decide +kernel⟩,
    ⟨on id, 1, by decide +kernel⟩⟩

theorem witness_StartSteps :
  (∃ (s : State) (k : Nat) (image : List Byte), s.dev.cht.st = .loading ∧ s.dev.cht.startSlot = some k ∧ headCheck image 4194304 = none) ∧
  (∃ (s : State) (k : Nat) (image : List Byte) (c : Nat), s.dev.cht.st = .loading ∧ s.dev.cht.startSlot = some k ∧ headCheck image 4194304 = some c ∧ s.dev.cht.prefErr = none) ∧
  (∃ (s : State), s.dev.cht.st = .loading ∧ s.dev.cht.startSlot = none ∧ s.dev.cht.slot.isSome = true) ∧
  (∃ (s : State) (k : Nat), s.dev.cht.st = .loading ∧ s.dev.cht.startSlot = some k ∧ s.dev.cht.prefErr = none) ∧
  (∃ (s : State) (k : Nat), s.dev.cht.st = .verifying ∧ s.dev.cht.startSlot = some k) ∧
  (∃ (s : State) (f : InEffect) (k : Nat), s.dev.start.phase = .build ∧ s.dev.cht.shadow = some f ∧ s.dev.cht.startSlot = some k) ∧
  (∃ (s : State) (res : SelfTestIn), s.dev.start.phase = .selfTest ∧ s.dev.gen.mode ≠ .factory ∧ res.sramOk = false) ∧
  (∃ (s : State) (res : SelfTestIn), s.dev.start.phase = .selfTest ∧ s.dev.gen.mode ≠ .factory ∧ res.sramOk = true ∧ res.lockstepOk = true ∧ res.auditorOk = true ∧ (fuses s.dev).holdcap = 0) ∧
  (∃ (s : State) (res : SelfTestIn), s.dev.start.phase = .selfTest ∧ s.dev.gen.mode ≠ .factory ∧ res.sramOk = true ∧ res.lockstepOk = true ∧ res.auditorOk = true ∧ 0 < (fuses s.dev).holdcap ∧ (fuses s.dev).holdcap * res.deltaMv ≤ 40000) ∧
  (∃ (s : State) (d : Dev), At s (energyDue (fresh s)) d ∧ d.start.phase = .energyWait ∧ d.gen.mode ≠ .factory) ∧
  (∃ (s : State) (d : Dev), At s (bringupDue (fresh s)) d ∧ d.gen.mode = .bringup ∧ d.start.phase = .clocks ∧ d.start.wdogPaused = false) ∧
  (∃ (s : State), calm s.dev = true ∧ s.dev.backup.inAttempt = true ∧ 60 ≤ s.dev.backup.bells) ∧
  (∃ (s : State) (d : Dev), At s (claimDue (fresh s)) d ∧ d.start.phase = .claimWait ∧ d.twn.floorLow = false) ∧
  (∃ (s : State), s.dev.start.phase = .claimWait) :=
  ⟨⟨on fun d => chtIn { d.cht with st := .loading, startSlot := some 0 } d, 0, smallImage, by decide +kernel⟩,
    ⟨on fun d => chtIn { d.cht with st := .loading, startSlot := some 0 } d, 0, [], 1, by decide +kernel⟩,
    ⟨on fun d => chtIn { d.cht with st := .loading, slot := some 1 } d, by decide +kernel⟩,
    ⟨on fun d => chtIn { d.cht with st := .loading, startSlot := some 1 } d, 1, by decide +kernel⟩,
    ⟨on fun d => chtIn { d.cht with st := .verifying, startSlot := some 0 } d, 0, by decide +kernel⟩,
    ⟨on fun d => atPhase .build (chtIn { d.cht with startSlot := some 1, shadow := some default } d), default, 1, by decide +kernel⟩,
    ⟨on fun d => atPhase .selfTest (inMode .bringup d), { tested with sramOk := false }, by decide +kernel⟩,
    ⟨on fun d => atPhase .selfTest (inMode .bringup d), tested, by decide +kernel⟩,
    ⟨on fun d => atPhase .selfTest (inMode .bringup (fusesIn heldFuses d)), { tested with deltaMv := 5, vhsns := 3000 }, by decide +kernel⟩,
    ⟨on fun d => waited (atPhase .energyWait (inMode .bringup d)), fresh (on fun d => waited (atPhase .energyWait (inMode .bringup d))), at_now rfl (by decide +kernel), by decide +kernel⟩,
    ⟨on fun d => waited (atPhase .clocks (inMode .bringup d)), fresh (on fun d => waited (atPhase .clocks (inMode .bringup d))), at_now rfl (by decide +kernel), by decide +kernel⟩,
    ⟨on fun d => { d with backup := { d.backup with inAttempt := true, bells := 60 } }, by decide +kernel⟩,
    ⟨on fun d => waited (atPhase .claimWait (inMode .bringup d)), fresh (on fun d => waited (atPhase .claimWait (inMode .bringup d))), at_now rfl (by decide +kernel), by decide +kernel⟩,
    ⟨on fun d => atPhase .claimWait (inMode .bringup d), by decide +kernel⟩⟩

theorem witness_StartFailure :
  (∃ (d : Dev), d.gen.mode ≠ .factory) ∧
  (∃ (d : Dev), d.gen.mode = .factory) :=
  ⟨⟨base, by decide +kernel⟩,
    ⟨inMode .factory base, by decide +kernel⟩⟩

theorem witness_WatchdogAndChipReset :
  (∃ (s : State) (t : Nat) (d : Dev), At s t d ∧ wdogDue (fresh s) = some t ∧ rgb d RST_WDOG 31 = true ∧ (d.gen.mode = .active ∨ d.gen.mode = .standby ∨ d.gen.mode = .factory)) ∧
  (∃ (s : State), rgb s.dev RST_WDOG 31 = true ∧ s.dev.gen.mode = .active ∧ s.dev.tsc.running = true) ∧
  (∃ (s : State), calm s.dev = true ∧ (rgb s.dev RST_WDOG 31 = false ∨ s.dev.gen.mode = .bringup ∨ s.dev.gen.mode = .minimal)) ∧
  (∃ (s : State) (r : Requester), Served s.dev r RST_WDOG ∧ calm s.dev = true) ∧
  (∃ (s : State) (r : Requester) (v : Word), Served s.dev r RST_CMD ∧ bits v 31 24 = 0xA5) ∧
  (∃ (s : State) (r : Requester) (v : Word), Served s.dev r RST_CMD ∧ calm s.dev = true ∧ bits v 31 24 ≠ 0xA5) :=
  ⟨⟨on fun d => waited (setReg d RST_WDOG 0x80000000), 1000000, fresh (on fun d => waited (setReg d RST_WDOG 0x80000000)), at_now rfl (by decide +kernel), by decide +kernel⟩,
    ⟨on (setReg · RST_WDOG 0x80000005), by decide +kernel⟩,
    ⟨on id, by decide +kernel⟩,
    ⟨on id, .cores, served_of (by decide +kernel), by decide +kernel⟩,
    ⟨on id, .cores, 0xA5000000, served_of (by decide +kernel), by decide +kernel⟩,
    ⟨on id, .cores, 0x5A000000, served_of (by decide +kernel), by decide +kernel⟩⟩

theorem witness_BlockReset :
  (∃ (s : State) (r : Requester) (v : Word) (k : Nat), Served s.dev r RST_CMD ∧ calm s.dev = true ∧ blockResetTarget v = some k ∧ s.dev.gen.rst = none) ∧
  (∃ (s : State) (r : Requester) (v : Word), Served s.dev r RST_CMD ∧ calm s.dev = true ∧ (blockResetTarget v = none ∨ s.dev.gen.rst.isSome = true)) ∧
  (∃ (s : State) (r : Requester), Served s.dev r RST_CMD ∧ calm s.dev = true ∧ s.dev.gen.rst = none) ∧
  (∃ (s : State) (x : BlockReset), s.dev.gen.rst = some x ∧ x.stage = 0 ∧ 7 < s.dev.backup.rstCnt.length) ∧
  (∃ (s : State) (x : BlockReset) (t : Nat) (d : Dev), At s t d ∧ s.dev.gen.rst = some x ∧ x.stage = 0 ∧ quiesceDue (fresh s) = some t ∧ d.gen.rst = some x) ∧
  (∃ (s : State) (x : BlockReset), s.dev.gen.rst = some x ∧ x.stage = 0) ∧
  (∃ (s : State) (x : BlockReset) (t : Nat) (d : Dev), At s t d ∧ s.dev.gen.rst = some x ∧ x.stage = 1 ∧ releaseDue (fresh s) = some t ∧ d.gen.rst = some x) :=
  ⟨⟨on id, .cores, 0x00140000, 9, served_of (by decide +kernel), by decide +kernel⟩,
    ⟨on id, .cores, 0x00000000, served_of (by decide +kernel), by decide +kernel⟩,
    ⟨on id, .cores, served_of (by decide +kernel), by decide +kernel⟩,
    ⟨on (inReset ⟨12, 255, true, 0, false, 0⟩), ⟨12, 255, true, 0, false, 0⟩, by decide +kernel⟩,
    ⟨on fun d => waited (inReset ⟨12, 255, false, 0, false, 0⟩ d), ⟨12, 255, false, 0, false, 0⟩, 1000000, fresh (on fun d => waited (inReset ⟨12, 255, false, 0, false, 0⟩ d)), at_now rfl (by decide +kernel), by decide +kernel⟩,
    ⟨on (inReset ⟨12, 255, false, 0, false, 7⟩), ⟨12, 255, false, 0, false, 7⟩, by decide +kernel⟩,
    ⟨on fun d => waited (inReset ⟨12, 255, true, 1, false, 0⟩ d), ⟨12, 255, true, 1, false, 0⟩, 80, fresh (on fun d => waited (inReset ⟨12, 255, true, 1, false, 0⟩ d)), at_now rfl (by decide +kernel), by decide +kernel⟩⟩

theorem witness_LedgerBalance :
  (∃ (d : Dev) (b : Bool) (n : Nat), (d.t - d.tsc.lastBellT).toNat + n < 2 ^ 64 ∧ -(2 ^ 38) ≤ (scaleOf d b).f) ∧
  (∃ (d : Dev), d.t = d.tsc.lastBellT) ∧
  (∃ (d : Dev), d.t = d.tsc.lastBellT) ∧
  (∃ (d : Dev), d.t = d.tsc.lastBellT) ∧
  (∃ (d : Dev) (b : Bool), d.t = d.tsc.lastBellT ∧ imbalance d b = 0) :=
  ⟨⟨base, true, 1000, by decide +kernel⟩,
    ⟨base, by decide +kernel⟩,
    ⟨tscIn { base.tsc with a := { offer := some (5, false) } } base, by decide +kernel⟩,
    ⟨tscIn { base.tsc with a := { v := 2 ^ 90, reanchor := true } } base, by decide +kernel⟩,
    ⟨base, true, by decide +kernel⟩⟩

theorem witness_IncOffsetIsClamped :
  (∃ (d : Dev) (b : Bool) (f : Int) (source : Nat) (flags : Nat), wantedInc d b = some (f, source, flags)) ∧
  (∃ (d : Dev) (b : Bool) (f : Int) (source : Nat) (flags : Nat), wantedInc d b = some (f, source, flags)) :=
  ⟨⟨tscIn { base.tsc with a := { offer := some (2 ^ 38 + 1, false) } } base, false, 2 ^ 38 + 1, 5, 16, by decide +kernel⟩,
    ⟨tscIn { base.tsc with a := { offer := some (-(2 ^ 38), true) } } base, false, -(2 ^ 38), 3, 64, by decide +kernel⟩⟩

theorem witness_FirstSetting :
  (∃ (d : Dev) (b : Bool), (scaleOf d b).setDone = false) ∧
  (∃ (d : Dev) (b : Bool), (scaleOf d b).setDone = true) :=
  ⟨⟨base, false, by decide +kernel⟩,
    ⟨tscIn { base.tsc with a := { setDone := true } } base, false, by decide +kernel⟩⟩

theorem witness_StepOfAScale :
  (∃ (d : Dev) (b : Bool) (amount : Int), amount ≠ 0 ∧ 0 ≤ ((scaleOf d b).v : Int) + amount * 2 ^ 32 ∧ ((scaleOf d b).v : Int) + amount * 2 ^ 32 < (2 ^ 64 : Int) * secUnit) ∧
  (∃ (d : Dev) (b : Bool) (amount : Int), amount ≠ 0 ∧ 0 ≤ ((scaleOf d b).v : Int) + amount * 2 ^ 32 ∧ ((scaleOf d b).v : Int) + amount * 2 ^ 32 < (2 ^ 64 : Int) * secUnit) ∧
  (∃ (d : Dev) (b : Bool) (amount : Int), amount ≠ 0 ∧ (((scaleOf d b).v : Int) + amount * 2 ^ 32 < 0 ∨ (2 ^ 64 : Int) * secUnit ≤ ((scaleOf d b).v : Int) + amount * 2 ^ 32)) :=
  ⟨⟨base, false, 65536, by decide +kernel⟩,
    ⟨tscIn { base.tsc with a := { v := 2 ^ 90 }, o := 2 ^ 90 } base, false, -65536, by decide +kernel⟩,
    ⟨base, false, -1, by decide +kernel⟩⟩

theorem witness_BellCountsItself :
  (∃ (s : State), indIdle s.dev ∧ s.dev.tsc.running = true) ∧
  (∃ (s : State) (n : Nat), indIdle s.dev ∧ (∀ c, (policyEntry s.dev c).ladder.testBit 3 = false) ∧ ticksToBell s.dev = some n ∧ twinSets s.dev = false ∧ s.dev.cht.st ≠ .armed ∧ s.dev.flt.waiting = []) :=
  ⟨⟨on id, rfl, by decide +kernel⟩,
    ⟨on id, 10 ^ 9, rfl, no_step_four (by decide +kernel), by decide +kernel⟩⟩

theorem witness_ApproachOfTheBell :
  (∃ (s : State), indIdle s.dev ∧ s.dev.tsc.running = true ∧ wrapSuppressed s.dev (ticksToWrap s.dev) = true ∧ 0 < incOf s.dev.tsc.oF) ∧
  (∃ (s : State) (n : Nat), indIdle s.dev ∧ ticksToBell s.dev = some n ∧ s.dev.tsc.preDone = false ∧ ticksToPre s.dev n < n) ∧
  (∃ (s : State) (n : Nat), indIdle s.dev ∧ ticksToBell s.dev = some n ∧ 0 < n ∧ s.dev.tsc.armedDone = false) ∧
  (∃ (s : State), indIdle s.dev ∧ calm s.dev = true) :=
  ⟨⟨on fun d => tscIn { d.tsc with hadBell := true, lastBellO := 10 ^ 9 * 2 ^ 48 - 2 ^ 60, o := 10 ^ 9 * 2 ^ 48 - 2 ^ 58 } d, rfl, by decide +kernel⟩,
    ⟨on id, 10 ^ 9, rfl, by decide +kernel⟩,
    ⟨on fun d => tscIn { d.tsc with preDone := true } d, 10 ^ 9, rfl, by decide +kernel⟩,
    ⟨on fun d => { d with staged := [⟨0, .gridPeriod 2, [(4, 4)], 0, false, false, none⟩] }, rfl, by decide +kernel⟩⟩

theorem witness_TicksAndTheBell :
  (∃ (d : Dev) (e : Staged) (k : Nat) (w : Word), d.staged = [e] ∧ e.boundary = .bell ∧ e.late = false ∧ e.words = [(k, w)] ∧ aoutOf k = none) ∧
  (∃ (d : Dev) (e : Staged), d.staged = [e] ∧ e.boundary = .bell ∧ e.late = true) ∧
  (∃ (d : Dev) (due : Nat) (e : Dev), indIdle d ∧ reachTick d due = some e) :=
  ⟨⟨{ base with staged := [stagedWord (scKey SC_STEP_HI 0) 5 false] }, stagedWord (scKey SC_STEP_HI 0) 5 false, scKey SC_STEP_HI 0, 5, by decide +kernel⟩,
    ⟨{ base with staged := [stagedWord (scKey SC_STEP_HI 0) 5 true] }, stagedWord (scKey SC_STEP_HI 0) 5 true, by decide +kernel⟩,
    ⟨base, 5000, advance { base with } 5000, rfl, by decide +kernel⟩⟩

theorem witness_RecordsLeave :
  (∃ (s : State) (i : Nat) (l : List Byte), s.dev.tsc.ckptFrame = some (i, l)) ∧
  (∃ (s : State) (r : LedgerRec) (rest : List LedgerRec) (q : Nat) (x : Desc) (posts : List Desc), s.dev.tsc.ringQueue = r :: rest ∧ q = rgf s.dev TSC_LRING 5 0 ∧ rxEn s.dev q = true ∧ (rxRing s.dev q).stop = false ∧ q < s.dev.qmg.rxq.length ∧ (rxRing s.dev q).posted = x :: posts ∧ 64 ≤ x.bufLen) ∧
  (∃ (s : State) (r : LedgerRec) (rest : List LedgerRec), s.dev.tsc.ringQueue = r :: rest ∧ rxEn s.dev (rgf s.dev TSC_LRING 5 0) = false) ∧
  (∃ (s : State) (body : List Byte), s.dev.tal.recordDue = some body ∧ enOf s.dev baseTal = false ∧ rxEn s.dev (rgf s.dev TAL_RING 5 0) = false) ∧
  (∃ (s : State) (body : List Byte), s.dev.sclA.extractDue = some body ∧ s.dev.sclB.extractDue = none ∧ rxEn s.dev (rgf s.dev SCL_XCTRL 5 0) = false) ∧
  (∃ (s : State) (body : List Byte), s.dev.sclA.extractDue = none ∧ s.dev.sclB.extractDue = some body ∧ (workOf s.dev 3).node.isSome = true ∧ (workOf s.dev 3).orph = false) ∧
  (∃ (s : State) (k : Nat), k ≤ 1 ∧ pointLength (hclassOf s.dev (k == 1)) ≤ (sclOf s.dev (k == 1)).accN) :=
  ⟨⟨on fun d => tscIn { d.tsc with ckptFrame := some (31, [1, 2, 3]) } d, 31, [1, 2, 3], by decide +kernel⟩,
    ⟨on fun d => setReg (rxOn 4 { posted := [emptyDesc, emptyDesc] } (tscIn { d.tsc with ringQueue := [default, default] } d)) TSC_LRING 4, default, [default], 4, emptyDesc, [emptyDesc], by decide +kernel⟩,
    ⟨on fun d => tscIn { d.tsc with ringQueue := [default, default] } d, default, [default], by decide +kernel⟩,
    ⟨on fun d => { put (baseTal + 4) 0 d with tal := { d.tal with recordDue := some [1, 2] } }, [1, 2], by decide +kernel⟩,
    ⟨on fun d => { d with sclA := { d.sclA with extractDue := some [1] } }, [1], by decide +kernel⟩,
    ⟨on fun d => { d with sclB := { d.sclB with extractDue := some [1] }, key := { d.key with work := d.key.work.set 3 rootKey } }, [1], by decide +kernel⟩,
    ⟨on fun d => { d with sclB := { d.sclB with accN := 100 } }, 1, by decide +kernel⟩⟩

theorem witness_ScaleWrites :
  (∃ (s : State) (r : Requester) (k : Nat), Served s.dev r (scKey SC_SET_NS k) ∧ calm s.dev = true ∧ k ≤ 1 ∧ lateForBell s.dev = false ∧ s.dev.staged = []) ∧
  (∃ (s : State) (r : Requester) (k : Nat), Served s.dev r (scKey SC_STEP_HI k) ∧ calm s.dev = true ∧ k ≤ 1 ∧ lateForBell s.dev = false ∧ s.dev.staged = []) ∧
  (∃ (s : State) (r : Requester), Served s.dev r TSC_LRD_SEL ∧ calm s.dev = true) :=
  ⟨⟨on id, .cores, 1, served_of (by decide +kernel), by decide +kernel⟩,
    ⟨on id, .cores, 0, served_of (by decide +kernel), by decide +kernel⟩,
    ⟨on id, .cores, served_of (by decide +kernel), by decide +kernel⟩⟩

theorem witness_RegisterWrites :
  (∃ (s : State) (n : Nat), calm s.dev = true ∧ n ≠ 4) ∧
  (∃ (s : State) (r : Requester) (off : Nat) (m : BitVec 32), Served s.dev r off ∧ calm s.dev = true ∧ (off, m) ∈ [(GEN_BELL_CTRL, 0xFF03#32), (RST_QTIMEOUT, 0x1FFFF#32), (FLT_INJ_DETAIL, 0xFFFFFFFF#32), (CHT_DELTA_BELL_LO, 0xFFFFFFFF#32), (CHT_DELTA_BELL_HI, 0xFFFFFFFF#32)]) ∧
  (∃ (s : State) (r : Requester) (off : Nat) (m : BitVec 32), Served s.dev r off ∧ calm s.dev = true ∧ (off, m) ∈ [(GEN_BELL_CTRL, 0xFF03#32), (RST_QTIMEOUT, 0x1FFFF#32), (FLT_INJ_DETAIL, 0xFFFFFFFF#32), (CHT_DELTA_BELL_LO, 0xFFFFFFFF#32), (CHT_DELTA_BELL_HI, 0xFFFFFFFF#32)]) ∧
  (∃ (s : State) (r : Requester) (off : Nat) (m : BitVec 32), Served s.dev r off ∧ calm s.dev = true ∧ (off, m) ∈ [(GEN_BELL_CTRL, 0xFF03#32), (RST_QTIMEOUT, 0x1FFFF#32), (FLT_INJ_DETAIL, 0xFFFFFFFF#32), (CHT_DELTA_BELL_LO, 0xFFFFFFFF#32), (CHT_DELTA_BELL_HI, 0xFFFFFFFF#32)]) ∧
  (∃ (s : State) (r : Requester) (off : Nat) (m : BitVec 32), Served s.dev r off ∧ calm s.dev = true ∧ (off, m) ∈ [(GEN_BELL_CTRL, 0xFF03#32), (RST_QTIMEOUT, 0x1FFFF#32), (FLT_INJ_DETAIL, 0xFFFFFFFF#32), (CHT_DELTA_BELL_LO, 0xFFFFFFFF#32), (CHT_DELTA_BELL_HI, 0xFFFFFFFF#32)]) :=
  ⟨⟨on id, 2, by decide +kernel⟩,
    ⟨on id, .cores, RST_QTIMEOUT, 0x1FFFF, served_of (by decide +kernel), by decide +kernel⟩,
    ⟨on id, .cores, CHT_DELTA_BELL_HI, 0xFFFFFFFF, served_of (by decide +kernel), by decide +kernel⟩,
    ⟨on id, .cores, GEN_BELL_CTRL, 0xFF03, served_of (by decide +kernel), by decide +kernel⟩,
    ⟨on id, .cores, FLT_INJ_DETAIL, 0xFFFFFFFF, served_of (by decide +kernel), by decide +kernel⟩⟩

theorem witness_ReadClears :
  (∃ (s : State) (r : Requester) (slot : Nat), Served s.dev r (slotBase slot + 8) ∧ indIdle s.dev ∧ slot ∈ [0, 1, 2, 5, 6, 7, 10, 11] ∧ calm s.dev = true) ∧
  (∃ (s : State) (r : Requester) (slot : Nat), Served s.dev r (slotBase slot + 8) ∧ indIdle s.dev ∧ slot ∈ [0, 1, 2, 5, 6, 7, 10, 11] ∧ calm s.dev = true) ∧
  (∃ (s : State) (r : Requester) (slot : Nat), Served s.dev r (slotBase slot + 8) ∧ indIdle s.dev ∧ slot ∈ [0, 1, 2, 5, 6, 7, 10, 11] ∧ calm s.dev = true) ∧
  (∃ (s : State) (r : Requester) (slot : Nat), Served s.dev r (slotBase slot + 8) ∧ indIdle s.dev ∧ slot ∈ [0, 1, 2, 5, 6, 7, 10, 11] ∧ calm s.dev = true) ∧
  (∃ (s : State) (r : Requester) (slot : Nat), Served s.dev r (slotBase slot + 8) ∧ indIdle s.dev ∧ slot ∈ [0, 1, 2, 5, 6, 7, 10, 11] ∧ calm s.dev = true) ∧
  (∃ (s : State) (r : Requester) (slot : Nat), Served s.dev r (slotBase slot + 8) ∧ indIdle s.dev ∧ slot ∈ [0, 1, 2, 5, 6, 7, 10, 11] ∧ calm s.dev = true) ∧
  (∃ (s : State) (r : Requester) (slot : Nat), Served s.dev r (slotBase slot + 8) ∧ indIdle s.dev ∧ slot ∈ [0, 1, 2, 5, 6, 7, 10, 11] ∧ calm s.dev = true) ∧
  (∃ (s : State) (r : Requester) (slot : Nat), Served s.dev r (slotBase slot + 8) ∧ indIdle s.dev ∧ slot ∈ [0, 1, 2, 5, 6, 7, 10, 11] ∧ calm s.dev = true) :=
  ⟨⟨on fun d => setReg d (slotBase 0 + 8) 0xFFFFFFFF, .cores, 0, served_of (by decide +kernel), rfl, by decide +kernel⟩,
    ⟨on fun d => setReg d (slotBase 1 + 8) 0xFFFFFFFF, .cores, 1, served_of (by decide +kernel), rfl, by decide +kernel⟩,
    ⟨on fun d => setReg d (slotBase 2 + 8) 0xFFFFFFFF, .cores, 2, served_of (by decide +kernel), rfl, by decide +kernel⟩,
    ⟨on fun d => setReg d (slotBase 5 + 8) 0xFFFFFFFF, .cores, 5, served_of (by decide +kernel), rfl, by decide +kernel⟩,
    ⟨on fun d => setReg d (slotBase 6 + 8) 0xFFFFFFFF, .cores, 6, served_of (by decide +kernel), rfl, by decide +kernel⟩,
    ⟨on fun d => setReg d (slotBase 7 + 8) 0xFFFFFFFF, .cores, 7, served_of (by decide +kernel), rfl, by decide +kernel⟩,
    ⟨on fun d => setReg d (slotBase 10 + 8) 0xFFFFFFFF, .cores, 10, served_of (by decide +kernel), rfl, by decide +kernel⟩,
    ⟨on fun d => setReg d (slotBase 11 + 8) 0xFFFFFFFF, .cores, 11, served_of (by decide +kernel), rfl, by decide +kernel⟩⟩

theorem witness_LatchingRead :
  (∃ (s : State) (r : Requester), Served s.dev r GEN_BELLCNT_LO ∧ calm s.dev = true) :=
  ⟨{ State.reset with dev := { base with bellCnt := 0x500000007 } }, .cores, served_of (by decide +kernel), by decide +kernel⟩

theorem witness_AliasAccess :
  (∃ (s : State) (r : Requester) (b : Nat), Served s.dev r (0x800000 + RST_QTIMEOUT * 32 + b * 4) ∧ b < 32 ∧ calm s.dev = true) ∧
  (∃ (s : State) (r : Requester) (slot : Nat) (b : Nat), Served s.dev r (0x800000 + (slotBase slot + 8) * 32 + b * 4) ∧ slot ∈ [0, 1, 2] ∧ b < 32 ∧ calm s.dev = true) ∧
  (∃ (s : State) (r : Requester) (slot : Nat) (b : Nat), Served s.dev r (0x800000 + (slotBase slot + 8) * 32 + b * 4) ∧ slot ∈ [0, 1, 2] ∧ b < 32 ∧ calm s.dev = true) ∧
  (∃ (s : State) (r : Requester) (slot : Nat) (b : Nat), Served s.dev r (0x800000 + (slotBase slot + 8) * 32 + b * 4) ∧ slot ∈ [0, 1, 2] ∧ b < 32 ∧ calm s.dev = true) ∧
  (∃ (s : State) (r : Requester) (b : Nat), Served s.dev r (0x800000 + RST_QTIMEOUT * 32 + b * 4) ∧ b < 32 ∧ calm s.dev = true ∧ rg s.dev RST_QTIMEOUT &&& 0xFFFE0000 = 0) ∧
  (∃ (s : State) (r : Requester) (b : Nat), Served s.dev r (0x800000 + RST_QTIMEOUT * 32 + b * 4) ∧ b < 32 ∧ calm s.dev = true ∧ rg s.dev RST_QTIMEOUT &&& 0xFFFE0000 = 0) ∧
  (∃ (s : State) (r : Requester) (b : Nat), Served s.dev r (0x800000 + RST_QTIMEOUT * 32 + b * 4) ∧ b < 32 ∧ calm s.dev = true ∧ rg s.dev RST_QTIMEOUT &&& 0xFFFE0000 = 0) :=
  ⟨⟨on fun d => setReg d RST_QTIMEOUT 0xFFFF, .cores, 3, served_of (by decide +kernel), by decide +kernel⟩,
    ⟨on fun d => setReg d (slotBase 1 + 8) 0xFFFFFFFF, .cores, 1, 17, served_of (by decide +kernel), by decide +kernel⟩,
    ⟨on fun d => setReg d (slotBase 2 + 8) 0xFFFFFFFF, .cores, 2, 16, served_of (by decide +kernel), by decide +kernel⟩,
    ⟨on fun d => setReg d (slotBase 0 + 8) 0xFFFFFFFF, .cores, 0, 17, served_of (by decide +kernel), by decide +kernel⟩,
    ⟨on id, .cores, 17, served_of (by decide +kernel), by decide +kernel⟩,
    ⟨on id, .cores, 16, served_of (by decide +kernel), by decide +kernel⟩,
    ⟨on id, .cores, 3, served_of (by decide +kernel), by decide +kernel⟩⟩

theorem witness_IndirectWindow :
  (∃ (s : State) (r : Requester) (slot : Nat), Served s.dev r (indBase slot + 4) ∧ indIdle s.dev ∧ hasInd slot = true ∧ calm s.dev = true) ∧
  (∃ (s : State) (r : Requester) (slot : Nat), Served s.dev r (indBase slot + 4) ∧ indIdle s.dev ∧ hasInd slot = true ∧ calm s.dev = true) ∧
  (∃ (s : State) (r : Requester) (slot : Nat) (v : Word), hasInd slot = true ∧ s.dev.indWait = [(r, slot, v)]) ∧
  (∃ (d : Dev) (r : Requester) (slot : Nat) (v : Word), d.indWait = [(r, slot, v)]) :=
  ⟨⟨on id, .cores, 11, served_of (by decide +kernel), rfl, by decide +kernel⟩,
    ⟨on fun d => setReqState d .cores { d.cores with indAddr := [(11, 0x80000010)] }, .cores, 11, served_of (by decide +kernel), rfl, by decide +kernel⟩,
    ⟨on fun d => { d with indWait := [(.cores, 11, 9)] }, .cores, 11, 9, by decide +kernel⟩,
    ⟨{ base with indWait := [(.cores, 11, 9)] }, .cores, 11, 9, by decide +kernel⟩⟩

theorem witness_VersionOffer :
  (∃ (s : State) (r : Requester), Served s.dev r GEN_VER_OFFER ∧ calm s.dev = true) ∧
  (∃ (s : State) (r : Requester), Served s.dev r GEN_VER_OFFER ∧ calm s.dev = true) ∧
  (∃ (s : State) (r : Requester), Served s.dev r GEN_VER_OFFER ∧ calm s.dev = true) :=
  ⟨⟨on id, .pcie0, served_of (by decide +kernel), by decide +kernel⟩,
    ⟨on id, .pcie0, served_of (by decide +kernel), by decide +kernel⟩,
    ⟨on id, .cores, served_of (by decide +kernel), by decide +kernel⟩⟩

theorem witness_TurnedAway :
  (∃ (d : Dev) (off : Nat), d.gen.mode = .active ∧ d.start.phase ≠ .held ∧ outsideMap off = true) ∧
  (∃ (d : Dev) (off : Nat), turnedAway d .pcie0 off = none ∧ off < 0x800000 ∧ wardenOnly off = true) :=
  ⟨⟨base, 0x7FFFFC, by decide +kernel⟩,
    ⟨base, 0x400000, by decide +kernel⟩⟩

theorem witness_LoaderCommands :
  (∃ (s : State) (r : Requester), Served s.dev r CHT_CMD ∧ calm s.dev = true ∧ s.dev.cht.st = .idle) ∧
  (∃ (s : State) (r : Requester) (k : Nat), Served s.dev r CHT_CMD ∧ calm s.dev = true ∧ s.dev.cht.st = .idle ∧ k ≤ 1) ∧
  (∃ (s : State) (r : Requester), Served s.dev r CHT_CMD ∧ calm s.dev = true ∧ s.dev.cht.st ≠ .idle) ∧
  (∃ (s : State) (r : Requester) (k : Nat), Served s.dev r CHT_CMD ∧ calm s.dev = true ∧ s.dev.cht.st = .ready ∧ s.dev.cht.shadowIsDelta = false ∧ k ≤ 1) ∧
  (∃ (s : State) (r : Requester), Served s.dev r CHT_CMD ∧ calm s.dev = true ∧ (s.dev.cht.st = .loading ∨ s.dev.cht.st = .ready ∨ s.dev.cht.st = .armed ∨ s.dev.cht.st = .error)) ∧
  (∃ (s : State) (r : Requester), Served s.dev r CHT_CMD ∧ calm s.dev = true ∧ (s.dev.cht.st = .loading ∨ s.dev.cht.st = .ready ∨ s.dev.cht.st = .armed ∨ s.dev.cht.st = .error)) ∧
  (∃ (s : State) (k : Nat), s.dev.cht.st = .writing ∧ s.dev.cht.slot = some k ∧ k ≤ 1) ∧
  (∃ (s : State) (k : Nat), s.dev.cht.st = .writing ∧ s.dev.cht.slot = some k ∧ k ≤ 1) ∧
  (∃ (s : State), calm s.dev = true ∧ s.dev.cht.st = .building ∧ s.dev.cht.shadowIsDelta = true) ∧
  (∃ (s : State) (r : Requester), Served s.dev r CHT_LOAD_DATA ∧ calm s.dev = true ∧ s.dev.cht.st = .loading ∧ s.dev.cht.slot = none ∧ s.dev.cht.startSlot = none ∧ s.dev.cht.buf.length < 60) ∧
  (∃ (s : State) (r : Requester), Served s.dev r CHT_CMD ∧ calm s.dev = true ∧ s.dev.cht.st = .ready ∧ s.dev.cht.shadowIsDelta = true ∧ s.dev.gen.mode ≠ .minimal ∧ lateForBell s.dev = false ∧ deltaCheck s.dev = none ∧ (rgPair s.dev CHT_DELTA_BELL_LO = 0 ∨ s.dev.bellCnt.toNat < rgPair s.dev CHT_DELTA_BELL_LO)) ∧
  (∃ (s : State) (r : Requester), Served s.dev r CHT_CMD ∧ calm s.dev = true ∧ s.dev.cht.st = .ready ∧ s.dev.cht.shadowIsDelta = true ∧ s.dev.gen.mode ≠ .minimal ∧ lateForBell s.dev = false ∧ deltaCheck s.dev = none ∧ (rgPair s.dev CHT_DELTA_BELL_LO = 0 ∨ s.dev.bellCnt.toNat < rgPair s.dev CHT_DELTA_BELL_LO)) ∧
  (∃ (s : State) (r : Requester), Served s.dev r CHT_CMD ∧ calm s.dev = true ∧ s.dev.cht.st ≠ .ready) :=
  ⟨⟨on id, .cores, served_of (by decide +kernel), by decide +kernel⟩,
    ⟨on id, .cores, 1, served_of (by decide +kernel), by decide +kernel⟩,
    ⟨on fun d => chtIn { d.cht with st := .ready } d, .cores, served_of (by decide +kernel), by decide +kernel⟩,
    ⟨on fun d => chtIn { d.cht with st := .ready, buf := [1, 2] } d, .cores, 1, served_of (by decide +kernel), by decide +kernel⟩,
    ⟨on fun d => chtIn { d.cht with st := .loading } d, .cores, served_of (by decide +kernel), by decide +kernel⟩,
    ⟨on fun d => chtIn { d.cht with st := .armed, target := some 5 } d, .cores, served_of (by decide +kernel), by decide +kernel⟩,
    ⟨on fun d => chtIn { d.cht with st := .writing, slot := some 1 } d, 1, by decide +kernel⟩,
    ⟨on fun d => chtIn { d.cht with st := .writing, slot := some 0 } d, 0, by decide +kernel⟩,
    ⟨on fun d => chtIn { d.cht with st := .building, shadowIsDelta := true } d, by decide +kernel⟩,
    ⟨on fun d => chtIn { d.cht with st := .loading, buf := [1, 2, 3, 4] } d, .cores, served_of (by decide +kernel), by decide +kernel⟩,
    ⟨on deltaReady, .cores, served_of (by decide +kernel), by decide +kernel⟩,
    ⟨on fun d => setReg (deltaReady d) CHT_DELTA_BELL_LO 9, .cores, served_of (by decide +kernel), by decide +kernel⟩,
    ⟨on id, .cores, served_of (by decide +kernel), by decide +kernel⟩⟩

theorem witness_ReferencePresence :
  (∃ (s : State) (r : Nat), calm s.dev = true ∧ r < 31 ∧ r < s.dev.refs.length ∧ kindOf s.dev r ≠ 0 ∧ (refOf s.dev r).present = false ∧ sourceValid s.dev r = true ∧ (refOf s.dev r).y.natAbs ≤ (ef s.dev (refKey REF_FTOL r)).toNat ∧ (kindOf s.dev r = 6 → accAcceptable s.dev r = true)) ∧
  (∃ (s : State) (r : Nat), calm s.dev = true ∧ sourceValid s.dev r = false) ∧
  (∃ (s : State) (r : Nat) (d : Dev), indIdle s.dev ∧ At s ((refOf s.dev r).presentFrom.toNat + qtimeOf s.dev r * 1000000000) d ∧ r < 31 ∧ r < s.dev.refs.length ∧ (refOf s.dev r).present = true ∧ (refOf s.dev r).qualified = false ∧ calm d = true) ∧
  (∃ (s : State) (r : Nat), r < 31 ∧ r < s.dev.refs.length ∧ (refOf s.dev r).present = true) ∧
  (∃ (s : State) (r : Nat), r < 31 ∧ r < s.dev.refs.length ∧ (refOf s.dev r).present = true) :=
  ⟨⟨on fun d => plane [] (put (refKey REF_CFG 2) 1 d), 2, by decide +kernel⟩,
    ⟨on fun d => put (refKey REF_CFG 2) 2 d, 2, by decide +kernel⟩,
    ⟨on fun d => waited (plane [] (refIn 3 { present := true } d)), 3, fresh (on fun d => waited (plane [] (refIn 3 { present := true } d))), rfl, at_now rfl (by decide +kernel), by decide +kernel⟩,
    ⟨on fun d => plane [] (refIn 3 { present := true, qualified := true } d), 3, by decide +kernel⟩,
    ⟨on fun d => refIn 3 { present := true } d, 3, by decide +kernel⟩⟩

theorem witness_Selection :
  (∃ (s : State) (m : RefMeas) (d : Dev), indIdle s.dev ∧ At s (s.dev.tsc.lastBellT.toNat + 20000) d ∧ m.ref < 31 ∧ m.ref < s.dev.refs.length ∧ kindOf d m.ref ≠ 0 ∧ kindOf d m.ref ≠ 7 ∧ (refOf s.dev m.ref).present = true ∧ (refOf s.dev m.ref).ys = []) ∧
  (∃ (s : State) (m : RefMeas) (d : Dev), indIdle s.dev ∧ At s (s.dev.tsc.lastBellT.toNat + 20000) d ∧ m.ref < 31 ∧ m.ref < s.dev.refs.length ∧ kindOf d m.ref ≠ 0 ∧ kindOf d m.ref ≠ 7 ∧ (refOf s.dev m.ref).present = true ∧ (refOf s.dev m.ref).ys = []) ∧
  (∃ (d : Dev) (m : RefMeas), m.ref < d.refs.length ∧ (refOf d m.ref).present = true ∧ m.ref < 31 ∧ kindOf d m.ref ≠ 0 ∧ kindOf d m.ref ≠ 7) ∧
  (∃ (s : State) (n : Nat) (due : Nat) (d : Dev), indIdle s.dev ∧ At s due d ∧ holdOffEnd s.dev n (eff s.dev (selKey SEL_CTRL n) 23 16) = some due ∧ due < 2 ^ 64 ∧ calm d = true) ∧
  (∃ (s : State) (r : Requester) (n : Nat), Served s.dev r (selKey SEL_DCLR n) ∧ calm s.dev = true ∧ n ≤ 31) ∧
  (∃ (s : State) (r : Requester) (v : Word), Served s.dev r REF_LOCKOUT ∧ (∀ n, (selOf s.dev n).curV = true → bit v (selOf s.dev n).cur = false) ∧ calm s.dev = true) ∧
  (∃ (s : State) (r : Requester) (v : Word) (n : Nat) (x : Nat), Served s.dev r REF_LOCKOUT ∧ (∀ m, m ≠ n → (selOf s.dev m).curV = false) ∧ n ∈ selectedStalls s.dev ∧ (selOf s.dev n).curV = true ∧ (selOf s.dev n).cur = x ∧ x < 31 ∧ x < s.dev.refs.length ∧ bit v x = true ∧ s.dev.twn.selWait = false) :=
  ⟨⟨on evaluated, ⟨2, 5⟩, fresh (on evaluated), rfl, at_now rfl (by decide +kernel), by decide +kernel⟩,
    ⟨on evaluated, ⟨2, -1⟩, fresh (on evaluated), rfl, at_now rfl (by decide +kernel), by decide +kernel⟩,
    ⟨put (refKey REF_CFG 2) 2 (refIn 2 { present := true, ys := [7, 1] } base), ⟨2, 5⟩, by decide +kernel⟩,
    ⟨on fun d => waited (selIn 4 { tEntry := some 5 } d), 4, 5, fresh (on fun d => waited (selIn 4 { tEntry := some 5 } d)), rfl, at_now rfl (by decide +kernel), by decide +kernel⟩,
    ⟨on fun d => selIn 4 { marks := [(2, none), (3, none)] } d, .cores, 4, served_of (by decide +kernel), by decide +kernel⟩,
    ⟨on fun d => selIn 4 { curV := true, cur := 3 } (refIn 2 { present := true } d), .cores, 4, served_of (by decide +kernel), quiet_others (by decide +kernel), by decide +kernel⟩,
    ⟨on (following 3 {}), .cores, 8, 0, 3, served_of (by decide +kernel), one_choice (by decide +kernel), by decide +kernel⟩⟩

theorem witness_StallUpdate :
  (∃ (s : State) (n : Nat), calm s.dev = true ∧ (selOf s.dev n).curV = false ∧ tbusOf s.dev n = 0) ∧
  (∃ (s : State) (n : Nat) (p : Int) (x : Int) (z : Int), fabricRuns s.dev = true ∧ stallBuilt s.dev n = true ∧ n < s.dev.stalls.length ∧ holdsY s.dev n = false ∧ ((selOf s.dev n).curV = true ∨ tbusOf s.dev n ≠ 0) ∧ twinPhase s.dev n = 0 ∧ (steeredScale s.dev n = none ∨ hasPhase s.dev (selOf s.dev n).cur = false ∨ (refOf s.dev (selOf s.dev n).cur).point = none) ∧ x = 2 * p - stepping s.dev n ∧ z = (if (stallOf s.dev n).relatch = true then (if freqOnly s.dev n = true then x else 0) else (stallOf s.dev n).zero)) ∧
  (∃ (s : State) (n : Nat) (p : Int) (x : Int) (z : Int), fabricRuns s.dev = true ∧ stallBuilt s.dev n = true ∧ n < s.dev.stalls.length ∧ holdsY s.dev n = false ∧ ((selOf s.dev n).curV = true ∨ tbusOf s.dev n ≠ 0) ∧ twinPhase s.dev n = 0 ∧ (steeredScale s.dev n = none ∨ hasPhase s.dev (selOf s.dev n).cur = false ∨ (refOf s.dev (selOf s.dev n).cur).point = none) ∧ x = 2 * p - stepping s.dev n ∧ z = (if (stallOf s.dev n).relatch = true then (if freqOnly s.dev n = true then x else 0) else (stallOf s.dev n).zero)) ∧
  (∃ (s : State) (n : Nat), fabricRuns s.dev = true ∧ stallBuilt s.dev n = true ∧ n < s.dev.stalls.length ∧ holdsY s.dev n = false ∧ (selOf s.dev n).curV = true) :=
  ⟨⟨on fun d => plane steered d, 0, by decide +kernel⟩,
    ⟨on (following 3 {}), 0, 5, 10, 10, by decide +kernel⟩,
    ⟨on (following 3 { relatch := false, zero := 4, eSum := 7 }), 0, 5, 10, 4, by decide +kernel⟩,
    ⟨on (following 3 {}), 0, by decide +kernel⟩⟩

theorem witness_ScaleStallBandwidth :
  (∃ (s : State) (n : Nat), fabricRuns s.dev = true ∧ stallBuilt s.dev n = true ∧ n < s.dev.stalls.length ∧ holdsY s.dev n = false ∧ (selOf s.dev n).curV = true ∧ (selOf s.dev n).servo ≠ .freeRun ∧ stallFunc s.dev n = 1) :=
  ⟨on fun d => selIn 0 { curV := true, cur := 3, servo := .locked } (following 3 {} d), 0, by decide +kernel⟩

theorem witness_Aplls :
  (∃ (s : State) (n : Nat), n < 4 ∧ n < s.dev.apls.length ∧ apllBuilt s.dev n = true ∧ rangeBad s.dev n = false ∧ (apllOf s.dev n).lock = false ∧ s.dev.gen.mode = .active) ∧
  (∃ (s : State) (n : Nat) (o : Nat), n < 4 ∧ n < s.dev.apls.length ∧ apllBuilt s.dev n = true ∧ rangeBad s.dev n = false ∧ (apllOf s.dev n).lock = false ∧ s.dev.gen.mode = .bringup ∧ ethrefOut s.dev = some o ∧ o ∈ drivenBy s.dev n ∧ outInvalid s.dev o n = false ∧ o < s.dev.outs.length) ∧
  (∃ (s : State) (n : Nat), n < 4 ∧ n < s.dev.apls.length ∧ (apllOf s.dev n).lock = true ∧ ((apllOf s.dev n).gated = false ∨ (∃ o, o ∈ drivenBy s.dev n ∧ (outOf s.dev o).run = true))) ∧
  (∃ (s : State) (n : Nat), n < 4 ∧ n < s.dev.apls.length ∧ apllBuilt s.dev n = true ∧ (apllOf s.dev n).refLost = false ∧ (apllOf s.dev n).gated = false) ∧
  (∃ (s : State) (n : Nat), calm s.dev = true ∧ n < 4 ∧ n < s.dev.apls.length) ∧
  (∃ (s : State) (n : Nat), calm s.dev = true ∧ n < 4 ∧ n < s.dev.apls.length) ∧
  (∃ (s : State) (n : Nat), calm s.dev = true ∧ n < 4 ∧ n < s.dev.apls.length) :=
  ⟨⟨on fun d => plane [pitch 2 0 1 []] (put AP_NINT 1200 d), 0, by decide +kernel⟩,
    ⟨on ethStart, 0, 2, by decide +kernel⟩,
    ⟨on fun d => plane [pitch 2 0 1 []] { d with apls := d.apls.set 0 { lock := true, gated := false } }, 0, by decide +kernel⟩,
    ⟨on fun d => plane [pitch 2 0 1 []] { d with apls := d.apls.set 0 { lock := true, gated := false } }, 0, by decide +kernel⟩,
    ⟨on fun d => { d with apls := d.apls.set 0 { prem := -5 } }, 0, by decide +kernel⟩,
    ⟨on fun d => { d with apls := d.apls.set 0 { prem := 1 } }, 0, by decide +kernel⟩,
    ⟨on id, 0, by decide +kernel⟩⟩

theorem witness_Pulses :
  (∃ (s : State) (n : Nat) (l : Int) (d : Dev), indIdle s.dev ∧ AtScale s (pulseScale s.dev n) (pulseAt s.dev n (pulseNextK s.dev n)) d ∧ n < s.dev.pulses.length ∧ pulseMayFire s.dev n = true ∧ pulseRef s.dev n = none ∧ (pulseOf s.dev n).lastK = some l ∧ calm d = true) ∧
  (∃ (s : State) (n : Nat) (r : Nat) (q : Rat) (d : Dev), indIdle s.dev ∧ At s (ratCeil (q / 65536)).toNat d ∧ n < s.dev.pulses.length ∧ pulseMayFire s.dev n = true ∧ pulseRef s.dev n = some r ∧ pulseInDue s.dev n = some q ∧ calm d = true) ∧
  (∃ (s : State) (n : Nat) (due : Nat) (d : Dev), indIdle s.dev ∧ At s due d ∧ widthDue s.dev false n = some due ∧ n < s.dev.pulses.length ∧ (pulseOf s.dev n).active = true ∧ calm d = true) ∧
  (∃ (s : State) (n : Nat) (due : Nat) (d : Dev), indIdle s.dev ∧ At s due d ∧ widthDue s.dev true n = some due ∧ n < s.dev.trigs.length ∧ (trigOf s.dev n).active = true ∧ calm d = true) ∧
  (∃ (s : State) (r : Nat) (falling : Bool) (sub : Nat) (now : Int) (l : Int), calm s.dev = true ∧ kindOf s.dev r = 2 ∧ falling = efb s.dev (refKey REF_CFG r) 8 ∧ r < s.dev.refs.length ∧ (refOf s.dev r).present = true ∧ (refOf s.dev r).lastPulse = some l ∧ now = (s.dev.t.toNat : Int) * 65536 + sub ∧ (now - l - 65536 * 1000000000).natAbs ≤ 65536 * 1000000) ∧
  (∃ (s : State), calm s.dev = true) ∧
  (∃ (s : State), calm s.dev = true) ∧
  (∃ (s : State) (r : Nat) (l : Int) (d : Dev), indIdle s.dev ∧ At s (ceilDiv (l + 65536 * 1001000000).toNat 65536) d ∧ kindOf s.dev r = 2 ∧ r < s.dev.refs.length ∧ (refOf s.dev r).lastPulse = some l ∧ (refOf s.dev r).missed = 0) ∧
  (∃ (s : State) (r : Nat) (l : Int) (d : Dev), indIdle s.dev ∧ At s (ceilDiv (l + 65536 * 1001000000).toNat 65536) d ∧ kindOf s.dev r = 2 ∧ r < 31 ∧ r < s.dev.refs.length ∧ (refOf s.dev r).lastPulse = some l ∧ 1 ≤ (refOf s.dev r).missed ∧ (refOf s.dev r).present = true) :=
  ⟨⟨on (pulsing { run := true, lastK := some (-1) }), 0, -1, fresh (on (pulsing { run := true, lastK := some (-1) })), rfl, scale_now rfl (by decide +kernel), by decide +kernel⟩,
    ⟨on (follower { run := true, inEdge := some 0, inPeriod := some 65536 }), 0, 2, 65536, fresh (on (follower { run := true, inEdge := some 0, inPeriod := some 65536 })), rfl, at_now rfl (by decide +kernel), by decide +kernel⟩,
    ⟨on (pulsing { active := true, endPs := some 5000 }), 0, 5, fresh (on (pulsing { active := true, endPs := some 5000 })), rfl, at_now rfl (by decide +kernel), by decide +kernel⟩,
    ⟨on fun d => waited { d with trigs := d.trigs.set 3 { active := true, endPs := some 5000 } }, 3, 5, fresh (on fun d => waited { d with trigs := d.trigs.set 3 { active := true, endPs := some 5000 } }), rfl, at_now rfl (by decide +kernel), by decide +kernel⟩,
    ⟨on (follower { run := true }), 2, false, 5, 6553600000000005, 6488064000000005, by decide +kernel⟩,
    ⟨on (follower { run := true }), by decide +kernel⟩,
    ⟨on fun d => put (refKey REF_CFG 2) 2 (refIn 2 { present := true } d), by decide +kernel⟩,
    ⟨on fun d => refIn 2 { present := true, lastPulse := some 5 } (follower { run := true, inEdge := some 6, inPeriod := some 65536 } d), 2, 5, fresh (on fun d => refIn 2 { present := true, lastPulse := some 5 } (follower { run := true, inEdge := some 6, inPeriod := some 65536 } d)), rfl, at_now rfl (by decide +kernel), by decide +kernel⟩,
    ⟨on fun d => refIn 2 { present := true, lastPulse := some 5, missed := 1 } (follower {} d), 2, 5, fresh (on fun d => refIn 2 { present := true, lastPulse := some 5, missed := 1 } (follower {} d)), rfl, at_now rfl (by decide +kernel), by decide +kernel⟩⟩

theorem witness_Grids :
  (∃ (s : State) (g : Nat) (d : Dev), indIdle s.dev ∧ AtScale s 0 ((nextLine s.dev g : Rat) * linePeriod s.dev g * 1000000000) d ∧ g < s.dev.grids.length ∧ videoRuns s.dev g = true ∧ videoRuns d g = true ∧ s.dev.staged = [] ∧ d.staged = []) ∧
  (∃ (s : State) (g : Nat), calm s.dev = true ∧ g < s.dev.grids.length ∧ built s.dev 5 g = true ∧ (gridOf s.dev g).run = true ∧ isVideo s.dev g = false ∧ (gridOf s.dev g).started = false ∧ isAudioGrid s.dev g = false ∧ s.dev.staged = []) ∧
  (∃ (s : State) (g : Nat), calm s.dev = true ∧ g < s.dev.grids.length ∧ built s.dev 5 g = true ∧ (gridOf s.dev g).run = true ∧ isAudioGrid s.dev g = true ∧ (gridOf s.dev g).divN + 1 < max 1 (eff s.dev (grKey GR_DIV g) 23 0)) ∧
  (∃ (s : State) (g : Nat) (sub : Nat) (i : Int), calm s.dev = true ∧ g < s.dev.grids.length ∧ built s.dev 5 g = true ∧ (gridOf s.dev g).run = true ∧ isVideo s.dev g = false ∧ isAudioGrid s.dev g = false ∧ (gridOf s.dev g).started = true ∧ s.dev.staged = [] ∧ i = stampOf s.dev.tsc.o + sub ∧ withinMtol s.dev g (i - (gridOf s.dev g).bnd - gridPer s.dev g) (gridPer s.dev g) = true) ∧
  (∃ (s : State) (g : Nat) (sub : Nat) (i : Int), calm s.dev = true ∧ g < s.dev.grids.length ∧ built s.dev 5 g = true ∧ (gridOf s.dev g).run = true ∧ isVideo s.dev g = false ∧ isAudioGrid s.dev g = false ∧ (gridOf s.dev g).started = true ∧ (gridOf s.dev g).lastFly = true ∧ i = stampOf s.dev.tsc.o + sub ∧ withinMtol s.dev g (i - (gridOf s.dev g).bnd - gridPer s.dev g) (gridPer s.dev g) = false ∧ withinMtol s.dev g (i - (gridOf s.dev g).bnd) (gridPer s.dev g) = true) ∧
  (∃ (s : State) (g : Nat) (sub : Nat), calm s.dev = true ∧ g < s.dev.grids.length ∧ built s.dev 5 g = true ∧ (gridOf s.dev g).run = true ∧ isVideo s.dev g = false ∧ isAudioGrid s.dev g = false ∧ (gridOf s.dev g).started = true ∧ (gridOf s.dev g).lastFly = false ∧ eff s.dev (grKey GR_CFG g) 31 16 * gridPer s.dev g < ((stampOf s.dev.tsc.o + sub : Int) - (gridOf s.dev g).bnd - gridPer s.dev g).natAbs * 1000000) ∧
  (∃ (s : State) (g : Nat) (d : Dev), indIdle s.dev ∧ AtScale s 0 (((gridOf s.dev g).bnd : Rat) / 65536 + (gridPer s.dev g : Rat) * 3 / 131072) d ∧ g < s.dev.grids.length ∧ built s.dev 5 g = true ∧ (gridOf s.dev g).run = true ∧ isVideo s.dev g = false ∧ (gridOf s.dev g).started = true ∧ s.dev.staged = []) :=
  ⟨⟨on (video { run := true, passed := some (-1) }), 2, fresh (on (video { run := true, passed := some (-1) })), rfl, scale_now rfl (by decide +kernel), by decide +kernel⟩,
    ⟨on (measuredGrid { run := true }), 2, by decide +kernel⟩,
    ⟨on (audioGrid { run := true }), 2, by decide +kernel⟩,
    ⟨on (measuredGrid { run := true, started := true, per := 65536, bnd := -65536 }), 2, 0, 0, by decide +kernel⟩,
    ⟨on (measuredGrid { run := true, started := true, per := 65536, lastFly := true }), 2, 0, 0, by decide +kernel⟩,
    ⟨on (measuredGrid { run := true, started := true, per := 65536, bnd := -100000000 }), 2, 5, by decide +kernel⟩,
    ⟨on (measuredGrid { run := true, started := true, per := 65536, bnd := -100000000 }), 2, fresh (on (measuredGrid { run := true, started := true, per := 65536, bnd := -100000000 })), rfl, scale_now rfl (by decide +kernel), by decide +kernel⟩⟩

theorem witness_TriggersAndCaptures :
  (∃ (s : State) (n : Nat) (c : Int) (q : Rat) (d : Dev), indIdle s.dev ∧ AtScale s 0 q d ∧ n < s.dev.trigs.length ∧ trigDue s.dev n = some (c, q) ∧ calm d = true) ∧
  (∃ (d : Dev) (n : Nat) (g : Nat), n < d.trigs.length ∧ trigGrid d n = some g ∧ pitchFunc d 6 n = 1 ∧ (gridOf d g).run = true ∧ gridInvalid d g = false ∧ (gridOf d g).started = true ∧ trigPeriodic d n = false) ∧
  (∃ (s : State) (r : Requester) (n : Nat) (g : Nat), Served s.dev r (grKey TR_CNT_HI n) ∧ calm s.dev = true ∧ n ≤ 15 ∧ n < s.dev.trigs.length ∧ trigGrid s.dev n = some g ∧ pitchFunc s.dev 6 n = 1 ∧ trigPeriodic s.dev n = false ∧ (gridOf s.dev g).started = false ∧ isVideo s.dev g = false) ∧
  (∃ (s : State) (r : Requester) (n : Nat) (g : Nat) (v : Word), Served s.dev r (grKey TR_CNT_HI n) ∧ n ≤ 15 ∧ n < s.dev.trigs.length ∧ trigGrid s.dev n = some g ∧ pitchFunc s.dev 6 n = 1 ∧ trigPeriodic s.dev n = false ∧ (gridOf s.dev g).started = true ∧ trigInstantFor s.dev n g (BitVec.ofNat 64 (v.toNat * 2 ^ 32 + (rg s.dev (grKey TR_CNT_LO n)).toNat)).toInt < ((stampOf s.dev.tsc.o + 2000 * 65536 : Nat) : Rat)) ∧
  (∃ (s : State) (n : Nat) (falling : Bool) (sub : Nat), (∀ l, (trigOf s.dev n).lastEdge = some l → l + 8 * 65536 ≤ (s.dev.t.toNat : Int) * 65536 + sub) ∧ calm s.dev = true ∧ n < s.dev.trigs.length ∧ pitchFunc s.dev 6 n = 2 ∧ s.dev.gen.mode = .active ∧ edgeWanted s.dev n falling = true ∧ (trigOf s.dev n).fifo.length < 16 ∧ rgb s.dev OUT_CAPRING 31 = false) ∧
  (∃ (s : State) (n : Nat) (falling : Bool) (sub : Nat) (l : Int), pitchFunc s.dev 6 n = 2 ∧ s.dev.gen.mode = .active ∧ edgeWanted s.dev n falling = true ∧ (trigOf s.dev n).lastEdge = some l ∧ (s.dev.t.toNat : Int) * 65536 + sub < l + 8 * 65536) ∧
  (∃ (s : State) (r : Requester) (n : Nat) (x : CapRec) (rest : List CapRec), Served s.dev r (grKey TR_CAP n) ∧ calm s.dev = true ∧ n ≤ 15 ∧ n < s.dev.trigs.length ∧ (trigOf s.dev n).fifo = x :: rest) :=
  ⟨⟨on (shots 1 { armed := true }), 1, 0, 0, fresh (on (shots 1 { armed := true })), rfl, scale_now rfl (by decide +kernel), by decide +kernel⟩,
    ⟨shots 1 { armed := true } base, 1, 2, by decide +kernel⟩,
    ⟨on fun d => plane [pitch 5 2 3 [], pitch 6 1 1 [⟨6, 2, 0⟩]] d, .cores, 1, 2, served_of (by decide +kernel), by decide +kernel⟩,
    ⟨on (shots 1 {}), .cores, 1, 2, 0, served_of (by decide +kernel), by decide +kernel⟩,
    ⟨on (shots 2 { lastEdge := some 5, fifo := [default] }), 1, false, 5, of_last rfl (by decide +kernel), by decide +kernel⟩,
    ⟨on (shots 2 { lastEdge := some 6553600000000000 }), 1, false, 5, 6553600000000000, by decide +kernel⟩,
    ⟨on (shots 2 { fifo := [default, default] }), .cores, 1, default, [default], served_of (by decide +kernel), by decide +kernel⟩⟩

theorem witness_IntervalMode :
  (∃ (s : State) (x : TdcIn), Accepts s.dev 0 x ∧ calm s.dev = true ∧ tdcMode s.dev = 0 ∧ s.dev.tdc.meas = none) ∧
  (∃ (s : State) (x : TdcIn) (m : TdcMeas), Accepts s.dev 0 x ∧ calm s.dev = true ∧ tdcMode s.dev = 0 ∧ s.dev.tdc.meas = some m ∧ windowOver s.dev m (edgeAs s.dev 0 x) = false ∧ rgb s.dev (baseTdc + 4) 3 = false) ∧
  (∃ (s : State) (x : TdcIn) (m : TdcMeas), Accepts s.dev 0 x ∧ tdcMode s.dev = 0 ∧ s.dev.tdc.meas = some m ∧ windowOver s.dev m (edgeAs s.dev 0 x) = false ∧ rgb s.dev (baseTdc + 4) 3 = true ∧ s.dev.tdc.fifo.length < 128 ∧ rgb s.dev TDC_RING 31 = false) ∧
  (∃ (s : State) (n : Nat) (x : TdcIn) (m : TdcMeas), Accepts s.dev n x ∧ calm s.dev = true ∧ tdcMode s.dev = 0 ∧ n ≠ 0 ∧ s.dev.tdc.meas = some m ∧ m.stops ≠ 63 ∧ edgeTime m.start ≤ edgeTime (edgeAs s.dev n x) ∧ windowOver s.dev m (edgeAs s.dev n x) = false ∧ s.dev.tdc.fifo.length < 128 ∧ rgb s.dev TDC_RING 31 = false) ∧
  (∃ (s : State) (n : Nat) (x : TdcIn) (m : TdcMeas), Accepts s.dev n x ∧ tdcMode s.dev = 0 ∧ n ≠ 0 ∧ s.dev.tdc.meas = some m ∧ m.stops = 63 ∧ edgeTime m.start ≤ edgeTime (edgeAs s.dev n x) ∧ windowOver s.dev m (edgeAs s.dev n x) = false ∧ s.dev.tdc.fifo.length < 127 ∧ rgb s.dev TDC_RING 31 = false) ∧
  (∃ (s : State) (n : Nat) (x : TdcIn), Accepts s.dev n x ∧ calm s.dev = true ∧ tdcMode s.dev = 0 ∧ n ≠ 0 ∧ s.dev.tdc.meas = none) ∧
  (∃ (s : State) (m : TdcMeas) (d : Dev), indIdle s.dev ∧ At s (m.start.coarse + tdcWindow s.dev * 1000000 + b2n (m.start.fine2 != 0)) d ∧ s.dev.tdc.meas = some m ∧ s.dev.tdc.fifo.length < 128 ∧ rgb d TDC_RING 31 = false) ∧
  (∃ (s : State) (n : Nat) (x : TdcIn), (∃ l, s.dev.tdc.lastEdge.getD n none = some l ∧ edgeTime (edgeAs s.dev n x) < l + 4 * 2 ^ 21) ∧ calm s.dev = true ∧ tdcMode s.dev ≠ 2 ∧ edgePasses s.dev n x = true ∧ n ≠ 0) ∧
  (∃ (s : State) (n : Nat) (x : TdcIn), calm s.dev = true ∧ edgePasses s.dev n x = false) ∧
  (∃ (s : State) (x : TdcIn), calm s.dev = true ∧ edgePasses s.dev 0 x = false) :=
  ⟨⟨on (tdcOn 0 {}), ⟨-100, 100, 5⟩, accepts_of (by decide +kernel), by decide +kernel⟩,
    ⟨on (tdcOn 0 { meas := some (measOf 0) }), ⟨-100, 100, 5⟩, measOf 0, accepts_of (by decide +kernel), by decide +kernel⟩,
    ⟨on fun d => setReg (tdcOn 0 { meas := some (measOf 1), nextSeq := 1 } d) (baseTdc + 4) 9, ⟨-100, 100, 5⟩, measOf 1, accepts_of (by decide +kernel), by decide +kernel⟩,
    ⟨on fun d => tdcOn 0 { meas := some (measOf 3), nextSeq := 1 } { d with t := 100 }, 1, ⟨-100, 100, 5⟩, measOf 3, accepts_of (by decide +kernel), by decide +kernel⟩,
    ⟨on fun d => tdcOn 0 { meas := some (measOf 63), nextSeq := 1 } { d with t := 100 }, 1, ⟨-100, 100, 5⟩, measOf 63, accepts_of (by decide +kernel), by decide +kernel⟩,
    ⟨on (tdcOn 0 {}), 1, ⟨-100, 100, 5⟩, accepts_of (by decide +kernel), by decide +kernel⟩,
    ⟨on fun d => waited (tdcOn 0 { meas := some (measOf 3), nextSeq := 1 } d), measOf 3, fresh (on fun d => waited (tdcOn 0 { meas := some (measOf 3), nextSeq := 1 } d)), rfl, at_now rfl (by decide +kernel), by decide +kernel⟩,
    ⟨on (tdcOn 0 { lastEdge := List.replicate 8 (some 0) }), 1, ⟨-100, 100, 5⟩, ⟨0, by decide +kernel⟩, by decide +kernel⟩,
    ⟨on (tdcOn 0 {}), 1, ⟨-100, -50, 5⟩, by decide +kernel⟩,
    ⟨on (tdcOn 0 {}), ⟨100, -100, 5⟩, by decide +kernel⟩⟩

theorem witness_TimestampAndGate :
  (∃ (s : State) (n : Nat) (x : TdcIn) (v : Nat), Accepts s.dev n x ∧ calm s.dev = true ∧ tdcMode s.dev = 1 ∧ n < s.dev.tdc.edgeSeq.length ∧ s.dev.tdc.fifo.length < 128 ∧ rgb s.dev TDC_RING 31 = false ∧ v = ((stampOf (scaleVal s.dev (tdcScale s.dev)) : Int) + ratNearest (((edgeAs s.dev n x).fine2 : Rat) / 32) - tapOf s.dev 22).toNat) ∧
  (∃ (s : State) (n : Nat) (x : TdcIn), Accepts s.dev n x ∧ calm s.dev = true ∧ tdcMode s.dev = 2 ∧ n < s.dev.tdc.gates.length ∧ n < s.dev.tdc.edgeCnt.length ∧ s.dev.tdc.gateOpen = true ∧ (tdcGateOf s.dev n).first = none ∧ s.dev.tdc.gateWait.getD n none = none) ∧
  (∃ (s : State) (n : Nat) (x : TdcIn) (g : TdcGate) (no : BitVec 64) (a : TdcEdge), Accepts s.dev n x ∧ tdcMode s.dev = 2 ∧ n < s.dev.tdc.gateWait.length ∧ n < s.dev.tdc.edgeCnt.length ∧ s.dev.tdc.gateWait.getD n none = some (g, no) ∧ g.first = some a ∧ s.dev.tdc.fifo.length < 128 ∧ rgb s.dev TDC_RING 31 = false) ∧
  (∃ (s : State) (n : Nat) (a : TdcEdge) (d : Dev), indIdle s.dev ∧ At s (s.dev.tdc.gateT.toNat + tdcWindow s.dev * 1000000) d ∧ (∀ k, k ≠ n → inputTakes d k = false) ∧ tdcRuns d = true ∧ tdcMode d = 2 ∧ gateDue s.dev = some (s.dev.tdc.gateT.toNat + tdcWindow s.dev * 1000000) ∧ calm d = true ∧ n < 8 ∧ inputTakes d n = true ∧ n < s.dev.tdc.gates.length ∧ n < s.dev.tdc.gateWait.length ∧ (tdcGateOf s.dev n).first = some a) ∧
  (∃ (d : Dev) (n : Nat) (g : Dev) (a : TdcRec), g = closeInput d n ∧ a = g.tdc.fifo.getLast?.getD default ∧ (tdcGateOf d n).first = none ∧ d.tdc.fifo.length < 128 ∧ rgb d TDC_RING 31 = false ∧ n < d.tdc.gates.length) ∧
  (∃ (s : State), calm s.dev = true ∧ gateDue s.dev = none) :=
  ⟨⟨on (tdcOn 1 {}), 1, ⟨-100, 100, 5⟩, 0, accepts_of (by decide +kernel), by decide +kernel⟩,
    ⟨on (tdcOn 2 { gateOpen := true }), 1, ⟨-100, 100, 5⟩, accepts_of (by decide +kernel), by decide +kernel⟩,
    ⟨on (tdcOn 2 { gateWait := List.replicate 8 (some oldGate), edgeCnt := List.replicate 8 9 }), 1, ⟨-100, 100, 5⟩, oldGate.1, 4, (measOf 0).start, accepts_of (by decide +kernel), by decide +kernel⟩,
    ⟨on openGate, 1, (measOf 0).start, fresh (on openGate), rfl, at_now rfl (by decide +kernel), others_take_none (by decide +kernel), by decide +kernel⟩,
    ⟨base, 1, closeInput base 1, (closeInput base 1).tdc.fifo.getLast?.getD default, rfl, rfl, by decide +kernel⟩,
    ⟨on id, by decide +kernel⟩⟩

theorem witness_OscillatorWarm :
  (∃ (s : State) (d : Dev), indIdle s.dev ∧ At s ((s.dev.tdc.minT.toNat / 60000000000 + 1) * 60000000000) d ∧ calm d = true ∧ heldInReset d 11 0 = false ∧ driftRef d = none) ∧
  (∃ (s : State) (r : Nat) (b : Rat) (d : Dev), indIdle s.dev ∧ At s ((s.dev.tdc.minT.toNat / 60000000000 + 1) * 60000000000) d ∧ calm d = true ∧ heldInReset d 11 0 = false ∧ driftRef d = some r ∧ s.dev.tdc.minN ≠ 0 ∧ s.dev.tdc.lastMean = some b ∧ ((s.dev.tdc.minSum : Rat) / (s.dev.tdc.minN : Rat) - b) * 1000000000 < (2 : Rat) ^ 48 ∧ (b - (s.dev.tdc.minSum : Rat) / (s.dev.tdc.minN : Rat)) * 1000000000 < (2 : Rat) ^ 48) ∧
  (∃ (s : State) (r : Nat) (b : Rat) (d : Dev), indIdle s.dev ∧ At s ((s.dev.tdc.minT.toNat / 60000000000 + 1) * 60000000000) d ∧ heldInReset d 11 0 = false ∧ driftRef d = some r ∧ s.dev.tdc.minN ≠ 0 ∧ s.dev.tdc.lastMean = some b ∧ ((2 : Rat) ^ 48 ≤ ((s.dev.tdc.minSum : Rat) / (s.dev.tdc.minN : Rat) - b) * 1000000000 ∨ (2 : Rat) ^ 48 ≤ (b - (s.dev.tdc.minSum : Rat) / (s.dev.tdc.minN : Rat)) * 1000000000)) ∧
  (∃ (s : State), calm s.dev = true) :=
  ⟨⟨on fun d => waited (tdcOn 0 { rdyMin := 4 } d), fresh (on fun d => waited (tdcOn 0 { rdyMin := 4 } d)), rfl, at_now rfl (by decide +kernel), by decide +kernel⟩,
    ⟨on (drifting 7), 3, 3, fresh (on (drifting 7)), rfl, at_now rfl (by decide +kernel), by decide +kernel⟩,
    ⟨on (drifting (10 ^ 9)), 3, 3, fresh (on (drifting (10 ^ 9))), rfl, at_now rfl (by decide +kernel), by decide +kernel⟩,
    ⟨on (tdcOn 0 { warm := true, meas := some (measOf 1) }), by decide +kernel⟩⟩

theorem witness_TdcCalibration :
  (∃ (s : State) (c : CalResult), calm s.dev = true ∧ s.dev.tdc.calRun = true ∧ c.intp = s.dev.tdc.spare ∧ calPasses c = true ∧ c.intp < s.dev.tdc.tables.length ∧ c.intp < s.dev.tdc.tableT.length) ∧
  (∃ (s : State) (c : CalResult), s.dev.tdc.calRun = true ∧ c.intp = s.dev.tdc.spare ∧ calPasses c = false) ∧
  (∃ (s : State) (r : Requester) (x : TdcRec) (rest : List TdcRec), Served s.dev r TDC_RES ∧ calm s.dev = true ∧ s.dev.tdc.fifo = x :: rest) ∧
  (∃ (s : State) (r : Requester), Served s.dev r TDC_RES ∧ calm s.dev = true ∧ s.dev.tdc.fifo = []) :=
  ⟨⟨on (tdcOn 0 { calRun := true, fails := 2 }), ⟨8, 100, []⟩, by decide +kernel⟩,
    ⟨on (tdcOn 0 { calRun := true, fails := 2, round := true }), ⟨8, 0, []⟩, by decide +kernel⟩,
    ⟨on (tdcOn 0 { fifo := [default, default] }), .cores, default, [default], served_of (by decide +kernel), by decide +kernel⟩,
    ⟨on (tdcOn 0 {}), .cores, served_of (by decide +kernel), by decide +kernel⟩⟩

theorem witness_GnssChannelsAndClock :
  (∃ (s : State) (c : Nat), calm s.dev = true ∧ c < s.dev.gns.chans.length ∧ ((chanOf s.dev c).st = .pullIn ∨ (chanOf s.dev c).st = .lost) ∧ mayTrack s.dev (chanOf s.dev c).sig (chanOf s.dev c).fch = true ∧ sigBand (chanOf s.dev c).sig < s.dev.gns.bandTracked.length) ∧
  (∃ (s : State) (c : Nat), calm s.dev = true ∧ c < s.dev.gns.chans.length ∧ (chanOf s.dev c).st = .track) ∧
  (∃ (s : State) (c : Nat) (d : Dev), indIdle s.dev ∧ At s ((chanOf s.dev c).searchT.toNat + 2000000000) d ∧ c < s.dev.gns.chans.length ∧ (chanOf s.dev c).st = .search ∧ calm d = true ∧ chAuto d = false) ∧
  (∃ (s : State) (c : Nat), calm s.dev = true ∧ (chanOf s.dev c).st ≠ .search) ∧
  (∃ (s : State) (b : Nat) (n : Nat) (inp : DwellIn) (sig : Nat) (sv : Nat), calm s.dev = true ∧ gnsRuns s.dev = true ∧ s.dev.gns.aidWait = [] ∧ bankTurn s.dev b = some n ∧ n < s.dev.gns.slotSv.length ∧ slotJob s.dev n = some (sig, 0) ∧ sv = max 1 (s.dev.gns.slotSv.getD n 0) ∧ (∀ x ∈ inp.cells, detected inp.floor (slotNcoh s.dev n) x = false)) ∧
  (∃ (s : State) (b : Nat) (n : Nat) (x : Cell) (c : Nat) (sig : Nat) (sv : Nat) (fl : Nat), gnsRuns s.dev = true ∧ s.dev.gns.aidWait = [] ∧ bankTurn s.dev b = some n ∧ n < s.dev.gns.detections.length ∧ slotJob s.dev n = some (sig, sv) ∧ sv ≠ 0 ∧ sig ≠ 7 ∧ mayTrack s.dev sig 0 = true ∧ detected fl (slotNcoh s.dev n) x = true ∧ s.dev.gns.chans.findIdx? (fun h => h.st == .idle) = some c) ∧
  (∃ (s : State) (c : Nat) (x : Cell) (fl : Nat), (∀ w, codeWindow s.dev (sigBand (chanOf s.dev c).sig) = some w → x.code.natAbs ≤ w) ∧ gnsRuns s.dev = true ∧ s.dev.gns.aidWait = [] ∧ c < s.dev.gns.chans.length ∧ (chanOf s.dev c).st = .search ∧ mayTrack s.dev (chanOf s.dev c).sig (chanOf s.dev c).fch = true ∧ detected fl x.sums.length x = true ∧ x.dop.natAbs ≤ dopWindow s.dev (sigSys (chanOf s.dev c).sig) (chanOf s.dev c).sv) ∧
  (∃ (s : State) (d : Dev), indIdle s.dev ∧ At s (s.dev.gns.gclkBadT.toNat + 1000000000) d ∧ calm d = true) ∧
  (∃ (s : State) (t : Nat) (v : Int) (d : Dev), indIdle s.dev ∧ AtScale s 0 ((t : Rat) * 1000000000) d ∧ s.dev.gns.leapNext = some (t, some v) ∧ calm d = true) ∧
  (∃ (s : State) (t : Nat) (d : Dev), indIdle s.dev ∧ AtScale s 0 ((t : Rat) * 1000000000) d ∧ s.dev.gns.leapNext = some (t, none) ∧ calm d = true) ∧
  (∃ (s : State), calm s.dev = true ∧ s.dev.gns.leapNext = none) :=
  ⟨⟨on (chanIn 7 { st := .pullIn, sv := 5 }), 7, by decide +kernel⟩,
    ⟨on (chanIn 7 { st := .track, inSol := true }), 7, by decide +kernel⟩,
    ⟨on fun d => waited (chanIn 7 { st := .search, sv := 5 } d), 7, fresh (on fun d => waited (chanIn 7 { st := .search, sv := 5 } d)), rfl, at_now rfl (by decide +kernel), by decide +kernel⟩,
    ⟨on (gnsOn {}), 7, by decide +kernel⟩,
    ⟨on fun d => put (SLOT_CFG + 0x10) 0x80000000 (skyOn { slotSv := List.replicate 8 32 } d), 0, 1, ⟨0, 0, []⟩, 0, 32, by decide +kernel⟩,
    ⟨on fun d => put (SLOT_CFG + 0x10) 0x80050000 (skyOn {} d), 0, 1, ⟨0, 3, 4, List.replicate 10 1000⟩, 0, 0, 5, 7, by decide +kernel⟩,
    ⟨on (chanIn 7 { st := .search, sv := 5 }), 7, ⟨0, 3, 4, [1000]⟩, 7, of_none (by decide +kernel), by decide +kernel⟩,
    ⟨on fun d => waited (gnsOn { gclkF := true } d), fresh (on fun d => waited (gnsOn { gclkF := true } d)), rfl, at_now rfl (by decide +kernel), by decide +kernel⟩,
    ⟨on (gnsOn { leapNext := some (0, some 38) }), 0, 38, fresh (on (gnsOn { leapNext := some (0, some 38) })), rfl, scale_now rfl (by decide +kernel), by decide +kernel⟩,
    ⟨on (gnsOn { leapNext := some (0, none), leapSrc := 2 }), 0, fresh (on (gnsOn { leapNext := some (0, none), leapSrc := 2 })), rfl, scale_now rfl (by decide +kernel), by decide +kernel⟩,
    ⟨on id, by decide +kernel⟩⟩

theorem witness_NavigationData :
  (∃ (s : State) (u : NavUnit) (bits : List Bool), calm s.dev = true ∧ (chanOf s.dev u.ch).st = .track ∧ bandOn s.dev (sigBand (chanOf s.dev u.ch).sig) = true ∧ (unitLengths (chanOf s.dev u.ch).sig).contains u.bits.length = true ∧ (chanOf s.dev u.ch).sig ≠ 0 ∧ unitCheck s.dev (chanOf s.dev u.ch).sig (chanOf s.dev u.ch).sv u.bits = (2, bits) ∧ rgb s.dev GN_RINGS 31 = false) ∧
  (∃ (s : State) (u : NavUnit) (bits : List Bool), calm s.dev = true ∧ (chanOf s.dev u.ch).st = .track ∧ bandOn s.dev (sigBand (chanOf s.dev u.ch).sig) = true ∧ (unitLengths (chanOf s.dev u.ch).sig).contains u.bits.length = true ∧ (chanOf s.dev u.ch).sig ≠ 0 ∧ unitCheck s.dev (chanOf s.dev u.ch).sig (chanOf s.dev u.ch).sv u.bits = (2, bits) ∧ (segments bits).length = 1 ∧ rgb s.dev GN_RINGS 31 = true ∧ rxEn s.dev (rgf s.dev GN_RINGS 5 0) = false) ∧
  (∃ (s : State) (u : NavUnit) (check : Nat) (bits : List Bool) (b : List Byte), (chanOf s.dev u.ch).st = .track ∧ bandOn s.dev (sigBand (chanOf s.dev u.ch).sig) = true ∧ (unitLengths (chanOf s.dev u.ch).sig).contains u.bits.length = true ∧ (chanOf s.dev u.ch).sig ≠ 0 ∧ unitCheck s.dev (chanOf s.dev u.ch).sig (chanOf s.dev u.ch).sv u.bits = (check, bits) ∧ check ≠ 2 ∧ rgb s.dev GN_RINGS 31 = false ∧ u.content.utc = none ∧ u.content.week = none ∧ u.content.almanac = none ∧ u.content.ephemeris = some b ∧ 50 < u.content.fs5Km ∧ (∀ y ∈ s.dev.gns.nav, y.bits ≠ b)) ∧
  (∃ (s : State) (u : NavUnit) (check : Nat) (bits : List Bool) (b : List Byte), calm s.dev = true ∧ (chanOf s.dev u.ch).st = .track ∧ bandOn s.dev 0 = true ∧ (chanOf s.dev u.ch).sig = 0 ∧ u.bits.length = 30 ∧ unitCheck s.dev 0 (chanOf s.dev u.ch).sv u.bits = (check, bits) ∧ check ≠ 2 ∧ rgb s.dev GN_RINGS 31 = false ∧ u.content.utc = none ∧ u.content.week = none ∧ u.content.almanac = none ∧ u.content.iono = none ∧ u.content.offset = none ∧ u.content.ephemeris = some b ∧ ((chanOf s.dev u.ch).sv, b) ∉ s.dev.gns.lnavSeen) ∧
  (∃ (s : State) (u : NavUnit) (check : Nat) (bits : List Bool) (b : List Byte) (sv : Nat), calm s.dev = true ∧ (chanOf s.dev u.ch).st = .track ∧ bandOn s.dev 0 = true ∧ (chanOf s.dev u.ch).sig = 0 ∧ (chanOf s.dev u.ch).sv = sv ∧ u.bits.length = 30 ∧ unitCheck s.dev 0 sv u.bits = (check, bits) ∧ check ≠ 2 ∧ rgb s.dev GN_RINGS 31 = false ∧ u.content.utc = none ∧ u.content.week = none ∧ u.content.almanac = none ∧ u.content.ephemeris = some b ∧ u.content.fs5Km ≤ 50 ∧ (sv, b) ∈ s.dev.gns.lnavSeen ∧ (∀ y ∈ s.dev.gns.nav, y.bits ≠ b)) ∧
  (∃ (s : State) (sys : Nat), calm s.dev = true ∧ sys < 4 ∧ storeReady s.dev sys = true ∧ energyFor s.dev 2400 = true) ∧
  (∃ (s : State) (p : Int × Int × Int × Nat), calm s.dev = true ∧ s.dev.gns.posDue = some p ∧ energyFor s.dev 2400 = true) ∧
  (∃ (s : State) (sys : Nat), calm s.dev = true ∧ sys < 4 ∧ storeReady s.dev sys = true ∧ energyFor s.dev 2400 = false) ∧
  (∃ (s : State) (q : Nat) (x : Desc) (rest : List Desc), calm s.dev = true ∧ aidRing s.dev = some q ∧ gnsRuns s.dev = true ∧ txEn s.dev q = true ∧ (txRing s.dev q).stop = false ∧ q < s.dev.qmg.txq.length ∧ (txRing s.dev q).posted = x :: rest ∧ aidBad (padTo 64 x.bytes) = false) ∧
  (∃ (s : State) (q : Nat) (x : Desc) (rest : List Desc), aidRing s.dev = some q ∧ gnsRuns s.dev = true ∧ txEn s.dev q = true ∧ (txRing s.dev q).stop = false ∧ (txRing s.dev q).posted = x :: rest ∧ aidBad (padTo 64 x.bytes) = true) :=
  ⟨⟨on (chanIn 7 { st := .track, sig := 1, sv := 5 }), navUnit cnavBad none, cnavBad, by decide +kernel⟩,
    ⟨on fun d => setReg (chanIn 7 { st := .track, sig := 1, sv := 5 } d) GN_RINGS 0x80000000, navUnit cnavBad none, cnavBad, by decide +kernel⟩,
    ⟨on (chanIn 7 { st := .track, sig := 1, sv := 5 }), navUnit (List.replicate 300 false) (some [1]), 0, List.replicate 300 false, [1], by decide +kernel⟩,
    ⟨on (chanIn 7 { st := .track, sv := 5 }), nearUnit, 0, List.replicate 30 false, [1], by decide +kernel⟩,
    ⟨on fun d => chanIn 7 { st := .track, sv := 5 } { d with gns := { d.gns with lnavSeen := [(5, [1])], fs5 := [(0, 5), (1, 5)] } }, nearUnit, 0, List.replicate 30 false, [1], 5, by decide +kernel⟩,
    ⟨on fun d => gnsOn { storeDue := List.replicate 4 true, nav := [⟨1, 4, false, [1], none, 0, 0, false⟩] } { d with key := { d.key with eValid := true, e := 5000 } }, 1, by decide +kernel⟩,
    ⟨on fun d => gnsOn { posDue := some (1, 2, 3, 4) } { d with key := { d.key with eValid := true, e := 5000 } }, (1, 2, 3, 4), by decide +kernel⟩,
    ⟨on (gnsOn { storeDue := List.replicate 4 true }), 1, by decide +kernel⟩,
    ⟨on fun d => setReg (txRec [1, 0, 0, 0] { gnsOn d.gns d with qmg := { d.qmg with aidBound := some 5 } }) GN_RINGS 0x20050000, 5, ⟨0, [1, 0, 0, 0], 0, false, false, 0, 0, none, false⟩, [], by decide +kernel⟩,
    ⟨on fun d => setReg (txRec [9, 0, 0, 0] { gnsOn d.gns d with qmg := { d.qmg with aidBound := some 5 } }) GN_RINGS 0x20050000, 5, ⟨0, [9, 0, 0, 0], 0, false, false, 0, 0, none, false⟩, [], by decide +kernel⟩⟩

theorem witness_TimeSolutions :
  (∃ (s : State) (d : Dev), AtScale s 0 ((epochNext s.dev : Rat) / (nsUnit : Rat)) d ∧ bellEpochNow s.dev = none ∧ calm d = true ∧ gnsRuns d = false) ∧
  (∃ (s : State) (d : Dev), AtScale s 0 ((epochNext s.dev : Rat) / (nsUnit : Rat)) d ∧ bellEpochNow s.dev = none ∧ gnsRuns d = true ∧ bellEpochNow d = none) ∧
  (∃ (s : State) (d : Dev), AtScale s 0 ((epochNext s.dev : Rat) / (nsUnit : Rat)) d ∧ bellEpochNow s.dev = none ∧ gnsRuns d = true ∧ bellEpochNow d = none) ∧
  (∃ (th : Nat) (maxEx : Nat) (minSv : Nat) (bc : List (Nat × Option Int)) (wp : Bool) (fuel : Nat) (l : List Obs) (out : List SatMeas) (f : Fit), traim th maxEx minSv bc wp fuel l out = .inl f ∧ out.length ≤ maxEx) ∧
  (∃ (d : Dev) (k : Nat), k < d.gns.sols.length) ∧
  (∃ (d : Dev) (k : Nat), k < d.gns.sols.length) :=
  ⟨⟨on epochNow, fresh (on epochNow), scale_now rfl (by decide +kernel), by decide +kernel⟩,
    ⟨on fun d => gnsOn { gclkF := true, sols := List.replicate 4 { st := .hold, valid := true } } (epochNow d), fresh (on fun d => gnsOn { gclkF := true, sols := List.replicate 4 { st := .hold, valid := true } } (epochNow d)), scale_now rfl (by decide +kernel), by decide +kernel⟩,
    ⟨on fun d => gnsOn { gclkF := true, sols := List.replicate 4 { st := .noFix } } (epochNow d), fresh (on fun d => gnsOn { gclkF := true, sols := List.replicate 4 { st := .noFix } } (epochNow d)), scale_now rfl (by decide +kernel), by decide +kernel⟩,
    ⟨100000, 2, 3, [], false, 5, fourObs, [], fitOf (traim 100000 2 3 [] false 5 fourObs []), fitted (by decide +kernel), by decide +kernel⟩,
    ⟨base, 2, by decide +kernel⟩,
    ⟨{ base with gns := { base.gns with sols := base.gns.sols.set 2 { st := .hold, valid := true } } }, 2, by decide +kernel⟩⟩

theorem witness_GnssPositionAndInterference :
  (∃ (s : State) (r : Requester), Served s.dev r gnsIndData ∧ calm s.dev = true ∧ keyEn s.dev GN_POS_Z_HI = true ∧ lateForBell s.dev = false ∧ s.dev.staged = []) ∧
  (∃ (s : State) (r : Requester), Served s.dev r gnsIndData ∧ calm s.dev = true ∧ keyEn s.dev GN_POS_Z_HI = false) ∧
  (∃ (s : State) (r : Requester) (b : Nat), Served s.dev r gnsIndData ∧ calm s.dev = true ∧ b ≤ 1 ∧ b < s.dev.gns.learnLeft.length) ∧
  (∃ (s : State) (b : Nat), calm s.dev = true ∧ (bandOn s.dev b = false ∨ 1 < b)) ∧
  (∃ (s : State) (b : Nat) (n : Nat) (l : SpecLine), calm s.dev = true ∧ bandOn s.dev b = true ∧ b ≤ 1 ∧ n < 4 ∧ notchIx b n < s.dev.gns.notches.length ∧ notchMode s.dev b n = 2 ∧ (∀ m, m < 4 → m ≠ n → notchMode s.dev b m ≠ 2) ∧ (notchRaw s.dev b n).engaged = false ∧ notchTh s.dev b n ≤ l.db ∧ lineNotched s.dev b l = false) ∧
  (∃ (s : State) (b : Nat) (n : Nat) (l : SpecLine), calm s.dev = true ∧ bandOn s.dev b = true ∧ b ≤ 1 ∧ n < 4 ∧ notchIx b n < s.dev.gns.notches.length ∧ notchMode s.dev b n = 2 ∧ (∀ m, m < 4 → m ≠ n → notchMode s.dev b m ≠ 2) ∧ (notchRaw s.dev b n).engaged = true ∧ (l.freq - (notchRaw s.dev b n).freq).natAbs ≤ 3200000 ∧ notchTh s.dev b n - 30 ≤ l.db) :=
  ⟨⟨on (gnsOn {}), .cores, served_of (by decide +kernel), by decide +kernel⟩,
    ⟨on id, .cores, served_of (by decide +kernel), by decide +kernel⟩,
    ⟨on (gnsOn {}), .cores, 1, served_of (by decide +kernel), by decide +kernel⟩,
    ⟨on id, 1, by decide +kernel⟩,
    ⟨on fun d => quietNotches (skyOn {} d), 1, 2, ⟨1000, 200⟩, by decide +kernel⟩,
    ⟨on fun d => quietNotches (skyOn { notches := List.replicate 8 { engaged := true, freq := 2000 } } d), 1, 2, ⟨1000, 171⟩, by decide +kernel⟩⟩

theorem witness_PortStates :
  (∃ (s : State) (p : Nat) (v : Nat), calm s.dev = true ∧ p < s.dev.ports.length ∧ p < 6 ∧ (portOf s.dev p).st = .training ∧ portEnabled s.dev p = true ∧ kindOf s.dev (10 + p) ≠ 5 ∧ (portSpeed s.dev p ≠ 6 ∨ (v ≠ 10 ∧ v ≠ 100))) ∧
  (∃ (s : State) (p : Nat), calm s.dev = true ∧ p < s.dev.ports.length ∧ 10 + p < s.dev.refs.length ∧ p < 6 ∧ (portOf s.dev p).st = .training ∧ portEnabled s.dev p = true ∧ kindOf s.dev (10 + p) = 5 ∧ (refOf s.dev (10 + p)).present = false ∧ withinFtol s.dev (10 + p) = true ∧ portSpeed s.dev p ≠ 6) ∧
  (∃ (s : State) (p : Nat) (v : Nat), calm s.dev = true ∧ (portOf s.dev p).st = .training ∧ portEnabled s.dev p = true ∧ portSpeed s.dev p = 6 ∧ (v = 10 ∨ v = 100)) ∧
  (∃ (s : State) (p : Nat), calm s.dev = true ∧ (portOf s.dev p).st ≠ .training) ∧
  (∃ (s : State) (p : Nat), calm s.dev = true ∧ p < s.dev.ports.length ∧ p < 6 ∧ (portOf s.dev p).st = .up ∧ kindOf s.dev (10 + p) ≠ 5 ∧ (∀ q ∈ (portOf s.dev p).queues, q = [])) ∧
  (∃ (s : State) (p : Nat), calm s.dev = true ∧ (portOf s.dev p).st ≠ .up ∧ (portOf s.dev p).st ≠ .training) ∧
  (∃ (s : State) (p : Nat) (c : Nat), calm s.dev = true ∧ ((portOf s.dev p).st = .disabled ∨ (portOf s.dev p).st = .retired ∨ portSource c = none)) ∧
  (∃ (s : State) (p : Nat) (c : Nat), calm s.dev = true ∧ ((portOf s.dev p).st = .disabled ∨ (portOf s.dev p).st = .retired ∨ portSource c = none)) ∧
  (∃ (s : State) (p : Nat) (c : Nat) (code : Nat), calm s.dev = true ∧ p ≤ 5 ∧ p < s.dev.ports.length ∧ c ≤ 3 ∧ portSource c = some code ∧ ((portOf s.dev p).st = .training ∨ (portOf s.dev p).st = .up ∨ (portOf s.dev p).st = .retry) ∧ conseqOf s.dev code p = none ∧ reactionPending s.dev code p = false ∧ (fltChanOf s.dev code p).latched = false ∧ (fltChanOf s.dev code p).grace = none) ∧
  (∃ (s : State) (p : Nat), p ≤ 5 ∧ p < s.dev.ports.length ∧ (portOf s.dev p).st = .up ∧ conseqOf s.dev srcPortStuck p = none ∧ runningPerm s.dev = none ∧ s.dev.flt.waiting = [] ∧ (fltChanOf s.dev srcPortStuck p).grace = none ∧ (policyEntry s.dev srcPortStuck).ladder.testBit 1 = true) ∧
  (∃ (s : State) (p : Nat) (c : FltChan) (t : Tick) (d : Dev), indIdle s.dev ∧ At s (t.toNat + min (2 ^ (c.retryTs.length - 1)) 1024 * ms) d ∧ p < s.dev.ports.length ∧ p < 6 ∧ (portOf s.dev p).st = .retry ∧ s.dev.flt.chans.find? (fun c => c.code / 256 == 13 && c.chan == p && c.backoff) = some c ∧ c.retryTs.head? = some t ∧ calm d = true) ∧
  (∃ (s : State), calm s.dev = true ∧ s.dev.flt.chans = []) :=
  ⟨⟨on (quietPort { st := .training }), 2, 0, by decide +kernel⟩,
    ⟨on fun d => put (refKey REF_CFG 12) 5 (portIn 2 1 [⟨7, 3, 1⟩] { st := .training } d), 2, by decide +kernel⟩,
    ⟨on (portIn 2 1 [⟨7, 0, 6⟩] { st := .training }), 2, 100, by decide +kernel⟩,
    ⟨on (quietPort upPort), 2, by decide +kernel⟩,
    ⟨on (quietPort upPort), 2, by decide +kernel⟩,
    ⟨on id, 2, by decide +kernel⟩,
    ⟨on id, 2, 1, by decide +kernel⟩,
    ⟨on (quietPort upPort), 2, 0, by decide +kernel⟩,
    ⟨on (quietPort { st := .up, queues := [[plainFrame 0 60 0], [], [], [], [], [], [], []] }), 2, 1, srcPortEccU, by decide +kernel⟩,
    ⟨on fun d => policed (quietPort upPort d), 2, by decide +kernel⟩,
    ⟨on fun d => waited (fltIn { chans := [{ code := srcPortEccU, chan := 2, backoff := true, latched := true, retryTs := [7] }] } (quietPort { st := .retry, queues := [[plainFrame 0 60 0], [], [], [], [], [], [], []] } d)), 2, { code := srcPortEccU, chan := 2, backoff := true, latched := true, retryTs := [7] }, 7, fresh (on fun d => waited (fltIn { chans := [{ code := srcPortEccU, chan := 2, backoff := true, latched := true, retryTs := [7] }] } (quietPort { st := .retry, queues := [[plainFrame 0 60 0], [], [], [], [], [], [], []] } d))), rfl, at_now rfl (by decide +kernel), by decide +kernel⟩,
    ⟨on (quietPort upPort), by decide +kernel⟩⟩

theorem witness_Reception :
  (∃ (s : State) (p : Nat), calm s.dev = true ∧ (portOf s.dev p).st ≠ .up) ∧
  (∃ (s : State) (p : Nat) (f : RxFrame), rxErrors s.dev p f = 1 ∧ calm s.dev = true ∧ p < 6 ∧ inService s.dev = true ∧ (portOf s.dev p).st = .up ∧ ringLink s.dev p (if f.bytes.length < 18 then 0 else classOf s.dev p f.bytes) = none) ∧
  (∃ (s : State) (p : Nat), calm s.dev = true ∧ p < 6 ∧ inService s.dev = true ∧ (portOf s.dev p).st = .up) ∧
  (∃ (s : State) (p : Nat) (f : RxFrame), rxErrors s.dev p f = 0 ∧ calm s.dev = true ∧ p < 6 ∧ inService s.dev = true ∧ (portOf s.dev p).st = .up ∧ etherType f.bytes ≠ 0x8808 ∧ f.bytes.length > 64 ∧ isMulticast f.bytes = false ∧ f.bytes.take 6 ≠ macAddr s.dev p ∧ rgb s.dev (macReg p 0x20) 8 = false) ∧
  (∃ (s : State) (p : Nat) (f : RxFrame) (b : List Byte) (q : Nat) (tq : Nat) (x : Desc) (rest : List Desc), rxErrors s.dev p f = 0 ∧ calm s.dev = true ∧ p < 6 ∧ inService s.dev = true ∧ (portOf s.dev p).st = .up ∧ b = f.bytes.take (f.bytes.length - 4) ∧ etherType b ≠ 0x8808 ∧ etherType b ≠ 0x8809 ∧ b.take 6 = macAddr s.dev p ∧ isMulticast b = false ∧ prpPartner s.dev p = none ∧ crierTakes s.dev p b = false ∧ tollgateTakes s.dev p b = false ∧ ringLink s.dev p (classOf s.dev p b) = some (q, tq) ∧ rxEn s.dev q = true ∧ (rxRing s.dev q).stop = false ∧ q < s.dev.qmg.rxq.length ∧ p < s.dev.qmg.portHeld.length ∧ cellsOf b.length ≤ freeCells s.dev ∧ s.dev.qmg.portHeld.getD p 0 + cellsOf b.length ≤ rgf s.dev (QMG_PBUF + 4 * p) 15 0 ∧ (rxRing s.dev q).posted = x :: rest ∧ b.length ≤ x.bufLen / 64 * 64) ∧
  (∃ (s : State) (p : Nat) (f : RxFrame) (b : List Byte), rxErrors s.dev p f = 0 ∧ calm s.dev = true ∧ p < 6 ∧ inService s.dev = true ∧ (portOf s.dev p).st = .up ∧ b = f.bytes.take (f.bytes.length - 4) ∧ etherType b ≠ 0x8808 ∧ (isMulticast b = true ∨ b.take 6 = macAddr s.dev p) ∧ prpPartner s.dev p = none ∧ (crierTakes s.dev p b = true ∨ tollgateTakes s.dev p b = true)) ∧
  (∃ (s : State) (p : Nat) (f : RxFrame) (n : Nat), rxErrors s.dev p f = 0 ∧ calm s.dev = true ∧ p < 6 ∧ p < s.dev.ports.length ∧ inService s.dev = true ∧ (portOf s.dev p).st = .up ∧ f.bytes.length > 64 ∧ etherType (f.bytes.take (f.bytes.length - 4)) = 0x8808 ∧ frameTci (f.bytes.take (f.bytes.length - 4)) = none ∧ rgb s.dev (macReg p 0x30) 4 = true ∧ fcMode s.dev p = 1 ∧ beAt f.bytes 14 2 = 1 ∧ beAt f.bytes 16 2 = n) ∧
  (∃ (s : State) (p : Nat) (t : Tick) (d : Dev), indIdle s.dev ∧ At s t.toNat d ∧ (portOf s.dev p).pauseEnd = some t ∧ calm d = true) ∧
  (∃ (s : State) (p : Nat) (i : Nat) (t : Tick) (d : Dev), indIdle s.dev ∧ At s t.toNat d ∧ (portOf s.dev p).pfcEnd.getD i none = some t ∧ calm d = true) ∧
  (∃ (s : State) (p : Nat) (a : Nat) (q : Nat) (x : PrpEntry) (d : Dev), indIdle s.dev ∧ At s (x.t.toNat + rgf s.dev (macReg (lanA s.dev p) 0x6C) 15 0 * ms) d ∧ (portOf s.dev (lanA s.dev p)).prp.find? (fun e => e.src == a && e.seq == q) = some x ∧ calm d = true) :=
  ⟨⟨on id, 2, by decide +kernel⟩,
    ⟨on (quietPort upPort), 2, badFrame, errors_of_bad _ (by decide +kernel), by decide +kernel⟩,
    ⟨on (portIn 2 1 [⟨7, 0, 1⟩] upPort), 2, by decide +kernel⟩,
    ⟨on (quietPort upPort), 2, rxFrame [2, 0, 0, 0, 0, 9] [8, 0], errors_of_good _ (by decide +kernel), by decide +kernel⟩,
    ⟨on fun d => setReg (setReg (portIn 2 1 [⟨8, 0, 3⟩] upPort { d with qmg := { d.qmg with rxq := d.qmg.rxq.set 3 { posted := [emptyDesc] } } }) (cfgRx 3) 0x80000000) (QMG_PBUF + 8) 100, 2, rxFrame ownMac [8, 0], ownMac ++ [2, 0, 0, 0, 0, 1] ++ [8, 0] ++ List.replicate 86 0, 3, 0, emptyDesc, [], errors_of_good _ (by decide +kernel), by decide +kernel⟩,
    ⟨on fun d => portIn 1 1 [⟨7, 0, 4⟩] upPort (crierOn server 0 0 {} d), 1, rxFrame [0x01, 0x80, 0xC2, 0, 0, 0x0E] [0x88, 0xF7, 0x0D, 2], [0x01, 0x80, 0xC2, 0, 0, 0x0E] ++ [2, 0, 0, 0, 0, 1] ++ [0x88, 0xF7, 0x0D, 2] ++ List.replicate 84 0, errors_of_good _ (by decide +kernel), by decide +kernel⟩,
    ⟨on fun d => setReg (quietPort upPort d) (macReg 2 0x30) 0x11, 2, rxFrame [1, 0x80, 0xC2, 0, 0, 1] [0x88, 8, 0, 1, 0, 9], 9, errors_of_good _ (by decide +kernel), by decide +kernel⟩,
    ⟨on fun d => waited (quietPort { st := .up, pauseEnd := some 5 } d), 2, 5, fresh (on fun d => waited (quietPort { st := .up, pauseEnd := some 5 } d)), rfl, at_now rfl (by decide +kernel), by decide +kernel⟩,
    ⟨on fun d => waited (quietPort { st := .up, pfcEnd := List.replicate 8 (some 5) } d), 2, 3, 5, fresh (on fun d => waited (quietPort { st := .up, pfcEnd := List.replicate 8 (some 5) } d)), rfl, at_now rfl (by decide +kernel), by decide +kernel⟩,
    ⟨on fun d => waited (quietPort { st := .up, prp := [⟨7, 8, 0⟩, ⟨7, 9, 0⟩] } d), 2, 7, 8, ⟨7, 8, 0⟩, fresh (on fun d => waited (quietPort { st := .up, prp := [⟨7, 8, 0⟩, ⟨7, 9, 0⟩] } d)), rfl, at_now rfl (by decide +kernel), by decide +kernel⟩⟩

theorem witness_TransmissionAndGates :
  (∃ (s : State) (p : Nat), p ≤ 5 ∧ ((portOf s.dev p).st ≠ .up ∨ portBusy s.dev p = true ∨ pauseHeld s.dev p = true)) ∧
  (∃ (s : State) (p : Nat), p ≤ 5 ∧ ((portOf s.dev p).st ≠ .up ∨ portBusy s.dev p = true ∨ pauseHeld s.dev p = true)) ∧
  (∃ (s : State) (p : Nat) (tc : Nat) (f : TxFrame) (rest : List TxFrame), calm s.dev = true ∧ p ≤ 5 ∧ p < s.dev.ports.length ∧ (portOf s.dev p).st = .up ∧ inService s.dev = true ∧ portBusy s.dev p = false ∧ pauseHeld s.dev p = false ∧ (portOf s.dev p).fcPend = [] ∧ ([7, 6, 5, 4, 3, 2, 1, 0] : List Nat).find? (eligible s.dev p) = some tc ∧ (portOf s.dev p).queues.getD tc [] = f :: rest ∧ f.src = .plain ∧ f.insert = none ∧ f.track = none) ∧
  (∃ (s : State) (p : Nat) (f : TxFrame) (rest : List TxFrame), calm s.dev = true ∧ p ≤ 5 ∧ p < s.dev.ports.length ∧ (portOf s.dev p).toLaunch = f :: rest ∧ portNow s.dev p ≤ f.launch.getD 0 + 65536 ∧ f.launch.getD 0 ≤ portNow s.dev p + launchHorizon s.dev p * 1000 * 65536 ∧ (portOf s.dev p).launchQ.length < 4096) ∧
  (∃ (s : State) (p : Nat) (f : TxFrame) (rest : List TxFrame), calm s.dev = true ∧ p ≤ 5 ∧ p < s.dev.ports.length ∧ (portOf s.dev p).toLaunch = f :: rest ∧ f.src = .plain ∧ f.launch.getD 0 + 65536 < portNow s.dev p) ∧
  (∃ (l : List TxFrame), l.Pairwise (fun a b => a.launch.getD 0 ≤ b.launch.getD 0)) ∧
  (∃ (s : State) (p : Nat) (f : TxFrame) (rest : List TxFrame) (d : Dev), indIdle s.dev ∧ AtScale s (stampScale s.dev 7 p) ((startOf s.dev p f : Rat) / 65536) d ∧ p ≤ 5 ∧ p < s.dev.ports.length ∧ (portOf s.dev p).launchQ = f :: rest ∧ calm d = true ∧ f.src = .plain ∧ f.insert = none ∧ f.track = none ∧ (portOf d p).st = .up ∧ inService d = true ∧ pauseHeld d p = false ∧ f.cls ∉ heldClasses d p ∧ gateOk d p f.cls f.bytes.length = true ∧ portBusy d p = false ∧ (portNow d p : Int) ≤ startOf d p f + 65536) ∧
  (∃ (s : State) (p : Nat) (f : TxFrame) (rest : List TxFrame) (d : Dev), indIdle s.dev ∧ AtScale s (stampScale s.dev 7 p) ((startOf s.dev p f : Rat) / 65536) d ∧ p ≤ 5 ∧ p < s.dev.ports.length ∧ (portOf s.dev p).launchQ = f :: rest ∧ calm d = true ∧ f.src = .plain ∧ ((portOf d p).st ≠ .up ∨ portBusy d p = true ∨ f.cls ∈ heldClasses d p)) ∧
  (∃ (s : State) (p : Nat) (f : TxFrame) (rest : List TxFrame) (d : Dev), indIdle s.dev ∧ AtScale s (stampScale s.dev 7 p) ((startOf s.dev p f : Rat) / 65536) d ∧ p ≤ 5 ∧ p < s.dev.ports.length ∧ (portOf s.dev p).launchQ = f :: rest ∧ calm d = true ∧ f.src = .plain ∧ ((portOf d p).st ≠ .up ∨ portBusy d p = true ∨ f.cls ∈ heldClasses d p)) ∧
  (∃ (s : State) (p : Nat), calm s.dev = true ∧ (portOf s.dev p).oper.gen = false) ∧
  (∃ (s : State) (p : Nat) (d : Dev), indIdle s.dev ∧ AtScale s (stampScale s.dev 7 p) (scaleNs s.dev (stampScale s.dev 7 p) + (gateNow s.dev p).2.1) d ∧ (portOf s.dev p).oper.gen = true ∧ calm d = true) ∧
  (∃ (d : Dev) (p : Nat) (g : Nat) (h : Nat) (m : Nat) (n : Nat), (portOf d p).oper.gen = true ∧ (portOf d p).oper.len = 2 ∧ (portOf d p).oper.entries = [(g, m), (h, n)] ∧ 0 < m ∧ 0 < n ∧ cycleNs (portOf d p).oper = ((m + n : Nat) : Rat)) ∧
  (∃ (s : State) (p : Nat), calm s.dev = true ∧ p ≤ 5 ∧ s.dev.staged = [] ∧ efb s.dev (macReg p 0x58) 0 = false ∧ cycleNow s.dev p = true ∧ (∀ q ∈ (portOf s.dev p).queues, q = [])) ∧
  (∃ (s : State) (p : Nat) (tc : Nat) (f : TxFrame) (rest : List TxFrame) (w : Rat), (∀ c, c ≠ tc → (portOf s.dev p).queues.getD c [] = []) ∧ calm s.dev = true ∧ p ≤ 5 ∧ p < s.dev.ports.length ∧ s.dev.staged = [] ∧ efb s.dev (macReg p 0x58) 0 = false ∧ cycleNow s.dev p = true ∧ tc < 8 ∧ (portOf s.dev p).queues.getD tc [] = f :: rest ∧ f.src = .plain ∧ rgb s.dev (macReg p 0x28) 8 = true ∧ longestWindow (portOf s.dev p).oper tc = some w ∧ w * 1000 < (wirePs s.dev p f.bytes.length : Rat)) ∧
  (∃ (s : State) (p : Nat) (x : Staged) (b : GateBank), calm s.dev = true ∧ p ≤ 5 ∧ p < s.dev.ports.length ∧ cycleNow s.dev p = true ∧ s.dev.staged = [x] ∧ x.boundary = .gclCycle p ∧ x.words = [(macReg p 0x58, 1)] ∧ ripe s.dev x = true ∧ (portOf s.dev p).captured = some b ∧ (∀ q ∈ (portOf s.dev p).queues, q = [])) ∧
  (∃ (s : State) (r : Requester) (p : Nat), Served s.dev r (macReg p 0x58) ∧ calm s.dev = true ∧ p ≤ 5 ∧ p < s.dev.ports.length ∧ enOf s.dev (macWin p) = false ∧ (portOf s.dev p).captured = none) ∧
  (∃ (s : State) (r : Requester) (p : Nat), Served s.dev r (macReg p 0x58) ∧ calm s.dev = true ∧ p ≤ 5 ∧ p < s.dev.ports.length ∧ enOf s.dev (macWin p) = false ∧ (portOf s.dev p).captured = none) ∧
  (∃ (s : State) (p : Nat) (c : Nat), calm s.dev = true ∧ p ≤ 5 ∧ p < s.dev.ports.length ∧ c ≤ 7 ∧ fcMode s.dev p = 2 ∧ rgb s.dev (macReg p 0x30) 5 = true ∧ (portOf s.dev p).xoff = 0 ∧ c < (portOf s.dev p).fcDue.length ∧ rgf s.dev (macReg p 0x34) 15 0 * 1024 < occupancy s.dev p (some c)) ∧
  (∃ (s : State) (p : Nat) (c : Nat), calm s.dev = true ∧ p ≤ 5 ∧ p < s.dev.ports.length ∧ c ≤ 7 ∧ fcMode s.dev p = 2 ∧ rgb s.dev (macReg p 0x30) 5 = true ∧ (portOf s.dev p).xoff = 2 ^ c ∧ occupancy s.dev p (some c) ≤ rgf s.dev (macReg p 0x34) 15 0 * 1024 ∧ occupancy s.dev p (some c) ≤ rgf s.dev (macReg p 0x34) 31 16 * 1024) ∧
  (∃ (s : State) (p : Nat) (c : Nat) (t : Tick) (d : Dev), indIdle s.dev ∧ At s t.toNat d ∧ p ≤ 5 ∧ p < s.dev.ports.length ∧ c ≤ 7 ∧ (portOf s.dev p).fcDue.getD c none = some t ∧ fcMode s.dev p = 2 ∧ calm d = true ∧ rgb d (macReg p 0x30) 5 = true ∧ (portOf d p).xoff = 2 ^ c ∧ rgf d (macReg p 0x34) 31 16 * 1024 < occupancy d p (some c)) :=
  ⟨⟨on (quietPort { st := .up, busyUntil := some 5 }), 2, by decide +kernel⟩,
    ⟨on id, 2, by decide +kernel⟩,
    ⟨on (quietPort { st := .up, queues := [[plainFrame 0 60 0], [], [plainFrame 2 60 1], [], [], [], [], []] }), 2, 2, plainFrame 2 60 1, [], by decide +kernel⟩,
    ⟨on (quietPort { st := .up, toLaunch := [timedFrame 65536], launchQ := [timedFrame 5, timedFrame 100000] }), 2, timedFrame 65536, [], by decide +kernel⟩,
    ⟨on fun d => quietPort { st := .up, toLaunch := [timedFrame 65536], launchQ := [] } { d with tsc := { d.tsc with o := 10 ^ 9 * 2 ^ 48 } }, 2, timedFrame 65536, [], by decide +kernel⟩,
    ⟨[timedFrame 1, timedFrame 7], by decide +kernel⟩,
    ⟨on (quietPort { st := .up, launchQ := [timedFrame 400000] }), 2, timedFrame 400000, [], fresh (on (quietPort { st := .up, launchQ := [timedFrame 400000] })), rfl, scale_now rfl (by decide +kernel), by decide +kernel⟩,
    ⟨on (quietPort { st := .training, launchQ := [timedFrame 5] }), 2, timedFrame 5, [], fresh (on (quietPort { st := .training, launchQ := [timedFrame 5] })), rfl, scale_now rfl (by decide +kernel), by decide +kernel⟩,
    ⟨on (quietPort { st := .up, busyUntil := some 100, launchQ := [timedFrame 5] }), 2, timedFrame 5, [], fresh (on (quietPort { st := .up, busyUntil := some 100, launchQ := [timedFrame 5] })), rfl, scale_now rfl (by decide +kernel), by decide +kernel⟩,
    ⟨on (quietPort upPort), 2, by decide +kernel⟩,
    ⟨on (quietPort { st := .up, oper := gated }), 2, (reachScale (fresh (on (quietPort { st := .up, oper := gated }))) 0 400000).getD {}, rfl, scale_at (by decide +kernel) (by decide +kernel) (by decide +kernel), by decide +kernel⟩,
    ⟨quietPort { st := .up, oper := gated } base, 2, 1, 254, 400000, 600000, by decide +kernel⟩,
    ⟨on (quietPort { st := .up, oper := gated }), 2, by decide +kernel⟩,
    ⟨on fun d => setReg (quietPort { st := .up, oper := { gated with entries := [(1, 100), (254, 999900)] }, queues := [[plainFrame 0 200 0], [], [], [], [], [], [], []] } d) (macReg 2 0x28) 0x100, 2, 0, plainFrame 0 200 0, [], 100, other_queues (by decide +kernel), by decide +kernel⟩,
    ⟨on fun d => quietPort { st := .up, oper := gated, captured := some {} } { d with t := 5000, staged := [⟨macWin 2, .gclCycle 2, [(macReg 2 0x58, 1)], 0, false, false, none⟩] }, 2, ⟨macWin 2, .gclCycle 2, [(macReg 2 0x58, 1)], 0, false, false, none⟩, {}, by decide +kernel⟩,
    ⟨on fun d => setReg (setReg d (macReg 2 0x50) 1) (macReg 2 0x54) 1000, .cores, 2, served_of (by decide +kernel), by decide +kernel⟩,
    ⟨on fun d => setReg (setReg d (macReg 2 0x50) 100) (macReg 2 0x54) 1, .cores, 2, served_of (by decide +kernel), by decide +kernel⟩,
    ⟨on fun d => pfcOn (occupied 64 (quietPort upPort d)), 2, 3, by decide +kernel⟩,
    ⟨on fun d => pfcOn (occupied 16 (quietPort { st := .up, xoff := 8, fcDue := List.replicate 9 (some 5) } d)), 2, 3, by decide +kernel⟩,
    ⟨on fun d => waited (pfcOn (occupied 64 (quietPort { st := .up, xoff := 8, fcDue := List.replicate 9 (some 5) } d))), 2, 3, 5, fresh (on fun d => waited (pfcOn (occupied 64 (quietPort { st := .up, xoff := 8, fcDue := List.replicate 9 (some 5) } d)))), rfl, at_now rfl (by decide +kernel), by decide +kernel⟩⟩

theorem witness_OffsetsAndDelays :
  (∃ (s : State), calm s.dev = true ∧ s.dev.taken = []) ∧
  (∃ (s : State) (m : Nat) (f : Taken) (x : PtpMsg), Heard s.dev (fun y => y.type == 0 && fromMaster s.dev m y) f x ∧ domAuth s.dev (slotEntry s.dev m) = false ∧ x.twoStep = false ∧ m < s.dev.ptp.slots.length ∧ arrivalSide s.dev m x = sideOf s.dev m) ∧
  (∃ (s : State) (m : Nat) (f : Taken) (x : PtpMsg), Heard s.dev (fun y => y.type == 0 && fromMaster s.dev m y) f x ∧ domAuth s.dev (slotEntry s.dev m) = false ∧ x.twoStep = true ∧ m < s.dev.ptp.slots.length) ∧
  (∃ (s : State) (m : Nat) (f : Taken) (x : PtpMsg), Heard s.dev (fun y => y.type == 0 && fromMaster s.dev m y) f x ∧ domAuth s.dev (slotEntry s.dev m) = false ∧ x.twoStep = false ∧ m < s.dev.ptp.slots.length ∧ arrivalSide s.dev m x ≠ sideOf s.dev m) ∧
  (∃ (s : State), calm s.dev = true ∧ s.dev.taken = []) ∧
  (∃ (s : State) (m : Nat) (f : Taken) (x : PtpMsg) (t2 : Int) (c : Int) (i : Int), Heard s.dev (fun y => y.type == 8 && fromMaster s.dev m y) f x ∧ domAuth s.dev (slotEntry s.dev m) = false ∧ m < s.dev.ptp.slots.length ∧ (trackSlot s.dev m).pend = some (x.seq, t2, c, sideOf s.dev m, i)) ∧
  (∃ (s : State) (m : Nat) (f : Taken) (x : PtpMsg) (t2 : Int) (c : Int) (side : Nat) (i : Int), Heard s.dev (fun y => y.type == 8 && fromMaster s.dev m y) f x ∧ domAuth s.dev (slotEntry s.dev m) = false ∧ m < s.dev.ptp.slots.length ∧ (trackSlot s.dev m).pend = some (x.seq, t2, c, side, i) ∧ side ≠ sideOf s.dev m) ∧
  (∃ (s : State) (m : Nat) (f : Taken) (x : PtpMsg) (t3 : Int) (v : Int) (side : Nat) (di : Int), Heard s.dev (fun y => y.type == 9 && fromMaster s.dev m y && (!domP2p s.dev (slotEntry s.dev m) && forPort s.dev m y)) f x ∧ domAuth s.dev (slotEntry s.dev m) = false ∧ m < s.dev.ptp.slots.length ∧ (trackSlot s.dev m).req = some (x.seq, t3, side) ∧ (trackSlot s.dev m).last = some (v, side) ∧ 2 * di = v + (x.time - t3 - x.corr)) ∧
  (∃ (s : State) (m : Nat) (f : Taken) (x : PtpMsg) (t3 : Int) (v : Int) (side : Nat) (side' : Nat), Heard s.dev (fun y => y.type == 9 && fromMaster s.dev m y && (!domP2p s.dev (slotEntry s.dev m) && forPort s.dev m y)) f x ∧ domAuth s.dev (slotEntry s.dev m) = false ∧ m < s.dev.ptp.slots.length ∧ (trackSlot s.dev m).req = some (x.seq, t3, side) ∧ (trackSlot s.dev m).last = some (v, side') ∧ side' ≠ side) ∧
  (∃ (s : State) (p : Nat) (m : Nat) (f : Taken) (x : PtpMsg) (q : Nat) (t1 : Int) (side : Nat) (di : Int), s.dev.taken = [f] ∧ msgOf f = some x ∧ forPort s.dev m x = true ∧ p ≤ 5 ∧ p2pSlot s.dev p = some m ∧ domAuth s.dev (slotEntry s.dev m) = false ∧ p < s.dev.ptp.pds.length ∧ p < s.dev.ptp.pdReq.length ∧ s.dev.ptp.pdReq.getD p none = some (q, t1, side) ∧ f.ptp = true ∧ x.type = 3 ∧ x.twoStep = false ∧ ofEntry s.dev (slotEntry s.dev m) x = true ∧ x.seq = q ∧ f.sides.getD (portIx s.dev p) 0 = side ∧ 2 * di = (f.stamp : Int) - t1 - x.corr) ∧
  (∃ (s : State) (p : Nat), calm s.dev = true ∧ s.dev.ptp.pdReq.getD p none = none) :=
  ⟨⟨on id, by decide +kernel⟩,
    ⟨on (slave 0 { ds := [(4, true)], mpd := 4 } (syncOf 0)), 2, syncOf 0, msgAt (syncOf 0) 14, heard_of (by decide +kernel), by decide +kernel⟩,
    ⟨on (slave 0 {} (syncOf 2)), 2, syncOf 2, msgAt (syncOf 2) 14, heard_of (by decide +kernel), by decide +kernel⟩,
    ⟨on fun d => slave 0 {} (syncOf 0) { d with ptp := { d.ptp with stepCnt := [1, 0, 0] } }, 2, syncOf 0, msgAt (syncOf 0) 14, heard_of (by decide +kernel), by decide +kernel⟩,
    ⟨on id, by decide +kernel⟩,
    ⟨on (slave 0 { pend := some (4, 99, 3, 0, 8) } followUpOf), 2, followUpOf, msgAt followUpOf 14, 99, 3, 8, heard_of (by decide +kernel), by decide +kernel⟩,
    ⟨on (slave 0 { pend := some (4, 99, 3, 1, 8) } followUpOf), 2, followUpOf, msgAt followUpOf 14, 99, 3, 1, 8, heard_of (by decide +kernel), by decide +kernel⟩,
    ⟨on (slave 0 { req := some (4, 10, 0), last := some (20, 0) } delayRespOf), 2, delayRespOf, msgAt delayRespOf 14, 10, 20, 0, 2523141, heard_one rfl rfl rfl (all_true (by decide +kernel) (by decide +kernel) (by decide +kernel) (beq_self_eq_true (portId 1))), by decide +kernel⟩,
    ⟨on (slave 0 { req := some (4, 10, 0), last := some (20, 1) } delayRespOf), 2, delayRespOf, msgAt delayRespOf 14, 10, 20, 0, 1, heard_one rfl rfl rfl (all_true (by decide +kernel) (by decide +kernel) (by decide +kernel) (beq_self_eq_true (portId 1))), by decide +kernel⟩,
    ⟨on fun d => pdSent (slave 4 {} pdelayRespOf d), 1, 2, pdelayRespOf, msgAt pdelayRespOf 14, 4, 10, 0, 499999995, rfl, rfl, beq_self_eq_true (portId 1), by decide +kernel⟩,
    ⟨on id, 1, by decide +kernel⟩⟩

theorem witness_SlotsFollowTheirMaster :
  (∃ (s : State) (m : Nat) (f : Taken) (x : PtpMsg), Heard s.dev (fun y => y.type == 11 && fromMaster s.dev m y) f x ∧ slotFixed s.dev m = true ∧ domAuth s.dev (slotEntry s.dev m) = false ∧ m < s.dev.ptp.slots.length) ∧
  (∃ (s : State) (m : Nat) (f : Taken) (x : PtpMsg) (st : Nat), Heard s.dev (fun y => y.type == 11 && (slotRuns s.dev m && ofEntry s.dev (slotEntry s.dev m) y)) f x ∧ slotFixed s.dev m = false ∧ slotRuns s.dev m = true ∧ domAuth s.dev (slotEntry s.dev m) = false ∧ m < s.dev.ptp.slots.length ∧ slotEntry s.dev m < s.dev.ptp.entries.length ∧ (domEntry s.dev (slotEntry s.dev m)).role = 3 ∧ st ≤ 9) ∧
  (∃ (s : State), calm s.dev = true ∧ s.dev.taken = []) ∧
  (∃ (s : State) (m : Nat) (d : Dev), indIdle s.dev ∧ At s ((trackSlot s.dev m).annT.toNat + eff s.dev (domKey PT_DPRI (slotEntry s.dev m)) 31 24 * logTicks (trackSlot s.dev m).annLog) d ∧ m < s.dev.ptp.slots.length ∧ 16 + m < s.dev.refs.length ∧ (trackSlot s.dev m).annOk = true ∧ slotRuns d m = true) ∧
  (∃ (s : State) (m : Nat) (d : Dev), indIdle s.dev ∧ At s ((trackSlot s.dev m).syncT.toNat + 3 * logTicks (trackSlot s.dev m).syncLog) d ∧ m < s.dev.ptp.slots.length ∧ 16 + m < s.dev.refs.length ∧ (trackSlot s.dev m).syncOk = true ∧ slotRuns d m = true) ∧
  (∃ (s : State) (m : Nat) (f : Taken) (x : PtpMsg) (tlv : List Byte), Signalled s.dev (fun y => slotUni s.dev m && fromMaster s.dev m y) 5 f x [tlv] ∧ domAuth s.dev (slotEntry s.dev m) = false ∧ m < s.dev.ptp.slots.length ∧ beAt tlv 2 4 ≠ 0) ∧
  (∃ (s : State) (m : Nat) (f : Taken) (x : PtpMsg) (tlv : List Byte), Signalled s.dev (fun y => slotUni s.dev m && fromMaster s.dev m y) 5 f x [tlv] ∧ domAuth s.dev (slotEntry s.dev m) = false ∧ m < s.dev.ptp.slots.length ∧ beAt tlv 2 4 = 0) ∧
  (∃ (s : State) (m : Nat) (d : Dev), indIdle s.dev ∧ At s (match (trackSlot s.dev m).reqT with | some t => t.toNat + logTicks (trackSlot s.dev m).reqLog | none => s.dev.t.toNat) d ∧ slotRuns s.dev m = true ∧ m < s.dev.ptp.slots.length ∧ domP2p s.dev (slotEntry s.dev m) = false ∧ domAuth s.dev (slotEntry s.dev m) = false ∧ slotRuns d m = true) ∧
  (∃ (s : State) (m : Nat), calm s.dev = true ∧ slotRuns s.dev m = false) ∧
  (∃ (s : State) (m : Nat) (t : Nat), calm s.dev = true ∧ slotGrant s.dev m t = none) ∧
  (∃ (s : State) (m : Nat) (t : Nat) (g : SlotGrant) (d : Dev), indIdle s.dev ∧ At s (g.t.toNat + g.dur * 500000000) d ∧ m < s.dev.ptp.slots.length ∧ slotGrant s.dev m t = some g ∧ g.asked = false) :=
  ⟨⟨on (fixedSlave {} announceOf), 2, announceOf, msgAt announceOf 14, heard_of (by decide +kernel), by decide +kernel⟩,
    ⟨on fun d => heard [announceOf] (crierOn { client with role := 3 } 0 0x80000003 { syncOk := true, ds := [(4, true)] } d), 2, announceOf, msgAt announceOf 14, 9, heard_of (by decide +kernel), by decide +kernel⟩,
    ⟨on id, by decide +kernel⟩,
    ⟨on fun d => waited (refIn 18 { present := true } (crierOn client 0 0x80000003 { valid := true, annOk := true, syncOk := true, dlyOk := true } d)), 2, fresh (on fun d => waited (refIn 18 { present := true } (crierOn client 0 0x80000003 { valid := true, annOk := true, syncOk := true, dlyOk := true } d))), rfl, at_now rfl (by decide +kernel), by decide +kernel⟩,
    ⟨on fun d => waited (refIn 18 { present := true } (crierOn client 0 0x80000003 { valid := true, annOk := true, syncOk := true, dlyOk := true } d)), 2, fresh (on fun d => waited (refIn 18 { present := true } (crierOn client 0 0x80000003 { valid := true, annOk := true, syncOk := true, dlyOk := true } d))), rfl, at_now rfl (by decide +kernel), by decide +kernel⟩,
    ⟨on (fixedSlave { grants := [syncGrant] } (signalOf 5 [0, 1, 0, 0, 1, 0, 0, 0])), 2, signalOf 5 [0, 1, 0, 0, 1, 0, 0, 0], msgAt (signalOf 5 [0, 1, 0, 0, 1, 0, 0, 0]) 14, [0, 1, 0, 0, 1, 0, 0, 0], signalled_of (by decide +kernel), by decide +kernel⟩,
    ⟨on (fixedSlave { grants := [syncGrant] } (signalOf 5 [0, 1, 0, 0, 0, 0, 0, 0])), 2, signalOf 5 [0, 1, 0, 0, 0, 0, 0, 0], msgAt (signalOf 5 [0, 1, 0, 0, 0, 0, 0, 0]) 14, [0, 1, 0, 0, 0, 0, 0, 0], signalled_of (by decide +kernel), by decide +kernel⟩,
    ⟨on fun d => portIn 1 1 [⟨7, 0, 4⟩] upPort (crierOn client 0 0x80000003 { reqSeq := 65535 } d), 2, fresh (on fun d => portIn 1 1 [⟨7, 0, 4⟩] upPort (crierOn client 0 0x80000003 { reqSeq := 65535 } d)), rfl, at_now rfl (by decide +kernel), by decide +kernel⟩,
    ⟨on id, 2, by decide +kernel⟩,
    ⟨on id, 2, 9, by decide +kernel⟩,
    ⟨on fun d => waited { d with t := 0, ptp := { d.ptp with slots := d.ptp.slots.set 2 { grants := [{ syncGrant with dur := 100 }] } } }, 2, 0, { syncGrant with dur := 100 }, fresh (on fun d => waited { d with t := 0, ptp := { d.ptp with slots := d.ptp.slots.set 2 { grants := [{ syncGrant with dur := 100 }] } } }), rfl, at_now rfl (by decide +kernel), by decide +kernel⟩⟩

theorem witness_ServingAndGrants :
  (∃ (s : State) (p : Nat) (f : Taken) (x : PtpMsg) (e : Nat), calm s.dev = true ∧ ptpRuns s.dev = true ∧ s.dev.taken = [f] ∧ f.ptp = true ∧ msgOf f = some x ∧ x.port = p ∧ x.type = 1 ∧ Machine.entryOf s.dev x = some e ∧ domAuth s.dev e = false ∧ (domEntry s.dev e).portState ≠ 6) ∧
  (∃ (s : State) (p : Nat) (f : Taken) (x : PtpMsg) (e : Nat), calm s.dev = true ∧ ptpRuns s.dev = true ∧ s.dev.taken = [f] ∧ f.ptp = true ∧ msgOf f = some x ∧ x.port = p ∧ x.type = 1 ∧ Machine.entryOf s.dev x = some e ∧ domAuth s.dev e = false ∧ (domEntry s.dev e).portState = 6 ∧ domUni s.dev e = false ∧ (domEntry s.dev e).port = p ∧ portUp s.dev p = true ∧ muted s.dev = false ∧ prpPartner s.dev p = none ∧ p < s.dev.ports.length ∧ rgf s.dev (macReg p 0x28) 2 0 < (portOf s.dev p).queues.length) ∧
  (∃ (s : State), calm s.dev = true ∧ s.dev.taken = []) ∧
  (∃ (s : State) (p : Nat) (f : Taken) (x : PtpMsg) (e : Nat), calm s.dev = true ∧ ptpRuns s.dev = true ∧ s.dev.taken = [f] ∧ f.ptp = true ∧ msgOf f = some x ∧ x.port = p ∧ x.type = 2 ∧ Machine.entryOf s.dev x = some e ∧ domAuth s.dev e = false ∧ domP2p s.dev e = false) ∧
  (∃ (s : State) (p : Nat) (f : Taken) (x : PtpMsg) (e : Nat), calm s.dev = true ∧ ptpRuns s.dev = true ∧ s.dev.taken = [f] ∧ f.ptp = true ∧ msgOf f = some x ∧ x.port = p ∧ x.type = 2 ∧ Machine.entryOf s.dev x = some e ∧ domAuth s.dev e = false ∧ domP2p s.dev e = true ∧ (domEntry s.dev e).port = p ∧ portUp s.dev p = true ∧ muted s.dev = false ∧ prpPartner s.dev p = none ∧ p < s.dev.ports.length ∧ rgf s.dev (macReg p 0x28) 2 0 < (portOf s.dev p).queues.length) ∧
  (∃ (s : State) (p : Nat) (f : Taken) (x : PtpMsg) (e : Nat) (tlv : List Byte), Signalled s.dev (fun y => y.port == p && (Machine.entryOf s.dev y).isSome) 4 f x [tlv] ∧ calm s.dev = true ∧ ptpRuns s.dev = true ∧ Machine.entryOf s.dev x = some e ∧ domAuth s.dev e = false ∧ holdsFloor s.dev = false) ∧
  (∃ (s : State) (p : Nat) (f : Taken) (x : PtpMsg) (e : Nat) (tlv : List Byte) (g : Grant), Signalled s.dev (fun y => y.port == p && (Machine.entryOf s.dev y).isSome) 4 f x [tlv] ∧ ptpRuns s.dev = true ∧ Machine.entryOf s.dev x = some e ∧ domAuth s.dev e = false ∧ holdsFloor s.dev = true ∧ grantOf s.dev e (beAt tlv 0 1 / 16) x.src = some g ∧ grantBar s.dev e (beAt tlv 0 1 / 16) (grantLog (domEntry s.dev e).profile (beAt tlv 0 1 / 16) (sext 8 (beAt tlv 1 1))) (some g) = none) ∧
  (∃ (s : State) (p : Nat) (f : Taken) (x : PtpMsg) (e : Nat) (tlv : List Byte), Signalled s.dev (fun y => y.port == p && (Machine.entryOf s.dev y).isSome) 4 f x [tlv] ∧ ptpRuns s.dev = true ∧ Machine.entryOf s.dev x = some e ∧ domAuth s.dev e = false ∧ holdsFloor s.dev = true ∧ grantOf s.dev e (beAt tlv 0 1 / 16) x.src = none ∧ s.dev.ptp.grants.length < 65536 ∧ grantBar s.dev e (beAt tlv 0 1 / 16) (grantLog (domEntry s.dev e).profile (beAt tlv 0 1 / 16) (sext 8 (beAt tlv 1 1))) none = none) ∧
  (∃ (s : State) (p : Nat) (f : Taken) (x : PtpMsg) (e : Nat) (tlv : List Byte) (g : Grant), Signalled s.dev (fun y => y.port == p && (Machine.entryOf s.dev y).isSome) 6 f x [tlv] ∧ ptpRuns s.dev = true ∧ Machine.entryOf s.dev x = some e ∧ domAuth s.dev e = false ∧ holdsFloor s.dev = true ∧ grantOf s.dev e (beAt tlv 0 1 / 16) x.src = some g) ∧
  (∃ (s : State) (p : Nat) (f : Taken) (x : PtpMsg), calm s.dev = true ∧ ptpRuns s.dev = true ∧ s.dev.taken = [f] ∧ f.ptp = true ∧ msgOf f = some x ∧ x.port = p ∧ x.type = 13 ∧ rgb s.dev PT_EVRING 31 = true ∧ rxEn s.dev (rgf s.dev PT_EVRING 5 0) = false) ∧
  (∃ (s : State) (e : Nat) (t : Nat), calm s.dev = true ∧ streamOf s.dev e none t = none) ∧
  (∃ (s : State) (e : Nat) (x : Stream) (d : Dev), indIdle s.dev ∧ AtScale s (stampScale s.dev 7 x.port) ((instantAt x (nextK s.dev x) : Rat) / 65536) d ∧ streamOf s.dev e none 0 = some x ∧ e < s.dev.ptp.entries.length ∧ streamOf d e none 0 = some x) ∧
  (∃ (x : Stream), 0 < periodOf x.log) ∧
  (∃ (s : State) (r : Requester), Served s.dev r PT_GRD_SEL ∧ calm s.dev = true) ∧
  (∃ (s : State) (r : Requester), Served s.dev r PT_GRD_SEL ∧ calm s.dev = true) ∧
  (∃ (s : State) (r : Requester) (v : Word), Served s.dev r PT_CALCMD ∧ calm s.dev = true ∧ bit v 8 = true ∧ bits v 2 0 ≤ 5 ∧ s.dev.ptp.storing = none ∧ energyFor s.dev calNeed = true) ∧
  (∃ (s : State) (p : Nat) (b : List Byte), calm s.dev = true ∧ s.dev.ptp.storing = some (p, b) ∧ p < s.dev.ptp.cals.length) ∧
  (∃ (s : State) (p : Nat) (b : List Byte), calm s.dev = true ∧ s.dev.ptp.storing = some (p, b)) :=
  ⟨⟨on (serving { server with portState := 9 } 0 [ptpFrame 1 0 4 (zeros 10)]), 1, ptpFrame 1 0 4 (zeros 10), msgAt (ptpFrame 1 0 4 (zeros 10)) 14, 3, by decide +kernel⟩,
    ⟨on (serving server 0 [ptpFrame 1 0 4 (zeros 10)]), 1, ptpFrame 1 0 4 (zeros 10), msgAt (ptpFrame 1 0 4 (zeros 10)) 14, 3, by decide +kernel⟩,
    ⟨on id, by decide +kernel⟩,
    ⟨on (serving server 0 [ptpFrame 2 0 4 (zeros 20)]), 1, ptpFrame 2 0 4 (zeros 20), msgAt (ptpFrame 2 0 4 (zeros 20)) 14, 3, by decide +kernel⟩,
    ⟨on (serving server 4 [ptpFrame 2 0 4 (zeros 20)]), 1, ptpFrame 2 0 4 (zeros 20), msgAt (ptpFrame 2 0 4 (zeros 20)) 14, 3, by decide +kernel⟩,
    ⟨on fun d => inMode .standby (serving server 8 [signalOf 4 [0, 1, 0, 0, 1, 0]] d), 1, signalOf 4 [0, 1, 0, 0, 1, 0], msgAt (signalOf 4 [0, 1, 0, 0, 1, 0]) 14, 3, [0, 1, 0, 0, 1, 0], signalled_of (by decide +kernel), by decide +kernel⟩,
    ⟨on fun d => withGrants [grantIn 2, { grantIn 7 with pid := [] }] (serving server 8 [signalOf 4 [0, 1, 0, 0, 1, 0]] d), 1, signalOf 4 [0, 1, 0, 0, 1, 0], msgAt (signalOf 4 [0, 1, 0, 0, 1, 0]) 14, 3, [0, 1, 0, 0, 1, 0], grantIn 2, signalled_of (by decide +kernel), by decide +kernel⟩,
    ⟨on fun d => withGrants [{ grantIn 2 with mtype := 11 }] (serving server 8 [signalOf 4 [0, 1, 0, 0, 1, 0]] d), 1, signalOf 4 [0, 1, 0, 0, 1, 0], msgAt (signalOf 4 [0, 1, 0, 0, 1, 0]) 14, 3, [0, 1, 0, 0, 1, 0], signalled_of (by decide +kernel), by decide +kernel⟩,
    ⟨on fun d => withGrants [grantIn 7] (serving server 8 [signalOf 6 [0, 0]] d), 1, signalOf 6 [0, 0], msgAt (signalOf 6 [0, 0]) 14, 3, [0, 0], grantIn 7, signalled_of (by decide +kernel), by decide +kernel⟩,
    ⟨on fun d => setReg (serving server 0 [ptpFrame 13 0 4 (zeros 14)] d) PT_EVRING 0x80000000, 1, ptpFrame 13 0 4 (zeros 14), msgAt (ptpFrame 13 0 4 (zeros 14)) 14, by decide +kernel⟩,
    ⟨on id, 3, 0, by decide +kernel⟩,
    ⟨on (serving server 0 []), 3, ⟨3, 1, 0, 0, 0, -1, 0, none, none⟩, fresh (on (serving server 0 [])), rfl, scale_now rfl (by decide +kernel), by decide +kernel⟩,
    ⟨⟨3, 1, 0, 0, 0, -1, 0, none, none⟩, by decide +kernel⟩,
    ⟨on (withGrants [grantIn 7]), .cores, served_of (by decide +kernel), by decide +kernel⟩,
    ⟨on (withGrants [grantIn 7]), .cores, served_of (by decide +kernel), by decide +kernel⟩,
    ⟨on fun d => { d with key := { d.key with eValid := true, e := 5000 } }, .cores, 0x105, served_of (by decide +kernel), by decide +kernel⟩,
    ⟨on fun d => { d with ptp := { d.ptp with storing := some (5, [1, 2, 3]) } }, 5, [1, 2, 3], by decide +kernel⟩,
    ⟨on fun d => { d with ptp := { d.ptp with storing := some (5, [1, 2, 3]) } }, 5, [1, 2, 3], by decide +kernel⟩⟩

theorem witness_TollgateRequests :
  (∃ (s : State), calm s.dev = true ∧ s.dev.taken = []) ∧
  (∃ (s : State) (p : Nat) (f : Taken), calm s.dev = true ∧ s.dev.taken = [f] ∧ f.ptp = false ∧ f.port = p ∧ (udpOf f.bytes).isSome = true ∧ s.dev.tol.queue.length < 16384) ∧
  (∃ (s : State) (p : Nat) (f : Taken), calm s.dev = true ∧ s.dev.taken = [f] ∧ f.ptp = false ∧ f.port = p ∧ (udpOf f.bytes).isSome = true ∧ 16384 ≤ s.dev.tol.queue.length) ∧
  (∃ (s : State) (r : TolReq) (rest : List TolReq), calm s.dev = true ∧ s.dev.tol.queue = r :: rest ∧ r.nts = false ∧ tolRuns s.dev = true ∧ max 1 (rgf s.dev TOL_QMAX 9 0) * us < s.dev.t.toNat - r.rxT.toNat) ∧
  (∃ (s : State) (r : TolReq) (rest : List TolReq), calm s.dev = true ∧ s.dev.tol.queue = r :: rest ∧ r.nts = false ∧ tolRuns s.dev = true ∧ s.dev.t.toNat - r.rxT.toNat ≤ max 1 (rgf s.dev TOL_QMAX 9 0) * us ∧ portUp s.dev r.port = false) ∧
  (∃ (s : State) (r : TolReq) (rest : List TolReq), calm s.dev = true ∧ s.dev.tol.queue = r :: rest ∧ r.nts = false ∧ r.rstr = false ∧ tolRuns s.dev = true ∧ s.dev.t.toNat - r.rxT.toNat ≤ max 1 (rgf s.dev TOL_QMAX 9 0) * us ∧ portUp s.dev r.port = true ∧ muted s.dev = false ∧ prpPartner s.dev r.port = none ∧ r.port < s.dev.ports.length ∧ rgf s.dev (macReg r.port 0x28) 2 0 < (portOf s.dev r.port).queues.length) ∧
  (∃ (s : State) (r : TolReq) (rest : List TolReq) (c : Nat), calm s.dev = true ∧ s.dev.tol.queue = r :: rest ∧ r.nts = true ∧ tolRuns s.dev = true ∧ s.dev.t.toNat - r.rxT.toNat ≤ max 1 (rgf s.dev TOL_QMAX 9 0) * us ∧ portUp s.dev r.port = true ∧ muted s.dev = false ∧ prpPartner s.dev r.port = none ∧ r.port < s.dev.ports.length ∧ rgf s.dev (macReg r.port 0x28) 2 0 < (portOf s.dev r.port).queues.length ∧ (ntsCheck s.dev r.payload).getLeft? = some c) ∧
  (∃ (s : State) (r : TolReq) (rest : List TolReq), calm s.dev = true ∧ s.dev.tol.queue = r :: rest ∧ r.nts = true) ∧
  (∃ (s : State) (r : TolReq) (rest : List TolReq), calm s.dev = true ∧ s.dev.tol.queue = r :: rest ∧ r.nts = false) :=
  ⟨⟨on id, by decide +kernel⟩,
    ⟨on fun d => heard [ntpFrame] (tollgate [] upPort d), 1, ntpFrame, by decide +kernel⟩,
    ⟨on fun d => heard [ntpFrame] (tollgate (List.replicate 16384 (tolReq false)) upPort d), 1, ntpFrame, by decide +kernel⟩,
    ⟨on fun d => tollgate [tolReq false] upPort { d with t := 10 ^ 12 }, tolReq false, [], by decide +kernel⟩,
    ⟨on (tollgate [tolReq false] { st := .training }), tolReq false, [], by decide +kernel⟩,
    ⟨on (tollgate [tolReq false] upPort), tolReq false, [], by decide +kernel⟩,
    ⟨on (tollgate [tolReq true] upPort), tolReq true, [], 0, by decide +kernel⟩,
    ⟨on (tollgate [tolReq true] upPort), tolReq true, [], by decide +kernel⟩,
    ⟨on (tollgate [tolReq false] upPort), tolReq false, [], by decide +kernel⟩⟩

theorem witness_EpochsAndMint :
  (∃ (s : State) (r : Requester), Served s.dev r TOL_CMD ∧ calm s.dev = true ∧ s.dev.gen.mode ≠ .standby ∧ lateForBell s.dev = false) ∧
  (∃ (s : State) (r : Requester), Served s.dev r TOL_CMD ∧ calm s.dev = true ∧ s.dev.gen.mode = .standby) ∧
  (∃ (s : State) (k : List Byte), calm s.dev = true ∧ tolRuns s.dev = true ∧ tolRoot s.dev = some k ∧ s.dev.tol.ready = true) ∧
  (∃ (s : State) (k : List Byte), calm s.dev = true ∧ inService s.dev = true ∧ enOf s.dev baseTol = true ∧ tolRoot s.dev = some k) ∧
  (∃ (s : State) (w : WorkKey), calm s.dev = true ∧ s.dev.key.tolNext = some w ∧ w.orph = false) ∧
  (∃ (s : State) (q : Nat) (x : Desc) (rest : List Desc), calm s.dev = true ∧ mintRing s.dev = some q ∧ tolRuns s.dev = true ∧ txEn s.dev q = true ∧ (txRing s.dev q).stop = false ∧ q < s.dev.qmg.txq.length ∧ (txRing s.dev q).posted = x :: rest ∧ tolRoot s.dev = none) ∧
  (∃ (s : State) (q : Nat) (x : Desc) (rest : List Desc) (k : List Byte), calm s.dev = true ∧ mintRing s.dev = some q ∧ tolRuns s.dev = true ∧ txEn s.dev q = true ∧ (txRing s.dev q).stop = false ∧ q < s.dev.qmg.txq.length ∧ (txRing s.dev q).posted = x :: rest ∧ tolRoot s.dev = some k ∧ s.dev.tol.ready = true ∧ leAt (padTo 96 x.bytes) 9 2 = 15 ∧ 1 ≤ leAt (padTo 96 x.bytes) 8 1 ∧ leAt (padTo 96 x.bytes) 8 1 ≤ 8) ∧
  (∃ (d : Dev) (k : List Byte), tolRoot d = some k ∧ d.tol.ready = true) ∧
  (∃ (i : Nat), i < 4) :=
  ⟨⟨on fun d => tolOn d.tol d, .cores, served_of (by decide +kernel), by decide +kernel⟩,
    ⟨on fun d => inMode .standby (tolOn d.tol d), .cores, served_of (by decide +kernel), by decide +kernel⟩,
    ⟨on fun d => withWork (tolOn { d.tol with ready := true } d), [1, 2, 3], by decide +kernel⟩,
    ⟨on fun d => withWork (tolOn d.tol d), [1, 2, 3], by decide +kernel⟩,
    ⟨on fun d => { d with key := { d.key with tolNext := some rootKey } }, rootKey, by decide +kernel⟩,
    ⟨on (minting mintRec false), 5, ⟨0, mintRec, 0, false, false, 0, 0, none, false⟩, [], by decide +kernel⟩,
    ⟨on fun d => withWork (minting mintRec true d), 5, ⟨0, mintRec, 0, false, false, 0, 0, none, false⟩, [], [1, 2, 3], by decide +kernel⟩,
    ⟨withWork (tolOn { base.tol with ready := true } base), [1, 2, 3], by decide +kernel⟩,
    ⟨3, by decide +kernel⟩⟩

theorem witness_Rings :
  (∃ (s : State) (q : Nat) (v : Word) (posts : List Post), calm s.dev = true ∧ q ≤ 63 ∧ q < s.dev.qmg.rxq.length ∧ pcieServed s.dev = true ∧ ringOn s.dev true q = true ∧ bit v 30 = false ∧ (bits v 15 0 + 65536 - (rxRing s.dev q).tail % 65536) % 65536 = posts.length ∧ posts.length ≤ ringSize s.dev true q - (rxRing s.dev q).inflight) ∧
  (∃ (s : State) (rx : Bool) (q : Nat) (v : Word), calm s.dev = true ∧ q ≤ 63 ∧ pcieServed s.dev = true ∧ ringOn s.dev rx q = true ∧ bit v 30 = false ∧ ringSize s.dev rx q - (ringAt s.dev rx q).inflight < (bits v 15 0 + 65536 - (ringAt s.dev rx q).tail % 65536) % 65536) ∧
  (∃ (s : State) (rx : Bool) (q : Nat), calm s.dev = true ∧ q ≤ 63 ∧ pcieServed s.dev = true ∧ ringOn s.dev rx q = false) ∧
  (∃ (s : State) (q : Nat) (x : Done) (rest : List Done), calm s.dev = true ∧ q ≤ 63 ∧ q < s.dev.qmg.rxq.length ∧ ringOn s.dev true q = true ∧ (rxRing s.dev q).filled = x :: rest) ∧
  (∃ (s : State) (rx : Bool) (q : Nat), calm s.dev = true ∧ (ringAt s.dev rx q).filled = []) ∧
  (∃ (s : State) (q : Nat) (t : Tick) (d : Dev), indIdle s.dev ∧ At s (t.toNat + rgf s.dev (ringKey true q + 4) 15 0 * us) d ∧ q ≤ 63 ∧ q < s.dev.qmg.rxq.length ∧ (rxRing s.dev q).armed = true ∧ rgf s.dev (ringKey true q + 4) 15 0 ≠ 0 ∧ (rxRing s.dev q).firstT = some t ∧ calm d = true) ∧
  (∃ (s : State) (rx : Bool) (q : Nat), calm s.dev = true ∧ (ringAt s.dev rx q).armed = false) ∧
  (∃ (s : State) (r : Requester) (q : Nat), Served s.dev r (cfgRx q) ∧ calm s.dev = true ∧ q ≤ 63 ∧ q < s.dev.qmg.rxq.length ∧ ringOn s.dev true q = false) ∧
  (∃ (s : State) (rx : Bool) (q : Nat) (x : Desc) (rest : List Desc), calm s.dev = true ∧ q ≤ 63 ∧ q < s.dev.qmg.rxq.length ∧ q < s.dev.qmg.txq.length ∧ ringOn s.dev rx q = true ∧ (ringAt s.dev rx q).stop = false ∧ (ringAt s.dev rx q).posted = x :: rest) :=
  ⟨⟨on (rxOn 3 { tail := 65535, posted := [emptyDesc] }), 3, 0x80000001, [⟨[1], []⟩, ⟨[2], []⟩], by decide +kernel⟩,
    ⟨on (rxOn 3 { tail := 65535, inflight := 7 }), true, 3, 0x80000001, by decide +kernel⟩,
    ⟨on id, false, 3, by decide +kernel⟩,
    ⟨on (rxOn 3 { head := 65535, inflight := 7, filled := [⟨[1, 2], 4096, [5], 1, some (2, 0)⟩] }), 3, ⟨[1, 2], 4096, [5], 1, some (2, 0)⟩, [], by decide +kernel⟩,
    ⟨on id, false, 3, by decide +kernel⟩,
    ⟨on fun d => waited (setReg (rxOn 3 { armed := true, since := 1, firstT := some 7 } d) (cfgRx 3 + 4) 5), 3, 7, fresh (on fun d => waited (setReg (rxOn 3 { armed := true, since := 1, firstT := some 7 } d) (cfgRx 3 + 4) 5)), rfl, at_now rfl (by decide +kernel), by decide +kernel⟩,
    ⟨on id, false, 3, by decide +kernel⟩,
    ⟨on fun d => setReg (rxOn 3 { tail := 7, head := 5, stop := true, posted := [emptyDesc] } d) (cfgRx 3) 3, .cores, 3, served_of (by decide +kernel), by decide +kernel⟩,
    ⟨on (rxOn 3 { posted := [emptyDesc] }), true, 3, emptyDesc, [], by decide +kernel⟩⟩

theorem witness_MspiAndHall :
  (∃ (s : State), calm s.dev = true ∧ mspiAlive s.dev = true) ∧
  (∃ (s : State), calm s.dev = true ∧ mspiAlive s.dev = false) ∧
  (∃ (s : State), mspiAlive s.dev = true ∧ s.dev.gen.mode = .bringup) ∧
  (∃ (s : State) (l : List Word), s.dev.gen.mode = .bringup ∧ mspiAlive s.dev = true ∧ s.dev.mspiErr = none ∧ l ≠ []) ∧
  (∃ (s : State) (a : Nat) (m : BitVec 32), Served s.dev .mspi a ∧ calm s.dev = true ∧ mspiAlive s.dev = true ∧ (a, m) ∈ [(GEN_BELL_CTRL, 0xFF03#32), (RST_QTIMEOUT, 0x1FFFF#32), (FLT_INJ_DETAIL, 0xFFFFFFFF#32)]) ∧
  (∃ (s : State) (a : Nat), Served s.dev .mspi a ∧ calm s.dev = true ∧ mspiAlive s.dev = true ∧ a ∈ [GEN_BELL_CTRL, RST_QTIMEOUT, FLT_INJ_DETAIL]) ∧
  (∃ (s : State) (m : Nat) (i : Nat) (t : Nat) (slot : Nat) (w : Bool) (b : Nat), calm s.dev = true ∧ m ≤ 11 ∧ i ≤ 63 ∧ t ≤ 8 ∧ 0 < b ∧ b ≤ 16 ∧ tagFree s.dev m = true ∧ heldOrder s.dev ⟨m, i, t, slot, w, b, false, false⟩ = false ∧ heldCycle s.dev ⟨m, i, t, slot, w, b, false, false⟩ = false ∧ isLane t = false ∧ s.dev.hal.tagged = []) ∧
  (∃ (s : State) (m : Nat) (i : Nat) (t : Nat) (b : Nat), calm s.dev = true ∧ m ≤ 11 ∧ i ≤ 63 ∧ t ≤ 8 ∧ 0 < b ∧ b ≤ 16 ∧ tagFree s.dev m = false) ∧
  (∃ (s : State) (m : Nat) (i : Nat) (r : HallReq), calm s.dev = true ∧ s.dev.hal.granted.find? (fun x => x.master == m && x.id == i) = some r ∧ s.dev.hal.waiting = [] ∧ s.dev.hal.tagged = []) ∧
  (∃ (s : State) (m : Nat) (i : Nat), calm s.dev = true ∧ s.dev.hal.granted.find? (fun x => x.master == m && x.id == i) = none) :=
  ⟨⟨on fun d => { d with mspiErr := some 0xC3 }, by decide +kernel⟩,
    ⟨on (inMode .off), by decide +kernel⟩,
    ⟨on (inMode .bringup), by decide +kernel⟩,
    ⟨on (inMode .bringup), [5], by decide +kernel⟩,
    ⟨on id, RST_QTIMEOUT, 0x1FFFF, served_of (by decide +kernel), by decide +kernel⟩,
    ⟨on (put RST_QTIMEOUT 77), RST_QTIMEOUT, served_of (by decide +kernel), by decide +kernel⟩,
    ⟨on id, 3, 7, 2, 9, true, 4, by decide +kernel⟩,
    ⟨on fun d => { d with hal := { d.hal with outstanding := List.replicate 12 200 } }, 3, 7, 2, 4, by decide +kernel⟩,
    ⟨on fun d => { d with hal := { d.hal with granted := [hallReq 3 7 2], outstanding := bump d.hal.outstanding 3 } }, 3, 7, hallReq 3 7 2, by decide +kernel⟩,
    ⟨on id, 3, 7, by decide +kernel⟩⟩

theorem witness_KeyCommands :
  (∃ (s : State) (r : Requester) (b : KeyBusy), Served s.dev r KEY_CMD ∧ calm s.dev = true ∧ s.dev.key.busy = some b) ∧
  (∃ (s : State) (r : Requester), Served s.dev r KEY_CMD ∧ calm s.dev = true ∧ s.dev.key.busy = none ∧ s.dev.key.root = none) ∧
  (∃ (s : State) (r : Requester) (i : Nat), Served s.dev r KEY_CMD ∧ calm s.dev = true ∧ s.dev.key.busy = none ∧ treeWriteCheck s.dev = none ∧ commitCheck s.dev = none ∧ i = bits (rg s.dev KEY_NODE) 9 0 ∧ s.dev.key.slots.length = 2 ∧ (s.dev.key.select = some 0 ∨ s.dev.key.select = some 1)) ∧
  (∃ (s : State) (r : Requester) (i : Nat), Served s.dev r KEY_CMD ∧ calm s.dev = true ∧ s.dev.key.busy = none ∧ treeWriteCheck s.dev = none ∧ 0 < i ∧ i < 1024 ∧ (nodeOf s.dev i).st ≠ .invalid ∧ s.dev.key.slots.length = 2) ∧
  (∃ (s : State) (b : KeyBusy), calm s.dev = true ∧ s.dev.key.busy = some b ∧ b.cmd = 2) ∧
  (∃ (s : State) (r : Requester) (x : Nat), Served s.dev r KEY_CMD ∧ calm s.dev = true ∧ s.dev.key.busy = none ∧ 4 < x ∧ x < 8) ∧
  (∃ (s : State) (r : Requester) (x : Nat) (i : Nat), Served s.dev r KEY_CMD ∧ calm s.dev = true ∧ s.dev.key.busy = none ∧ x ≤ 4 ∧ i < 1024 ∧ s.dev.key.root.isSome = true ∧ (nodeOf s.dev i).st ≠ .valid) ∧
  (∃ (s : State) (r : Requester) (x : Nat) (i : Nat) (root : List Byte), Served s.dev r KEY_CMD ∧ calm s.dev = true ∧ s.dev.key.busy = none ∧ 0 < x ∧ x ≤ 4 ∧ i < 1024 ∧ x < s.dev.key.work.length ∧ s.dev.key.root = some root ∧ (nodeOf s.dev i).st = .valid ∧ (nodeOf s.dev i).dest.testBit x = true ∧ engineAccepts x (nodeOf s.dev i).usage = true) ∧
  (∃ (s : State) (r : Requester) (x : Nat), Served s.dev r KEY_CMD ∧ calm s.dev = true ∧ s.dev.key.busy = none ∧ 0 < x ∧ x ≤ 4 ∧ x < s.dev.key.work.length) ∧
  (∃ (s : State) (r : Requester) (x : Nat), Served s.dev r KEY_CMD ∧ calm s.dev = true ∧ s.dev.key.busy = none ∧ 0 < x ∧ x ≤ 4 ∧ x < s.dev.key.work.length) ∧
  (∃ (s : State) (r : Requester), Served s.dev r KEY_CMD ∧ calm s.dev = true ∧ s.dev.key.busy = none ∧ s.dev.key.idOk = true) ∧
  (∃ (s : State) (b : KeyBusy), s.dev.key.busy = some b ∧ b.cmd = 5) ∧
  (∃ (s : State) (r : Requester), Served s.dev r KEY_CMD ∧ calm s.dev = true ∧ s.dev.key.busy = none ∧ (workOf s.dev 4).node = none) ∧
  (∃ (s : State) (r : Requester) (n : Nat), Served s.dev r KEY_CMD ∧ calm s.dev = true ∧ s.dev.key.busy = none ∧ (workOf s.dev 4).node = some n) ∧
  (∃ (s : State) (b : KeyBusy), s.dev.key.busy = some b ∧ b.cmd = 6) :=
  ⟨⟨on (keyIn { keyTree with busy := some ⟨5, [], [1]⟩ }), .cores, ⟨5, [], [1]⟩, served_of (by decide +kernel), by decide +kernel⟩,
    ⟨on fun d => setReg d KEY_DATA 77, .cores, served_of (by decide +kernel), by decide +kernel⟩,
    ⟨on fun d => setReg (setReg (keyIn keyTree d) KEY_DATA 77) KEY_NODE 0x20031009, .cores, 9, served_of (by decide +kernel), by decide +kernel⟩,
    ⟨on (keyIn keyTree), .cores, 3, served_of (by decide +kernel), by decide +kernel⟩,
    ⟨on (keyIn { keyTree with busy := some ⟨2, [4, 5], []⟩ }), ⟨2, [4, 5], []⟩, by decide +kernel⟩,
    ⟨on (keyIn keyTree), .cores, 5, served_of (by decide +kernel), by decide +kernel⟩,
    ⟨on (keyIn keyTree), .cores, 1, 9, served_of (by decide +kernel), by decide +kernel⟩,
    ⟨on (keyIn keyTree), .cores, 1, 4, [1, 2], served_of (by decide +kernel), by decide +kernel⟩,
    ⟨on (keyIn { keyTree with work := List.replicate 5 rootKey }), .cores, 1, served_of (by decide +kernel), by decide +kernel⟩,
    ⟨on (keyIn { keyTree with work := List.replicate 5 rootKey }), .cores, 4, served_of (by decide +kernel), by decide +kernel⟩,
    ⟨on (keyIn { keyTree with idOk := true }), .cores, served_of (by decide +kernel), by decide +kernel⟩,
    ⟨on (keyIn { keyTree with busy := some ⟨5, [], [1]⟩ }), ⟨5, [], [1]⟩, by decide +kernel⟩,
    ⟨on (keyIn keyTree), .cores, served_of (by decide +kernel), by decide +kernel⟩,
    ⟨on (keyIn { keyTree with work := List.replicate 5 rootKey }), .cores, 4, served_of (by decide +kernel), by decide +kernel⟩,
    ⟨on (keyIn { keyTree with busy := some ⟨6, [], [1]⟩ }), ⟨6, [], [1]⟩, by decide +kernel⟩⟩

theorem witness_TamperAndHoldup :
  (∃ (s : State) (r : Requester), Served s.dev r KEY_CMD ∧ s.dev.key.busy = none) ∧
  (∃ (s : State) (n : Nat), n ≤ 7 ∧ (4 ≤ n ∨ bit s.dev.key.tcfg n = true)) ∧
  (∃ (s : State) (n : Nat), n ≤ 7 ∧ (4 ≤ n ∨ bit s.dev.key.tcfg n = true)) ∧
  (∃ (s : State) (n : Nat), calm s.dev = true ∧ (7 < n ∨ (n < 4 ∧ bit s.dev.key.tcfg n = false))) ∧
  (∃ (s : State) (r : Requester), Served s.dev r KEY_TCFG ∧ calm s.dev = true ∧ bit s.dev.key.tcfg 31 = true) ∧
  (∃ (s : State) (r : Requester), Served s.dev r KEY_TCFG ∧ calm s.dev = true ∧ bit s.dev.key.tcfg 31 = false) ∧
  (∃ (s : State) (m : Nat), calm s.dev = true ∧ s.dev.gen.mode ≠ .off ∧ s.dev.start.phase ≠ .held ∧ s.dev.start.phase ≠ .energyWait ∧ (m * (fuses s.dev).hratio) % 16 = 0) ∧
  (∃ (s : State) (dv : Nat) (d : Dev), indIdle s.dev ∧ At s (if s.dev.key.testRun then s.dev.t.toNat else s.dev.key.htestT.toNat + (if rgf s.dev KEY_HTEST 15 0 = 0 then 60 else rgf s.dev KEY_HTEST 15 0) * 1000000000) d ∧ s.dev.gen.mode ≠ .off ∧ s.dev.start.phase ≠ .held ∧ (fuses s.dev).holdcap ≠ 0 ∧ 0 < dv ∧ nvBusy s.dev = false ∧ calm d = true) ∧
  (∃ (s : State) (dv : Nat) (d : Dev), indIdle s.dev ∧ At s (if s.dev.key.testRun then s.dev.t.toNat else s.dev.key.htestT.toNat + (if rgf s.dev KEY_HTEST 15 0 = 0 then 60 else rgf s.dev KEY_HTEST 15 0) * 1000000000) d ∧ s.dev.gen.mode ≠ .off ∧ s.dev.start.phase ≠ .held ∧ (fuses s.dev).holdcap ≠ 0 ∧ 0 < dv ∧ nvBusy s.dev = false ∧ calm d = true) ∧
  (∃ (s : State) (d : Dev), indIdle s.dev ∧ At s s.dev.t.toNat d ∧ s.dev.gen.mode ≠ .off ∧ s.dev.start.phase ≠ .held ∧ (fuses s.dev).holdcap = 0 ∧ s.dev.key.testRun = true ∧ nvBusy s.dev = false ∧ calm d = true) ∧
  (∃ (s : State) (r : Requester), Served s.dev r KEY_HTEST ∧ calm s.dev = true) ∧
  (∃ (s : State) (r : Requester), Served s.dev r KEY_HTEST ∧ calm s.dev = true) ∧
  (∃ (s : State) (r : Requester), Served s.dev r KEY_NRD_SEL ∧ calm s.dev = true) ∧
  (∃ (s : State), calm s.dev = true ∧ s.dev.gen.mode ≠ .off) :=
  ⟨⟨on (keyIn keyTree), .cores, served_of (by decide +kernel), by decide +kernel⟩,
    ⟨on (keyIn { keyTree with tcfg := 2 }), 1, by decide +kernel⟩,
    ⟨on (keyIn keyTree), 7, by decide +kernel⟩,
    ⟨on (keyIn keyTree), 1, by decide +kernel⟩,
    ⟨on (keyIn { keyTree with tcfg := 0x80000002 }), .cores, served_of (by decide +kernel), by decide +kernel⟩,
    ⟨on (keyIn { keyTree with tcfg := 2 }), .cores, served_of (by decide +kernel), by decide +kernel⟩,
    ⟨on fun d => keyIn { keyTree with cMeas := 900 } (fusesIn heldFuses d), 3000, by decide +kernel⟩,
    ⟨on fun d => waited (keyIn { keyTree with cMeas := 900, testRun := true } (fusesIn heldFuses d)), 21, fresh (on fun d => waited (keyIn { keyTree with cMeas := 900, testRun := true } (fusesIn heldFuses d))), rfl, at_now rfl (by decide +kernel), by decide +kernel⟩,
    ⟨on fun d => waited (keyIn { keyTree with cMeas := 900, testRun := true } (fusesIn heldFuses d)), 40, fresh (on fun d => waited (keyIn { keyTree with cMeas := 900, testRun := true } (fusesIn heldFuses d))), rfl, at_now rfl (by decide +kernel), by decide +kernel⟩,
    ⟨on (fun d => waited (keyIn { keyTree with testRun := true } d)), fresh (on (fun d => waited (keyIn { keyTree with testRun := true } d))), rfl, at_now rfl (by decide +kernel), by decide +kernel⟩,
    ⟨on (fusesIn heldFuses), .cores, served_of (by decide +kernel), by decide +kernel⟩,
    ⟨on id, .cores, served_of (by decide +kernel), by decide +kernel⟩,
    ⟨on (keyIn keyTree), .cores, served_of (by decide +kernel), by decide +kernel⟩,
    ⟨on id, by decide +kernel⟩⟩

theorem witness_TwinLink :
  (∃ (s : State) (d : Dev), indIdle s.dev ∧ At s (s.dev.twn.trainT.toNat + 10 * ms) d ∧ s.dev.twn.link = .training ∧ calm d = true) ∧
  (∃ (s : State), calm s.dev = true ∧ s.dev.twn.link ≠ .training) ∧
  (∃ (s : State) (d : Dev) (n : Nat), indIdle s.dev ∧ At s ((s.dev.twn.helloT.map (fun t => t.toNat + n * ms)).getD s.dev.t.toNat) d ∧ ((s.dev.twn.link = .negotiating ∧ n = 10) ∨ (s.dev.twn.link = .up ∧ n = 1000)) ∧ calm d = true) ∧
  (∃ (s : State) (d : Dev) (n : Nat), indIdle s.dev ∧ At s ((s.dev.twn.helloT.map (fun t => t.toNat + n * ms)).getD s.dev.t.toNat) d ∧ ((s.dev.twn.link = .negotiating ∧ n = 10) ∨ (s.dev.twn.link = .up ∧ n = 1000)) ∧ calm d = true) ∧
  (∃ (s : State), calm s.dev = true ∧ s.dev.twn.link ≠ .negotiating ∧ s.dev.twn.link ≠ .up) ∧
  (∃ (s : State) (msg : List Byte), twinOpen s.dev 1 msg = (none, twinBad s.dev) ∧ calm s.dev = true ∧ s.dev.twn.link = .negotiating) ∧
  (∃ (s : State) (msg : List Byte) (m : TwinMsg) (d1 : Dev) (v : Nat), twinOpen (fresh s) 1 msg = (some m, d1) ∧ s.dev.twn.link = .negotiating ∧ s.dev.gen.mode = .standby ∧ beAt m.payload 7 1 ≠ twinSide s.dev ∧ enOf s.dev baseTwn = true ∧ heldInReset s.dev 19 0 = false ∧ (ownVersions s.dev).find? (fun x => beAt m.payload 0 2 ≤ x && x ≤ beAt m.payload 2 2) = some v) ∧
  (∃ (d : Dev) (b : List Byte) (v : Nat), (ownVersions d).find? (fun x => beAt b 0 2 ≤ x && x ≤ beAt b 2 2) = some v ∧ beAt b 7 1 ≠ twinSide d) ∧
  (∃ (d : Dev) (b : List Byte) (v : Nat), (ownVersions d).find? (fun x => beAt b 0 2 ≤ x && x ≤ beAt b 2 2) = some v ∧ beAt b 7 1 ≠ twinSide d) ∧
  (∃ (d : Dev) (b : List Byte), (ownVersions d).find? (fun x => beAt b 0 2 ≤ x && x ≤ beAt b 2 2) = none) ∧
  (∃ (s : State) (d : Dev), indIdle s.dev ∧ AtScale s 0 ((slotNext s.dev * 1000000 + 500000 * twinSide s.dev : Nat) : Rat) d ∧ enOf s.dev baseTwn = true ∧ calm d = true ∧ enOf d baseTwn = true ∧ d.twn.link = .up ∧ d.twn.agreed ≠ 0x0201) ∧
  (∃ (s : State) (d : Dev), indIdle s.dev ∧ AtScale s 0 ((slotNext s.dev * 1000000 + 500000 * twinSide s.dev : Nat) : Rat) d ∧ enOf s.dev baseTwn = true ∧ calm d = true ∧ enOf d baseTwn = true ∧ d.twn.link ≠ .up) ∧
  (∃ (s : State) (msg : List Byte) (m : TwinMsg) (d1 : Dev), twinOpen (fresh s) 2 msg = (some m, d1) ∧ calm s.dev = true ∧ s.dev.twn.link = .up ∧ s.dev.twn.lastTx = none) ∧
  (∃ (s : State) (msg : List Byte) (m : TwinMsg) (d1 : Dev) (rx : TimingHalf) (tx : TimingHalf) (th : Int) (ps : Int), twinOpen (fresh s) 2 msg = (some m, d1) ∧ s.dev.twn.link = .up ∧ s.dev.twn.locked = false ∧ s.dev.twn.lastRx = some rx ∧ s.dev.twn.lastTx = some tx ∧ rx.seq = beAt m.payload 0 4 ∧ tx.seq = beAt m.payload 20 4 ∧ ((stampAt m.payload 24 - tx.stamp) - (rx.stamp - stampAt m.payload 4)) * 1000 + efS s.dev TWN_ASYM * 65536 = 2000 * th ∧ ((stampAt m.payload 24 - tx.stamp) + (rx.stamp - stampAt m.payload 4)) * 1000 = 65536 * ps) ∧
  (∃ (d : Dev), d.twn.locked = false) ∧
  (∃ (d : Dev), d.twn.locked = false) ∧
  (∃ (d : Dev), d.twn.locked = true ∧ 16 ≤ (d.twn.rtts.drop d.twn.departs).length) ∧
  (∃ (d : Dev), d.twn.locked = true ∧ 16 ≤ (d.twn.rtts.drop d.twn.departs).length) ∧
  (∃ (d : Dev), d.twn.locked = true ∧ 16 ≤ (d.twn.rtts.drop d.twn.departs).length) ∧
  (∃ (s : State) (d : Dev), indIdle s.dev ∧ At s (s.dev.twn.exT.toNat + 8 * ms) d ∧ s.dev.twn.locked = true ∧ calm d = true ∧ d.twn.locked = true ∧ 30 < d.refs.length ∧ (refOf d 30).present = true) ∧
  (∃ (s : State), calm s.dev = true ∧ s.dev.twn.locked = false) ∧
  (∃ (s : State), calm s.dev = true ∧ enOf s.dev baseTwn = false ∧ s.dev.twn.locked = false) ∧
  (∃ (s : State), enOf s.dev baseTwn = true ∧ heldInReset s.dev 19 0 = false ∧ inService s.dev = true ∧ s.dev.twn.locked = true ∧ 30 < s.dev.refs.length ∧ (refOf s.dev 30).present = true) ∧
  (∃ (s : State) (d : Dev), indIdle s.dev ∧ AtScale s 0 (((seenBy s.dev + 2) * 1000000 : Nat) : Rat) d ∧ enOf s.dev baseTwn = true ∧ calm d = true ∧ d.twn.missed < 49) ∧
  (∃ (s : State), calm s.dev = true ∧ enOf s.dev baseTwn = false) :=
  ⟨⟨on (fun d => waited (twinIn .standby { link := .training } d)), fresh (on (fun d => waited (twinIn .standby { link := .training } d))), rfl, at_now rfl (by decide +kernel), by decide +kernel⟩,
    ⟨on (twinIn .standby linked), by decide +kernel⟩,
    ⟨on (fun d => waited (twinIn .standby { link := .negotiating, txSeq := 5, helloT := some 9 } d)), fresh (on (fun d => waited (twinIn .standby { link := .negotiating, txSeq := 5, helloT := some 9 } d))), 10, rfl, at_now rfl (by decide +kernel), by decide +kernel⟩,
    ⟨on (twinIn .standby linked), fresh (on (twinIn .standby linked)), 1000, rfl, at_now rfl (by decide +kernel), by decide +kernel⟩,
    ⟨on id, by decide +kernel⟩,
    ⟨on (twinIn .standby { link := .negotiating }), [1, 0, 0], rfl, by decide +kernel⟩,
    ⟨on (twinIn .standby { link := .negotiating }), twinMsgOf 1 ([1, 0, 2, 1, 0x88, 0x16, 0xB1, 1] ++ zeros 24), (twinOpen (fresh (on (twinIn .standby { link := .negotiating }))) 1 (twinMsgOf 1 ([1, 0, 2, 1, 0x88, 0x16, 0xB1, 1] ++ zeros 24))).1.get (by decide +kernel), (twinOpen (fresh (on (twinIn .standby { link := .negotiating }))) 1 (twinMsgOf 1 ([1, 0, 2, 1, 0x88, 0x16, 0xB1, 1] ++ zeros 24))).2, 0x0201, opened _, by decide +kernel⟩,
    ⟨base, [1, 0, 2, 1, 0, 0, 0, 1], 0x0201, by decide +kernel⟩,
    ⟨base, [1, 0, 1, 0xFF, 0, 0, 0, 1], 0x0100, by decide +kernel⟩,
    ⟨base, [3, 0, 3, 1, 0, 0, 0, 1], by decide +kernel⟩,
    ⟨on (twinIn .standby linked), fresh (on (twinIn .standby linked)), rfl, scale_now rfl (by decide +kernel), by decide +kernel⟩,
    ⟨on (twinIn .standby { missed := 7, link := .training }), fresh (on (twinIn .standby { missed := 7, link := .training })), rfl, scale_now rfl (by decide +kernel), by decide +kernel⟩,
    ⟨on (twinIn .standby { linked with missed := 2 }), twinMsgOf 2 (List.replicate 24 0), (twinOpen (fresh (on (twinIn .standby { linked with missed := 2 }))) 2 (twinMsgOf 2 (List.replicate 24 0))).1.get (by decide +kernel), (twinOpen (fresh (on (twinIn .standby { linked with missed := 2 }))) 2 (twinMsgOf 2 (List.replicate 24 0))).2, opened _, by decide +kernel⟩,
    ⟨on (twinIn .standby { linked with lastRx := some ⟨5, 6553600⟩, lastTx := some ⟨7, 3276800⟩, missed := 2 }), twinMsgOf 2 (beBytes 4 5 ++ twinStamp 1310720 ++ beBytes 4 7 ++ twinStamp 9830400), (twinOpen (fresh (on (twinIn .standby { linked with lastRx := some ⟨5, 6553600⟩, lastTx := some ⟨7, 3276800⟩, missed := 2 }))) 2 (twinMsgOf 2 (beBytes 4 5 ++ twinStamp 1310720 ++ beBytes 4 7 ++ twinStamp 9830400))).1.get (by decide +kernel), (twinOpen (fresh (on (twinIn .standby { linked with lastRx := some ⟨5, 6553600⟩, lastTx := some ⟨7, 3276800⟩, missed := 2 }))) 2 (twinMsgOf 2 (beBytes 4 5 ++ twinStamp 1310720 ++ beBytes 4 7 ++ twinStamp 9830400))).2, ⟨5, 6553600⟩, ⟨7, 3276800⟩, 655360, 180000, opened _, by decide +kernel⟩,
    ⟨base, by decide +kernel⟩,
    ⟨{ base with twn := { base.twn with rtts := List.replicate 15 7 } }, by decide +kernel⟩,
    ⟨{ base with twn := { linked with locked := true, rtts := List.replicate 18 7, departs := 2 } }, by decide +kernel⟩,
    ⟨{ base with twn := { linked with locked := true, rtts := List.replicate 20 7, departs := 3 } }, by decide +kernel⟩,
    ⟨{ base with twn := { linked with locked := true, rtts := List.replicate 20 7, departs := 1 } }, by decide +kernel⟩,
    ⟨on (fun d => waited (refIn 30 { present := true, qualified := true } (twinIn .standby { linked with locked := true, rtts := [5], exT := 7 } d))), fresh (on (fun d => waited (refIn 30 { present := true, qualified := true } (twinIn .standby { linked with locked := true, rtts := [5], exT := 7 } d)))), rfl, at_now rfl (by decide +kernel), by decide +kernel⟩,
    ⟨on (twinIn .standby linked), by decide +kernel⟩,
    ⟨on fun d => { d with twn := { d.twn with rtts := [5], rxSeq := 7 } }, by decide +kernel⟩,
    ⟨on fun d => refIn 30 { present := true, qualified := true } (twinIn .standby { linked with locked := true, rtts := [5], exT := 7 } d), by decide +kernel⟩,
    ⟨on (fun d => tscIn { d.tsc with o := 2 * msUnit } (twinIn .standby { linked with missed := 5 } d)), fresh (on (fun d => tscIn { d.tsc with o := 2 * msUnit } (twinIn .standby { linked with missed := 5 } d))), rfl, scale_now rfl (by decide +kernel), by decide +kernel⟩,
    ⟨on id, by decide +kernel⟩⟩

theorem witness_FloorAndSnapshots :
  (∃ (s : State) (d : Dev), indIdle s.dev ∧ AtScale s 0 (((seenBy s.dev + (50 - s.dev.twn.missed) + 1) * 1000000 : Nat) : Rat) d ∧ enOf s.dev baseTwn = true ∧ twinConfigured d = true ∧ d.gen.mode = .standby ∧ d.twn.hbLost = false ∧ d.twn.floorLow = false ∧ heldInReset d 19 0 = false) ∧
  (∃ (s : State) (d : Dev), indIdle s.dev ∧ AtScale s 0 (((seenBy s.dev + (50 - s.dev.twn.missed) + 1) * 1000000 : Nat) : Rat) d ∧ enOf s.dev baseTwn = true ∧ twinConfigured d = true ∧ d.gen.mode = .standby ∧ d.twn.hbLost = false ∧ d.twn.floorLow = true) ∧
  (∃ (s : State), twinConfigured s.dev = true ∧ s.dev.gen.mode = .standby ∧ s.dev.twn.pull = false ∧ s.dev.twn.abdicateSeen = true) ∧
  (∃ (s : State), twinConfigured s.dev = true ∧ s.dev.gen.mode = .standby ∧ s.dev.twn.pull = false ∧ s.dev.twn.abdicateSeen = false ∧ s.dev.twn.hbLost = false ∧ s.dev.twn.floorLow = true) ∧
  (∃ (s : State) (msg : List Byte) (m : TwinMsg) (d1 : Dev), twinOpen (fresh s) 8 msg = (some m, d1) ∧ s.dev.twn.link = .up ∧ twinConfigured s.dev = true ∧ s.dev.gen.mode = .standby ∧ s.dev.twn.pull = false ∧ d1.twn.partnerFloor = false) ∧
  (∃ (s : State) (r : Requester) (v : Word), Served s.dev r TWN_CMD ∧ bit v 0 = false ∧ bit v 1 = true ∧ holdsFloor s.dev = true ∧ twinConfigured s.dev = true ∧ partnerReady s.dev = true ∧ s.dev.twn.agreed ≠ 0x0201) ∧
  (∃ (s : State) (r : Requester) (v : Word), Served s.dev r TWN_CMD ∧ bit v 0 = false ∧ bit v 1 = true ∧ holdsFloor s.dev = true ∧ twinConfigured s.dev = true ∧ partnerReady s.dev = false) ∧
  (∃ (s : State) (r : Requester), Served s.dev r TWN_CMD ∧ holdsFloor s.dev = true ∧ twinConfigured s.dev = true ∧ s.dev.twn.link = .up ∧ s.dev.twn.agreed ≠ 0x0201) ∧
  (∃ (s : State) (msg : List Byte) (m : TwinMsg) (d1 : Dev), twinOpen (fresh s) 9 msg = (some m, d1) ∧ s.dev.twn.link = .up ∧ s.dev.gen.mode = .standby ∧ twinReady d1 = true ∧ s.dev.twn.agreed ≠ 0x0201) ∧
  (∃ (s : State) (msg : List Byte) (m : TwinMsg) (d1 : Dev) (t : BitVec 64), twinOpen (fresh s) 10 msg = (some m, d1) ∧ s.dev.twn.link = .up ∧ s.dev.twn.swapTarget = some t ∧ holdsFloor s.dev = true ∧ t.toNat = beAt m.payload 0 8 ∧ beAt m.payload 8 1 = 0 ∧ s.dev.bellCnt.toNat + 1 < t.toNat) ∧
  (∃ (s : State) (msg : List Byte) (m : TwinMsg) (d1 : Dev), twinOpen (fresh s) 3 msg = (some m, d1) ∧ s.dev.twn.link = .up ∧ s.dev.gen.mode = .standby ∧ 0x0200 ≤ s.dev.twn.agreed ∧ sext 64 (beAt m.payload 8 8) = 0 ∧ (beAt m.payload 0 1 % 2 == 1) = s.dev.tsc.cur ∧ m.bell = s.dev.bellCnt.toNat ∧ s.dev.twn.muteToBell = false) ∧
  (∃ (s : State) (d : Dev), indIdle s.dev ∧ At s (s.dev.tsc.lastBellT.toNat + 5 * ms) d ∧ muted s.dev = true ∧ s.dev.twn.muteToBell = false ∧ calm d = true ∧ muted d = true ∧ d.twn.muteToBell = false) ∧
  (∃ (s : State), calm s.dev = true ∧ muted s.dev = false) ∧
  (∃ (s : State) (msg : List Byte) (m : TwinMsg) (d1 : Dev), twinOpen (fresh s) 4 msg = (some m, d1) ∧ s.dev.twn.link = .up ∧ s.dev.gen.mode ≠ .active) ∧
  (∃ (s : State) (msg : List Byte) (m : TwinMsg) (d1 : Dev) (x : BitVec 64) (n : Nat) (l : List (Nat × List Byte)), twinOpen (fresh s) 5 msg = (some m, d1) ∧ s.dev.twn.link = .up ∧ s.dev.twn.partSnap = some (x, n, l)) ∧
  (∃ (s : State) (msg : List Byte) (m : TwinMsg) (d1 : Dev) (x : BitVec 64) (n : Nat) (l : List (Nat × List Byte)), twinOpen (fresh s) 6 msg = (some m, d1) ∧ s.dev.twn.link = .up ∧ s.dev.twn.partSnap = some (x, n, l)) ∧
  (∃ (s : State) (msg : List Byte) (m : TwinMsg) (d1 : Dev) (x : BitVec 64) (n : Nat) (l : List (Nat × List Byte)), twinOpen (fresh s) 6 msg = (some m, d1) ∧ s.dev.twn.link = .up ∧ s.dev.twn.partSnap = some (x, n, l)) ∧
  (∃ (s : State) (msg : List Byte) (m : TwinMsg) (d1 : Dev), twinOpen (fresh s) 7 msg = (some m, d1) ∧ s.dev.twn.link = .up) :=
  ⟨⟨on (fun d => tscIn { d.tsc with o := 2 * msUnit } (twinIn .standby { linked with missed := 49 } d)), fresh (on (fun d => tscIn { d.tsc with o := 2 * msUnit } (twinIn .standby { linked with missed := 49 } d))), rfl, scale_now rfl (by decide +kernel), by decide +kernel⟩,
    ⟨on (fun d => tscIn { d.tsc with o := 2 * msUnit } (twinIn .standby { linked with missed := 49, floorLow := true } d)), fresh (on (fun d => tscIn { d.tsc with o := 2 * msUnit } (twinIn .standby { linked with missed := 49, floorLow := true } d))), rfl, scale_now rfl (by decide +kernel), by decide +kernel⟩,
    ⟨on (twinIn .standby { linked with abdicateSeen := true, floorLow := true }), by decide +kernel⟩,
    ⟨on (twinIn .standby { linked with floorLow := true }), by decide +kernel⟩,
    ⟨on (twinIn .standby linked), twinMsgOf 8 [6, 0, 0, 0, 0, 0, 0, 0], (twinOpen (fresh (on (twinIn .standby linked))) 8 (twinMsgOf 8 [6, 0, 0, 0, 0, 0, 0, 0])).1.get (by decide +kernel), (twinOpen (fresh (on (twinIn .standby linked))) 8 (twinMsgOf 8 [6, 0, 0, 0, 0, 0, 0, 0])).2, opened _, by decide +kernel⟩,
    ⟨on (twinIn .active { linked with pull := true, ackBell := some 0 }), .cores, 2, served_of (by decide +kernel), by decide +kernel⟩,
    ⟨on (twinIn .active { linked with pull := true }), .cores, 2, served_of (by decide +kernel), by decide +kernel⟩,
    ⟨on (twinIn .active { linked with pull := true }), .cores, served_of (by decide +kernel), by decide +kernel⟩,
    ⟨on fun d => tscIn { d.tsc with a := { setDone := true }, b := { setDone := true } } (twinIn .standby { linked with locked := true, snap := some ⟨0, 0, 5, []⟩ } d), twinMsgOf 9 (beBytes 8 77), (twinOpen (fresh (on fun d => tscIn { d.tsc with a := { setDone := true }, b := { setDone := true } } (twinIn .standby { linked with locked := true, snap := some ⟨0, 0, 5, []⟩ } d))) 9 (twinMsgOf 9 (beBytes 8 77))).1.get (by decide +kernel), (twinOpen (fresh (on fun d => tscIn { d.tsc with a := { setDone := true }, b := { setDone := true } } (twinIn .standby { linked with locked := true, snap := some ⟨0, 0, 5, []⟩ } d))) 9 (twinMsgOf 9 (beBytes 8 77))).2, opened _, by decide +kernel⟩,
    ⟨on (twinIn .active { linked with pull := true, swapTarget := some 77 }), twinMsgOf 10 (beBytes 8 77 ++ List.replicate 8 0), (twinOpen (fresh (on (twinIn .active { linked with pull := true, swapTarget := some 77 }))) 10 (twinMsgOf 10 (beBytes 8 77 ++ List.replicate 8 0))).1.get (by decide +kernel), (twinOpen (fresh (on (twinIn .active { linked with pull := true, swapTarget := some 77 }))) 10 (twinMsgOf 10 (beBytes 8 77 ++ List.replicate 8 0))).2, 77, opened _, by decide +kernel⟩,
    ⟨on (twinIn .standby linked), twinMsgOf 3 ([0, 1, 2, 0, 1, 2, 3, 4] ++ List.replicate 8 0), (twinOpen (fresh (on (twinIn .standby linked))) 3 (twinMsgOf 3 ([0, 1, 2, 0, 1, 2, 3, 4] ++ List.replicate 8 0))).1.get (by decide +kernel), (twinOpen (fresh (on (twinIn .standby linked))) 3 (twinMsgOf 3 ([0, 1, 2, 0, 1, 2, 3, 4] ++ List.replicate 8 0))).2, opened _, by decide +kernel⟩,
    ⟨on (fun d => waited (twinIn .standby { linked with mute := true } d)), fresh (on (fun d => waited (twinIn .standby { linked with mute := true } d))), rfl, at_now rfl (by decide +kernel), by decide +kernel⟩,
    ⟨on id, by decide +kernel⟩,
    ⟨on (twinIn .standby linked), twinMsgOf 4 (beBytes 8 9 ++ beBytes 4 100 ++ beBytes 4 0), (twinOpen (fresh (on (twinIn .standby linked))) 4 (twinMsgOf 4 (beBytes 8 9 ++ beBytes 4 100 ++ beBytes 4 0))).1.get (by decide +kernel), (twinOpen (fresh (on (twinIn .standby linked))) 4 (twinMsgOf 4 (beBytes 8 9 ++ beBytes 4 100 ++ beBytes 4 0))).2, opened _, by decide +kernel⟩,
    ⟨on (twinIn .standby { linked with partSnap := some (9, 100, []) }), twinMsgOf 5 (beBytes 4 0 ++ beBytes 4 3 ++ [7, 8, 9]), (twinOpen (fresh (on (twinIn .standby { linked with partSnap := some (9, 100, []) }))) 5 (twinMsgOf 5 (beBytes 4 0 ++ beBytes 4 3 ++ [7, 8, 9]))).1.get (by decide +kernel), (twinOpen (fresh (on (twinIn .standby { linked with partSnap := some (9, 100, []) }))) 5 (twinMsgOf 5 (beBytes 4 0 ++ beBytes 4 3 ++ [7, 8, 9]))).2, 9, 100, [], opened _, by decide +kernel⟩,
    ⟨on (twinIn .standby { linked with partSnap := some (9, 3, [(0, [7, 8, 9])]) }), twinMsgOf 6 (beBytes 4 (crc32 [7, 8, 9]).toNat), (twinOpen (fresh (on (twinIn .standby { linked with partSnap := some (9, 3, [(0, [7, 8, 9])]) }))) 6 (twinMsgOf 6 (beBytes 4 (crc32 [7, 8, 9]).toNat))).1.get (by decide +kernel), (twinOpen (fresh (on (twinIn .standby { linked with partSnap := some (9, 3, [(0, [7, 8, 9])]) }))) 6 (twinMsgOf 6 (beBytes 4 (crc32 [7, 8, 9]).toNat))).2, 9, 3, [(0, [7, 8, 9])], opened _, by decide +kernel⟩,
    ⟨on (twinIn .standby { linked with partSnap := some (9, 4, [(0, [7, 8, 9])]) }), twinMsgOf 6 (beBytes 4 (crc32 [7, 8, 9]).toNat), (twinOpen (fresh (on (twinIn .standby { linked with partSnap := some (9, 4, [(0, [7, 8, 9])]) }))) 6 (twinMsgOf 6 (beBytes 4 (crc32 [7, 8, 9]).toNat))).1.get (by decide +kernel), (twinOpen (fresh (on (twinIn .standby { linked with partSnap := some (9, 4, [(0, [7, 8, 9])]) }))) 6 (twinMsgOf 6 (beBytes 4 (crc32 [7, 8, 9]).toNat))).2, 9, 4, [(0, [7, 8, 9])], opened _, by decide +kernel⟩,
    ⟨on (twinIn .active { linked with changes := [(0, grantIn 3), (1, grantIn 4)], sent := [(9, 2), (4, 1)] }), twinMsgOf 7 (beBytes 8 4), (twinOpen (fresh (on (twinIn .active { linked with changes := [(0, grantIn 3), (1, grantIn 4)], sent := [(9, 2), (4, 1)] }))) 7 (twinMsgOf 7 (beBytes 8 4))).1.get (by decide +kernel), (twinOpen (fresh (on (twinIn .active { linked with changes := [(0, grantIn 3), (1, grantIn 4)], sent := [(9, 2), (4, 1)] }))) 7 (twinMsgOf 7 (beBytes 8 4))).2, opened _, by decide +kernel⟩⟩

theorem witness_Audio :
  (∃ (s : State) (c : Nat), calm s.dev = true ∧ clkOn s.dev c = false) ∧
  (∃ (s : State) (c : Nat), calm s.dev = true ∧ clkOn s.dev c = true ∧ s.dev.aud.edge = none ∧ (audClock s.dev c).last = none) ∧
  (∃ (s : State) (c : Nat) (l : Tick), calm s.dev = true ∧ clkOn s.dev c = true ∧ c < s.dev.aud.clocks.length ∧ s.dev.aud.edge = none ∧ (audClock s.dev c).last = some l ∧ (s.dev.t.toNat - l.toNat) * 2 * rateHz (clkRate s.dev c) < 1000000000 ∧ (audClock s.dev c).glitches = []) ∧
  (∃ (s : State) (c : Nat) (l : Tick), calm s.dev = true ∧ clkOn s.dev c = true ∧ c < s.dev.aud.clocks.length ∧ s.dev.aud.edge = none ∧ (audClock s.dev c).last = some l ∧ 1000000000 ≤ (s.dev.t.toNat - l.toNat) * 2 * rateHz (clkRate s.dev c) ∧ (audClock s.dev c).present = false ∧ (audClock s.dev c).good < 1000) ∧
  (∃ (s : State) (c : Nat) (l : Tick), calm s.dev = true ∧ clkOn s.dev c = true ∧ c < s.dev.aud.clocks.length ∧ s.dev.aud.edge = none ∧ (audClock s.dev c).last = some l ∧ 1000000000 ≤ (s.dev.t.toNat - l.toNat) * 2 * rateHz (clkRate s.dev c) ∧ (audClock s.dev c).present = false ∧ (audClock s.dev c).good < 1000) ∧
  (∃ (s : State) (c : Nat) (l : Tick), clkOn s.dev c = true ∧ c < s.dev.aud.clocks.length ∧ s.dev.aud.edge = none ∧ (audClock s.dev c).last = some l ∧ 1000000000 ≤ (s.dev.t.toNat - l.toNat) * 2 * rateHz (clkRate s.dev c) ∧ (audClock s.dev c).present = true ∧ (audClock s.dev c).periods.length < 63 ∧ followedClk s.dev.aud.src = some c ∧ s.dev.aud.st = .following ∧ s.dev.aud.change = none) ∧
  (∃ (s : State) (c : Nat) (l : Tick) (n : Nat), clkOn s.dev c = true ∧ c < s.dev.aud.clocks.length ∧ s.dev.aud.edge = none ∧ (audClock s.dev c).last = some l ∧ 1000000000 ≤ (s.dev.t.toNat - l.toNat) * 2 * rateHz (clkRate s.dev c) ∧ (audClock s.dev c).present = true ∧ (audClock s.dev c).periods.length < 63 ∧ followedClk s.dev.aud.src = some c ∧ s.dev.aud.st = .following ∧ s.dev.aud.change = none ∧ s.dev.aud.frame % 192 ≠ 0 ∧ n ≤ 3 ∧ n < s.dev.aud.outs.length ∧ (audOut s.dev n).run = true ∧ (audOut s.dev n).low = false ∧ (audOut s.dev n).silent = true ∧ (audOut s.dev n).ramp = 0 ∧ (audOut s.dev n).content.1 = 0 ∧ (audOut s.dev n).rampDone = false ∧ efb s.dev (aoutCfg n) 0 = true ∧ efb s.dev (aoutCfg n) 1 = false ∧ pinFunc s.dev (28 + n) = 5) ∧
  (∃ (s : State) (c : Nat) (d : Dev), indIdle s.dev ∧ At s (((audClock s.dev c).last.map (fun l => l.toNat + ceilDiv 2000000000 (rateHz (clkRate s.dev c)))).getD s.dev.t.toNat) d ∧ clkWatched s.dev c = true ∧ d.aud.edge = none ∧ c < d.aud.clocks.length ∧ (audClock d c).present = true ∧ followedClk d.aud.src = some c ∧ d.aud.st = .following) ∧
  (∃ (s : State) (c : Nat), calm s.dev = true ∧ clkWatched s.dev c = false) ∧
  (∃ (s : State) (c : Nat) (d : Dev), indIdle s.dev ∧ At s (((audClock s.dev c).last.map (fun l => l.toNat + ceilDiv 2000000000 (rateHz (clkRate s.dev c)))).getD s.dev.t.toNat) d ∧ clkWatched s.dev c = true ∧ d.aud.edge = none ∧ (audClock d c).present = false ∧ calm d = true) ∧
  (∃ (s : State), calm s.dev = true ∧ audRuns s.dev = true ∧ s.dev.aud.edge = none ∧ s.dev.aud.frame = 0 ∧ (∀ o ∈ s.dev.aud.outs, o.ramp = 0 ∧ o.upDue = false) ∧ s.dev.aud.change = none ∧ s.dev.aud.st = .bridging ∧ s.dev.aud.returnDue = true) ∧
  (∃ (s : State), calm s.dev = true ∧ audRuns s.dev = true ∧ s.dev.aud.edge = none ∧ s.dev.aud.frame = 0 ∧ (∀ o ∈ s.dev.aud.outs, o.ramp = 0 ∧ o.upDue = false) ∧ s.dev.aud.change = none ∧ s.dev.aud.st = .bridging ∧ s.dev.aud.returnDue = true) ∧
  (∃ (s : State), calm s.dev = true ∧ (audRuns s.dev = false ∨ s.dev.aud.change = none ∧ s.dev.aud.returnDue = false)) ∧
  (∃ (s : State) (n : Nat), calm s.dev = true ∧ n ≤ 3 ∧ n < s.dev.aud.outs.length ∧ s.dev.aud.edge = none ∧ (audOut s.dev n).ramp = 1 ∧ (audOut s.dev n).rampDone = true) ∧
  (∃ (s : State) (n : Nat), calm s.dev = true ∧ n ≤ 3 ∧ n < s.dev.aud.outs.length ∧ s.dev.aud.edge = none ∧ (audOut s.dev n).ramp = 2 ∧ (audOut s.dev n).rampDone = true ∧ (audOut s.dev n).why = 1) ∧
  (∃ (s : State) (n : Nat), calm s.dev = true ∧ (3 < n ∨ (audOut s.dev n).ramp = 0)) ∧
  (∃ (s : State) (n : Nat), calm s.dev = true ∧ (3 < n ∨ audRuns s.dev = false)) ∧
  (∃ (s : State) (n : Nat), calm s.dev = true ∧ n ≤ 3 ∧ n < s.dev.aud.outs.length ∧ audRuns s.dev = true ∧ s.dev.aud.st = .following ∧ s.dev.staged = [] ∧ s.dev.aud.edge = none ∧ s.dev.aud.frame = 0 ∧ (audOut s.dev n).begun = false ∧ (audOut s.dev n).run = false ∧ efb s.dev (aoutCfg n) 31 = true) ∧
  (∃ (s : State) (n : Nat), calm s.dev = true ∧ n ≤ 3 ∧ n < s.dev.aud.outs.length ∧ audRuns s.dev = true ∧ s.dev.aud.st = .following ∧ s.dev.staged = [] ∧ s.dev.aud.edge = none ∧ s.dev.aud.frame = 0 ∧ (audOut s.dev n).begun = false ∧ (audOut s.dev n).run = true ∧ (audOut s.dev n).low = false ∧ (audOut s.dev n).ramp = 0 ∧ efb s.dev (aoutCfg n) 31 = false) ∧
  (∃ (s : State) (n : Nat), calm s.dev = true ∧ n < s.dev.aud.outs.length ∧ (audOut s.dev n).run = true ∧ (audOut s.dev n).content.1 = 2 ∧ (audOut s.dev n).flows = true ∧ ((audOut s.dev n).buf.length ≤ 2 ∨ 30 ≤ (audOut s.dev n).buf.length) ∧ loopLocked s.dev n = true) ∧
  (∃ (s : State) (n : Nat), calm s.dev = true ∧ n < s.dev.aud.outs.length ∧ (audOut s.dev n).run = true ∧ (audOut s.dev n).content.1 = 2 ∧ (audOut s.dev n).flows = true ∧ ((audOut s.dev n).buf.length ≤ 2 ∨ 30 ≤ (audOut s.dev n).buf.length) ∧ loopLocked s.dev n = true) ∧
  (∃ (s : State) (n : Nat), calm s.dev = true ∧ (audOut s.dev n).run = false) :=
  ⟨⟨on fun d => setReg d (baseAud + 4) 0, 0, by decide +kernel⟩,
    ⟨on (wired base.aud), 0, by decide +kernel⟩,
    ⟨on fun d => wired { d.aud with clocks := d.aud.clocks.set 0 { last := some 5, present := true } } { d with t := 100 }, 0, 5, by decide +kernel⟩,
    ⟨on fun d => wired { d.aud with clocks := d.aud.clocks.set 0 { last := some 5 } } { d with t := 31255 }, 0, 5, by decide +kernel⟩,
    ⟨on fun d => put WCK_CFG 2 (wired { d.aud with clocks := d.aud.clocks.set 0 { last := some 5, good := 3 } } { d with t := 20838 }), 0, 5, by decide +kernel⟩,
    ⟨on fun d => wired { d.aud with st := .following, src := 0, frame := 9, clocks := d.aud.clocks.set 0 { last := some 5, present := true } } { d with t := 20838 }, 0, 5, by decide +kernel⟩,
    ⟨on fun d => put (aoutCfg 2) 1 (wired { d.aud with st := .following, frame := 9, outs := d.aud.outs.set 2 { run := true, silent := true, user := [1, 2, 4, 8], status := [1, 7] }, clocks := d.aud.clocks.set 0 { last := some 5, present := true } } { d with t := 20838 }), 0, 5, 2, by decide +kernel⟩,
    ⟨on (fun d => waited (audOnly { d.aud with st := .following, clocks := d.aud.clocks.set 0 { last := some 5, present := true }, outs := d.aud.outs.set 1 { run := true } } d)), 0, fresh (on (fun d => waited (audOnly { d.aud with st := .following, clocks := d.aud.clocks.set 0 { last := some 5, present := true }, outs := d.aud.outs.set 1 { run := true } } d))), rfl, at_now rfl (by decide +kernel), by decide +kernel⟩,
    ⟨on id, 0, by decide +kernel⟩,
    ⟨on (audOnly base.aud), 0, fresh (on (audOnly base.aud)), rfl, at_now rfl (by decide +kernel), by decide +kernel⟩,
    ⟨on (audOnly { base.aud with st := .bridging, returnDue := true, outs := base.aud.outs.set 1 { run := true, low := true } }), by decide +kernel⟩,
    ⟨on (audOnly { base.aud with st := .bridging, returnDue := true }), by decide +kernel⟩,
    ⟨on (audOnly base.aud), by decide +kernel⟩,
    ⟨on (audOnly { base.aud with outs := base.aud.outs.set 2 { run := true, ramp := 1, why := 2, rampDone := true } }), 2, by decide +kernel⟩,
    ⟨on (audOnly { base.aud with outs := base.aud.outs.set 2 { run := true, ramp := 2, why := 1, rampDone := true } }), 2, by decide +kernel⟩,
    ⟨on id, 2, by decide +kernel⟩,
    ⟨on id, 4, by decide +kernel⟩,
    ⟨on fun d => put (aoutCfg 2) 0x80021000 (audOnly { d.aud with st := .following } d), 2, by decide +kernel⟩,
    ⟨on fun d => put (aoutCfg 2) 0x00020000 (audOnly { d.aud with st := .following, outs := d.aud.outs.set 2 { run := true } } d), 2, by decide +kernel⟩,
    ⟨on (audOnly { base.aud with st := .following, rate := 2, clocks := base.aud.clocks.set 2 { present := true, periods := [20833, 20833, 20834] }, outs := base.aud.outs.set 2 { run := true, content := (2, 1), flows := true, buf := [(1, 2)] } }), 2, by decide +kernel⟩,
    ⟨on (audOnly { base.aud with st := .following, rate := 2, clocks := base.aud.clocks.set 2 { present := true, periods := [20833, 20833, 20834] }, outs := base.aud.outs.set 2 { run := true, content := (2, 1), flows := true, buf := List.replicate 30 (1, 2) } }), 2, by decide +kernel⟩,
    ⟨on (audOnly base.aud), 2, by decide +kernel⟩⟩

theorem witness_FaultReports :
  (∃ (s : State) (c : Nat) (ch : Nat) (dt : Nat), Undisturbed (faultReport (fresh s) c ch dt) ∧ srcClass c = some .c ∧ s.dev.flt.log.length < 64 ∧ (∀ e ∈ s.dev.flt.log, e.source ≠ c) ∧ c ≠ srcLockstep) ∧
  (∃ (s : State) (c : Nat) (ch : Nat) (dt : Nat), Undisturbed (faultReport (fresh s) c ch dt) ∧ srcClass c = some .c ∧ 64 ≤ s.dev.flt.log.length ∧ (∀ e ∈ s.dev.flt.log, e.source ≠ c)) ∧
  (∃ (s : State) (c : Nat), Undisturbed (fresh s) ∧ calm s.dev = true ∧ srcClass c = none) ∧
  (∃ (s : State) (c : Nat) (ch : Nat), srcClass c = some .d ∧ ch < 256 ∧ s.dev.flt.reactions = [] ∧ s.dev.flt.waiting = [] ∧ s.dev.flt.chans = []) ∧
  (∃ (s : State) (c : Nat) (ch : Nat) (g : Grace) (d : Dev), indIdle s.dev ∧ At s g.deadline.toNat d ∧ (fltChanOf s.dev c ch).grace = some g ∧ g.perm = false ∧ c / 256 ≠ 13 ∧ calm d = true ∧ (fltChanOf d c ch).grace = some g) ∧
  (∃ (s : State) (c : Nat) (ch : Nat), calm s.dev = true ∧ (fltChanOf s.dev c ch).grace = none) ∧
  (∃ (s : State) (r : Requester) (v : Word) (x : FltChan) (g : Grace), Served s.dev r FLT_ACK ∧ calm s.dev = true ∧ s.dev.flt.chans = [x] ∧ x.grace = some g ∧ g.seq = v ∧ s.dev.t.toNat < g.deadline.toNat) ∧
  (∃ (s : State) (r : Requester) (v : Word), Served s.dev r FLT_ACK ∧ calm s.dev = true ∧ (∀ x ∈ s.dev.flt.chans, x.grace.all (fun g => (g.seq != v && g.entrySeq != v) || g.deadline.toNat ≤ s.dev.t.toNat) = true)) ∧
  (∃ (s : State) (r : Requester) (v : Word), Served s.dev r FLT_ACK ∧ calm s.dev = true ∧ (∀ x ∈ s.dev.flt.chans, x.grace.all (fun g => (g.seq != v && g.entrySeq != v) || g.deadline.toNat ≤ s.dev.t.toNat) = true)) ∧
  (∃ (s : State) (c : Nat) (ch : Nat), calm s.dev = true ∧ (fltChanOf s.dev c ch).backoff = false) ∧
  (∃ (s : State) (c : Nat) (ch : Nat) (t : Tick) (l : List Tick) (d : Dev), indIdle s.dev ∧ At s (t.toNat + min (2 ^ l.length) 1024 * ms) d ∧ (fltChanOf s.dev c ch).backoff = true ∧ (fltChanOf s.dev c ch).retryTs = t :: l ∧ c = srcPtpCons ∧ (fltChanOf d c ch).backoff = true ∧ heldInReset d 15 ch = false ∧ d.gen.rst = none) ∧
  (∃ (s : State), calm s.dev = true ∧ runningPerm s.dev = none) ∧
  (∃ (s : State) (r : Reaction) (d : Dev), indIdle s.dev ∧ At s s.dev.t.toNat d ∧ runningPerm s.dev = some r ∧ r.step = 2 ∧ runningPerm d = some r ∧ d.flt.waiting = [] ∧ r.ladder.testBit 2 = false ∧ abdicateCause r.code = none ∧ r.ladder.testBit 3 = false ∧ calm d = true) ∧
  (∃ (s : State) (r : Reaction) (d : Dev), indIdle s.dev ∧ At s (r.stepT.toNat + 15 * ms) d ∧ runningPerm s.dev = some r ∧ r.step = 3 ∧ r.ladder.testBit 3 = true ∧ runningPerm d = some r ∧ calm d = true) ∧
  (∃ (s : State) (r : Requester) (v : Word), Served s.dev r FLT_INJ ∧ Undisturbed (withWrite (fresh s) r FLT_INJ fun d => fltInj d v) ∧ calm s.dev = true ∧ s.dev.gen.mode ≠ .factory) ∧
  (∃ (s : State) (r : Requester) (v : Word), Served s.dev r FLT_INJ ∧ Undisturbed (withWrite (fresh s) r FLT_INJ fun d => fltInj d v) ∧ s.dev.gen.mode = .factory ∧ bit v 31 = true ∧ bits v 29 28 = 0) ∧
  (∃ (s : State) (r : Requester) (x : FltEntry) (rest : List FltEntry), Served s.dev r FLT_ENT ∧ calm s.dev = true ∧ s.dev.flt.log = x :: rest) ∧
  (∃ (s : State) (r : Requester), Served s.dev r FLT_SRC_SEL ∧ calm s.dev = true) :=
  ⟨⟨on (fltIn { log := [entryOf srcAudSlip 1], nextSeq := 2, lostBefore := true }), srcRefLoss, 7, 9, undisturbed_of (by decide +kernel), by decide +kernel⟩,
    ⟨on (fltIn { log := List.replicate 64 (entryOf srcAudSlip 1), nextSeq := 2 }), srcRefLoss, 7, 9, undisturbed_of (by decide +kernel), by decide +kernel⟩,
    ⟨on id, 0xFFFF, undisturbed_of (by decide +kernel), by decide +kernel⟩,
    ⟨on id, srcPtpCons, 0, by decide +kernel⟩,
    ⟨on (fun d => waited (fltIn { chans := [{ code := srcPtpCons, grace := some ⟨1, 1, 5, false, 0⟩ }] } (plane [] d))), srcPtpCons, 0, ⟨1, 1, 5, false, 0⟩, fresh (on (fun d => waited (fltIn { chans := [{ code := srcPtpCons, grace := some ⟨1, 1, 5, false, 0⟩ }] } (plane [] d)))), rfl, at_now rfl (by decide +kernel), by decide +kernel⟩,
    ⟨on id, srcPtpCons, 0, by decide +kernel⟩,
    ⟨on (fltIn { log := [entryOf srcPtpCons 3], chans := [{ code := srcPtpCons, grace := some ⟨4, 3, 5, false, 0⟩ }] }), .cores, 4, { code := srcPtpCons, grace := some ⟨4, 3, 5, false, 0⟩ }, ⟨4, 3, 5, false, 0⟩, served_of (by decide +kernel), by decide +kernel⟩,
    ⟨on id, .cores, 4, served_of (by decide +kernel), by decide +kernel⟩,
    ⟨on fun d => waited (fltIn { chans := [{ code := srcPtpCons, grace := some ⟨4, 3, 5, false, 0⟩ }] } d), .cores, 4, served_of (by decide +kernel), by decide +kernel⟩,
    ⟨on id, srcPtpCons, 0, by decide +kernel⟩,
    ⟨on (fun d => waited (fltIn { chans := [{ code := srcPtpCons, backoff := true, retryTs := [5, 3] }] } d)), srcPtpCons, 0, 5, [3], fresh (on (fun d => waited (fltIn { chans := [{ code := srcPtpCons, backoff := true, retryTs := [5, 3] }] } d))), rfl, at_now rfl (by decide +kernel), by decide +kernel⟩,
    ⟨on id, by decide +kernel⟩,
    ⟨on (fltIn { reactions := [⟨srcPtpCons, 0, 4, .d, 0, 0, 2, 0, 0, none⟩] }), ⟨srcPtpCons, 0, 4, .d, 0, 0, 2, 0, 0, none⟩, fresh (on (fltIn { reactions := [⟨srcPtpCons, 0, 4, .d, 0, 0, 2, 0, 0, none⟩] })), rfl, at_now rfl (by decide +kernel), by decide +kernel⟩,
    ⟨on (fun d => waited (fltIn { reactions := [⟨srcPtpCons, 0, 4, .d, 0, 0, 3, 0, 8, none⟩] } d)), ⟨srcPtpCons, 0, 4, .d, 0, 0, 3, 0, 8, none⟩, fresh (on (fun d => waited (fltIn { reactions := [⟨srcPtpCons, 0, 4, .d, 0, 0, 3, 0, 8, none⟩] } d))), rfl, at_now rfl (by decide +kernel), by decide +kernel⟩,
    ⟨on id, .cores, 0x80000D01, served_of (by decide +kernel), undisturbed_of (by decide +kernel), by decide +kernel⟩,
    ⟨on (inMode .factory), .cores, w32 (0x80000000 + srcRefLoss), served_of (by decide +kernel), undisturbed_of (by decide +kernel), by decide +kernel⟩,
    ⟨on (fltIn { log := [entryOf srcPtpCons 3, entryOf srcAudSlip 4] }), .cores, entryOf srcPtpCons 3, [entryOf srcAudSlip 4], served_of (by decide +kernel), by decide +kernel⟩,
    ⟨on (fltIn { sources := [⟨srcPtpCons, 3, 2, 1, 0⟩] }), .cores, served_of (by decide +kernel), by decide +kernel⟩⟩

theorem witness_StepRunsTheFront :
  (∃ (s : State) (c : Instr) (rest : List Instr), s.pending = c :: rest) :=
  ⟨{ State.reset with pending := [.preBell, .linkLoss 2] }, .preBell, [.linkLoss 2], by decide +kernel⟩

end Sys2Proof.Tests
end

/-! ### Working scales, their records and the INC change (R97, R104, R111, R114) -/

namespace Sys2Proof.Machine
open Sys2Proof

@[simp] theorem scaleOf_updScale_self (d : Dev) (b : Bool) (g : Scale → Scale) :
    scaleOf (updScale d b g) b = g (scaleOf d b) := by cases b <;> rfl

@[simp] theorem scaleOf_statSet (d : Dev) (win k : Nat) (b : Bool) : scaleOf (statSet d win k) b = scaleOf d b := rfl

@[simp] theorem writeRec_regs (d : Dev) (b : Bool) (r : LedgerRec) : (writeRec d b r).regs = d.regs := by
  cases b <;> rfl

/-- R111, R114: a record goes to the scale's write position and moves it on; the scale's own counters stay. -/
theorem scaleOf_writeRec_self (d : Dev) (b : Bool) (r : LedgerRec) :
    scaleOf (writeRec d b r) b = { scaleOf d b with
      ram := sparseSet blankRec (scaleOf d b).ram ((scaleOf d b).lwp.toNat % 4096) r
      lwp := (scaleOf d b).lwp + 1
      sum := if r.action == 1 then 0 else r.runsum } := by cases b <;> rfl

@[simp] theorem f_writeRec_self (d : Dev) (b : Bool) (r : LedgerRec) :
    (scaleOf (writeRec d b r) b).f = (scaleOf d b).f := by rw [scaleOf_writeRec_self]

/-- The record just written stands at the write position from before it. -/
theorem recAt_writeRec_self (d : Dev) (b : Bool) (r : LedgerRec) :
    recAt (writeRec d b r) b (scaleOf d b).lwp.toNat = r := by
  rw [recAt, scaleOf_writeRec_self, sparseGet_set_self]

theorem bit_putBit_true (w : Word) {k : Nat} (h : k < 32) : bit (putBit w k true) k = true := by
  simp only [bit, putBit, if_true, BitVec.getLsbD_or, BitVec.getLsbD_ofNat, h, Nat.testBit_two_pow_self, decide_true,
    Bool.and_true, Bool.or_true]

theorem rgb_statSet_self (d : Dev) (win : Nat) {k : Nat} (h : k < 32) : rgb (statSet d win k) (win + 8) k = true := by
  rw [rgb, statSet, rg_setReg_self, bit_putBit_true _ h]

theorem clampInc_eq_self_iff (f : Int) : clampInc f = f ↔ -(2 ^ 38) ≤ f ∧ f ≤ 2 ^ 38 := by
  rw [clampInc]; omega

theorem clampInc_ne_self_iff (f : Int) : f ≠ clampInc f ↔ f < -(2 ^ 38) ∨ 2 ^ 38 < f := by
  rw [ne_comm, ne_eq, clampInc_eq_self_iff]; omega

/-- The device once STAT.INC_CLAMP shows whether the offset asked for lies outside its range (R97). -/
def showIncClamp (d : Dev) (f : Int) : Dev := if f != clampInc f then statSet d baseTsc 16 else d

/-- The device once a working scale counts with the clamped offset. -/
def takeInc (d : Dev) (b : Bool) (f : Int) : Dev := updScale (showIncClamp d f) b fun s => { s with f := clampInc f }

@[simp] theorem scaleOf_showIncClamp (d : Dev) (f : Int) (b : Bool) : scaleOf (showIncClamp d f) b = scaleOf d b := by
  unfold showIncClamp; split <;> simp

@[simp] theorem scaleOf_takeInc_self (d : Dev) (b : Bool) (f : Int) :
    scaleOf (takeInc d b f) b = { scaleOf d b with f := clampInc f } := by simp [takeInc]

theorem showIncClamp_outside (d : Dev) {f : Int} (h : f < -(2 ^ 38) ∨ 2 ^ 38 < f) :
    showIncClamp d f = statSet d baseTsc 16 := if_pos (bne_iff_ne.mpr ((clampInc_ne_self_iff f).mpr h))

theorem showIncClamp_inside (d : Dev) {f : Int} (h : -(2 ^ 38) ≤ f ∧ f ≤ 2 ^ 38) : showIncClamp d f = d :=
  if_neg fun hne => bne_iff_ne.mp hne ((clampInc_eq_self_iff f).mpr h).symm

section
variable {d : Dev} {b : Bool} {f : Int} {source flags : Nat}

/-- R104: an offset that stays as it is writes no record. -/
theorem changeInc_of_same (h : wantedInc d b = some (f, source, flags)) (hf : (scaleOf d b).f = clampInc f) :
    changeInc d b = showIncClamp d f := by
  have hsame : (clampInc f == (scaleOf (showIncClamp d f) b).f) = true := by rw [scaleOf_showIncClamp, hf, BEq.rfl]
  rw [changeInc, h]
  exact if_pos hsame

/-- R97, R104: an offset that changes is taken clamped, and recorded with FLAGS.CLAMP where it was clamped. -/
theorem changeInc_of_new (h : wantedInc d b = some (f, source, flags)) (hf : (scaleOf d b).f ≠ clampInc f) :
    changeInc d b = writeRec (takeInc d b f) b
      (recOf (takeInc d b f) (clampInc f) (runSum (scaleOf (takeInc d b f) b)) (scaleCode b) 3 source
        (flags + 8 * b2n (f != clampInc f))) := by
  have hnew : ¬ (clampInc f == (scaleOf (showIncClamp d f) b).f) = true := by
    rw [scaleOf_showIncClamp, beq_iff_eq]; exact hf.symm
  rw [changeInc, h]
  exact if_neg hnew

theorem changeInc_regs (h : wantedInc d b = some (f, source, flags)) :
    (changeInc d b).regs = (showIncClamp d f).regs := by
  by_cases hf : (scaleOf d b).f = clampInc f
  · rw [changeInc_of_same h hf]
  · rw [changeInc_of_new h hf, writeRec_regs, takeInc, updScale_regs]

theorem changeInc_f (h : wantedInc d b = some (f, source, flags)) : (scaleOf (changeInc d b) b).f = clampInc f := by
  by_cases hf : (scaleOf d b).f = clampInc f
  · rw [changeInc_of_same h hf, scaleOf_showIncClamp, hf]
  · rw [changeInc_of_new h hf, f_writeRec_self, scaleOf_takeInc_self]

/-- The record of a changed offset, at the write position from before the change. -/
theorem recAt_changeInc (h : wantedInc d b = some (f, source, flags)) (hf : (scaleOf d b).f ≠ clampInc f) :
    recAt (changeInc d b) b (scaleOf d b).lwp.toNat =
      recOf (takeInc d b f) (clampInc f) (runSum (scaleOf (takeInc d b f) b)) (scaleCode b) 3 source
        (flags + 8 * b2n (f != clampInc f)) := by
  have hlwp : (scaleOf d b).lwp = (scaleOf (takeInc d b f) b).lwp := by rw [scaleOf_takeInc_self]
  rw [changeInc_of_new h hf, hlwp, recAt_writeRec_self]

/-- Table 5.1: the FLAGS of an INC change show its contributor: software, the holdover model or the stall. -/
theorem wantedInc_flags (h : wantedInc d b = some (f, source, flags)) : flags = 32 ∨ flags = 64 ∨ flags = 16 := by
  simp only [wantedInc] at h
  generalize (if b = true then 0x100 else 0) = k at h
  split at h
  · cases h; exact .inl rfl
  · obtain ⟨o, -, ho⟩ := Option.map_eq_some_iff.mp h
    split at ho <;> cases ho
    · exact .inr (.inl rfl)
    · exact .inr (.inr rfl)

/-- Beside a contributor and BPEND, bit 3 of FLAGS tells a clamped offset. -/
theorem testBit_clamp_flag (h : wantedInc d b = some (f, source, flags)) (c : Bool) :
    (flags + 8 * b2n c + 1).testBit 3 = c := by
  obtain rfl | rfl | rfl := wantedInc_flags h <;> cases c <;> rfl

end

/-- Settles O9: the offset is clamped whether or not it changes, and both cases leave the STAT that `showIncClamp` gives. -/
theorem incOffsetIsClamped : Obligations.IncOffsetIsClamped := by
  intro d b f source flags h
  have hstat := rg_congr (changeInc_regs h) (baseTsc + 8)
  refine ⟨changeInc_f h, fun hout => ?_, fun hin => ?_, fun hf => ?_⟩
  · rw [rgb, hstat, showIncClamp_outside d hout]
    exact rgb_statSet_self d baseTsc (by decide)
  · rw [hstat, showIncClamp_inside d hin]
  · rw [recAt_changeInc h hf]
    refine ⟨rfl, rfl, rfl, ?_⟩
    rw [← clampInc_ne_self_iff, ← bne_iff_ne]
    exact Bool.eq_iff_iff.mp (testBit_clamp_flag h (f != clampInc f))

end Sys2Proof.Machine

/-! ### The loop bandwidth of a stall (R103, R169 to R172) -/

namespace Sys2Proof.Machine
open Sys2Proof

theorem stallOf_updStall_self {d : Dev} {n : Nat} (h : n < d.stalls.length) (g : Stall → Stall) :
    stallOf (updStall d n g) n = g (stallOf d n) := by
  rw [stallOf, updStall_stalls, upd_getD _ _ _ _ _ h, if_pos rfl, stallOf]

/-! What a stall's settings are read from -/

/-- The same built pitches, words in effect and number of stalls. -/
def SameSettings (e d : Dev) : Prop := e.cht = d.cht ∧ e.eff = d.eff ∧ e.stalls.length = d.stalls.length

theorem SameSettings.refl (d : Dev) : SameSettings d d := ⟨rfl, rfl, rfl⟩

theorem SameSettings.trans {a b c : Dev} (hab : SameSettings a b) (hbc : SameSettings b c) : SameSettings a c :=
  ⟨hab.1.trans hbc.1, hab.2.1.trans hbc.2.1, hab.2.2.trans hbc.2.2⟩

theorem sameSettings_updStall (d : Dev) (n : Nat) (g : Stall → Stall) : SameSettings (updStall d n g) d :=
  ⟨rfl, rfl, by simp⟩

theorem SameSettings.stallFunc_eq {e d : Dev} (h : SameSettings e d) (n : Nat) : stallFunc e n = stallFunc d n := by
  simp only [stallFunc, pitchFunc, pitchOf, h.1]

theorem SameSettings.field_eq {e d : Dev} (h : SameSettings e d) (k hi lo : Nat) : eff e k hi lo = eff d k hi lo := by
  rw [eff, ef_congr h.2.1, eff]

/-- A rounding left open draws at most a free value (log 2). -/
theorem sameSettings_freeDiv (d : Dev) (a : Int) (m : Nat) : SameSettings (freeDiv d a m).2 d := by
  unfold freeDiv
  split <;> exact ⟨rfl, rfl, rfl⟩

theorem sameSettings_toPs (d : Dev) (q : Rat) : SameSettings (toPs d q).2 d := sameSettings_freeDiv d _ _

theorem sameSettings_measured (d : Dev) (n : Nat) (phase : Int) : SameSettings (measured d n phase).2 d := by
  unfold measured
  dsimp only
  split
  · split
    · exact (sameSettings_toPs _ _).trans (sameSettings_freeDiv d _ _)
    · exact .refl d
  · exact .refl d

/-! The update -/

/-- R169, R175: outside free-run a detector result reaches the loop; the measurement and the zero leave the settings. -/
theorem stallUpdate_runs_loop {d : Dev} {n : Nat} (phase : Int) (hrun : fabricRuns d = true)
    (hbuilt : stallBuilt d n = true) (hhold : holdsY d n = false) (hcur : (selOf d n).curV = true)
    (hservo : (selOf d n).servo ≠ .freeRun) :
    ∃ d3 e, SameSettings d3 d ∧ stallUpdate d n phase = offerInc (loopUpdate d3 n e) n := by
  have hm := sameSettings_measured d n phase
  rcases hmd : measured d n phase with ⟨ps, d0⟩
  rw [hmd] at hm
  have ht := sameSettings_toPs d0 ((twinPhase d0 n : Int) : Rat)
  rcases htd : toPs d0 ((twinPhase d0 n : Int) : Rat) with ⟨tw, d1⟩
  rw [htd] at ht
  have hguard : (!fabricRuns d || !stallBuilt d n || holdsY d n || (!(selOf d n).curV && tbusOf d n == 0)) = false := by
    simp [hrun, hbuilt, hhold, hcur]
  simp only [stallUpdate, hguard, hmd, htd, Bool.false_eq_true, if_false, beq_iff_eq, hservo]
  refine ⟨_, _, (sameSettings_updStall _ n _).trans (.trans ?_ (ht.trans hm)), rfl⟩
  split
  · exact sameSettings_updStall _ _ _
  · exact .refl _

theorem bwEff_noteClamp (d : Dev) {n : Nat} (h : n < d.stalls.length) :
    (stallOf (noteClamp d n) n).bwEff = (stallOf d n).bwEff := by
  have hclamped (c : Bool) : (stallOf (updStall d n fun s => { s with clamped := c }) n).bwEff = (stallOf d n).bwEff := by
    rw [stallOf_updStall_self h]
  unfold noteClamp
  dsimp only
  split
  · rfl
  · split
    · exact hclamped _
    · exact hclamped _

theorem offerInc_stalls (d : Dev) (n : Nat) : (offerInc d n).stalls = d.stalls := by
  unfold offerInc
  split
  · split <;> simp
  · rfl

theorem stalls_drawUnless (p : Prop) [Decidable p] (d : Dev) (m : Nat) :
    (if p then (0, d) else drawBelow d m).2.stalls = d.stalls := by split <;> rfl

/-- R170: the bandwidth a stall shows is the one its loop ran at. -/
theorem bwEff_loopUpdate {d : Dev} {n : Nat} (e : Int) (h : n < d.stalls.length) :
    (stallOf (loopUpdate d n e) n).bwEff = effCode d n (updateHz d n) := by
  unfold loopUpdate
  dsimp only
  rw [bwEff_noteClamp, stallOf_updStall_self]
  · rwa [stalls_drawUnless]
  · rwa [updStall_stalls, upd_length, stalls_drawUnless]

/-! The effective code -/

theorem updateHz_of_scaleSteering {d : Dev} {n : Nat} (h : stallFunc d n = 1) : updateHz d n = 1 := by
  rw [updateHz, h]; rfl

/-- Table 8.2: code 8 is 50 mHz, and the bandwidths rise with their codes. -/
theorem bwTable_le_500_iff {c : Nat} (h : c ≤ 20) : bwTable.getD c 0 ≤ 500 ↔ c ≤ 8 := by
  interval_cases c <;> decide

/-- The last of the numbers up to `w` that do not exceed `m`. -/
theorem getLast?_range_le (w m : Nat) : ((List.range (w + 1)).filter (· ≤ m)).getLast? = some (min m w) := by
  induction w with
  | zero => simp
  | succ w ih =>
    rw [List.range_succ, List.filter_append]
    by_cases h : w + 1 ≤ m
    · simp [h]
    · have hmin : min m w = min m (w + 1) := by omega
      simp [h, ih, hmin]

theorem bandwidth_le_twentieth_hz_iff (m : Nat) : (m : Rat) / 10000 ≤ 1 / 20 ↔ m ≤ 500 := by
  rw [div_le_div_iff₀ (by norm_num) (by norm_num)]
  norm_cast
  omega

/-- R103, R170: at one update a second, a twentieth of which is 50 mHz, codes above 8 act as 8. -/
theorem effCode_of_scaleSteering {d : Dev} {n : Nat} (h : stallFunc d n = 1) :
    effCode d n 1 = min 8 (min 20 (eff d (stKey SL_LOOP n) 4 0)) := by
  unfold effCode
  dsimp only
  rw [List.filter_congr (q := (· ≤ 8)), getLast?_range_le, Option.getD_some]
  intro c hc
  have h20 : c ≤ 20 := by rw [List.mem_range] at hc; omega
  simp only [bandwidth_le_twentieth_hz_iff, bwTable_le_500_iff h20, h, bne_self_eq_false, Bool.false_or, Bool.and_self]

/-- Settles O29: the loop runs at the effective code of R103, whatever the detector result was. -/
theorem scaleStallBandwidth : Obligations.ScaleStallBandwidth := by
  intro s n p hrun hbuilt hlen hhold hcur hservo hfunc
  have hw : min 20 (eff s.dev (stKey SL_LOOP n) 4 0) ≤ 20 := Nat.min_le_left _ _
  generalize hc : min 20 (eff s.dev (stKey SL_LOOP n) 4 0) = w at hw
  have hcode : (stallOf (ended s.dev (stallUpdate { s.dev with out := [] } n p)) n).bwEff = min 8 w := by
    obtain ⟨d3, e, hset, hupd⟩ := stallUpdate_runs_loop (d := { s.dev with out := [] }) p hrun hbuilt hhold hcur hservo
    have hfunc3 : stallFunc d3 n = 1 := (hset.stallFunc_eq n).trans hfunc
    have heff3 : eff d3 (stKey SL_LOOP n) 4 0 = eff s.dev (stKey SL_LOOP n) 4 0 := hset.field_eq _ _ _
    rw [stallOf, ended_stalls, hupd, offerInc_stalls, ← stallOf, bwEff_loopUpdate e (hset.2.2 ▸ hlen),
      updateHz_of_scaleSteering hfunc3, effCode_of_scaleSteering hfunc3, heff3, hc]
  refine gives_stallUpdate n p s ?_
  rw [hcode]
  refine ⟨(bwTable_le_500_iff (by omega)).mpr (by omega), fun hover => ?_, fun hin => ?_⟩
  · have : ¬ w ≤ 8 := fun h => absurd ((bwTable_le_500_iff hw).mpr h) (by omega)
    rw [Nat.min_eq_left (by omega)]; rfl
  · exact Nat.min_eq_right ((bwTable_le_500_iff hw).mp hin)

end Sys2Proof.Machine
